-- ==== Sys2Proof/Word.lean ====
section
/-! DEFINITION. The plain data the manual counts in: bytes, little-endian fields (R8), bit ranges. -/

namespace Sys2Proof

abbrev Byte := BitVec 8
abbrev Bytes := List Byte

/-- The low `w` bits of a number as an unsigned field. -/
def low (w n : Nat) : Nat := n % 2 ^ w

/-- Bits [lo + w - 1 : lo] of a number. -/
def bits (n lo w : Nat) : Nat := n / 2 ^ lo % 2 ^ w

/-- Bit [i] of a number. -/
def bit (n i : Nat) : Bool := bits n i 1 == 1

def ofBool (b : Bool) : Nat := if b then 1 else 0

/-- Little-endian value of a run of bytes: byte 0 is the least significant (R8). -/
def leNat : Bytes → Nat
  | [] => 0
  | b :: bs => b.toNat + 256 * leNat bs

/-- The `k` little-endian bytes of a number. -/
def leBytes : Nat → Nat → Bytes
  | 0, _ => []
  | k + 1, n => BitVec.ofNat 8 n :: leBytes k (n / 256)

/-- The two's-complement value of a `w`-bit field. -/
def toInt (w n : Nat) : Int :=
  if n % 2 ^ w < 2 ^ (w - 1) then (n % 2 ^ w : Nat) else (n % 2 ^ w : Nat) - (2 ^ w : Nat)

/-- The `w`-bit two's-complement code of an integer. -/
def ofInt (w : Nat) (i : Int) : Nat := (i % (2 ^ w : Nat)).toNat

/-- A counter of `w` bits that saturates. -/
def satAdd (w n k : Nat) : Nat := min (2 ^ w - 1) (n + k)

/-- ⌈a / b⌉. -/
def ceilDiv (a b : Nat) : Nat := (a + b - 1) / b

/-- A power of two. -/
def isPow2 (n : Nat) : Bool := n != 0 && Nat.land n (n - 1) == 0

end Sys2Proof
end

