-- ==== Sys2Proof/Syntax.lean ====
section
/-! DEFINITION. The commands the LX20 takes: one constructor of Instr for each row of spec/opcode_table.json,
with what the row's event delivers. Operand types hold the ranges the manual fixes wherever a bounded type says them. -/

namespace Sys2Proof

/-- A submission queue: 16 kernel queues and 4,096 user queues (R284). -/
inductive QRef where
  | kernel (k : Fin 16)
  | user (q : Fin 4096)
  deriving DecidableEq, Repr

abbrev CtxId := Fin 1024
abbrev Hall := Fin 16
abbrev Gallery := Fin 20
/-- A hall tread index, 32g + t (R5). -/
abbrev HTread := Fin 640
abbrev LinkId := Fin 16
abbrev Source := Fin 512
abbrev Island := Fin 670

/-- The four mailbox channels (R348). -/
inductive Chan where
  | host | bmc | jtag | mirror
  deriving DecidableEq, Repr

/-- Register access sizes. -/
inductive WSize where
  | b1 | b2 | b4 | b8
  deriving DecidableEq, Repr

/-- A host access through BAR4 (R339). -/
inductive Bar4Op where
  | read (n : Nat)
  | write (data : Bytes)
  deriving DecidableEq, Repr

/-- What configuration space says of the function (Table 14.1). -/
inductive CfgItem where
  | vendorId | deviceId | classCode | revisionId | speeds | widths | laneReversal | maxPayload | maxReadRequest | tagBits
  | aspmL1 | aspmL0s | l1Substates | d3hot | noSoftReset | aer | msixVectors | msi | intx | atomicRequester
  | atomicCompleter | resizableBar4 | functionReset | sriov | ats | pasid | memSpace | busMaster | msixEnable
  | msixMaskAll | bar4Size | powerState
  deriving DecidableEq, Repr

/-- A configuration request (R336): a read of one item, or a write of one of the controls the manual names. -/
inductive CfgReq where
  | read (item : CfgItem)
  | memSpace (on : Bool)
  | busMaster (on : Bool)
  | atomicRequester (on : Bool)
  | msixEnable (on : Bool)
  | msixMaskAll (on : Bool)
  | bar4Size (index : Fin 6)
  deriving DecidableEq, Repr

/-- Outcome of a device read of host memory, or of an AtomicOp (R326, R337). -/
inductive HostOutcome where
  | success
  | unsupported
  | completerAbort
  | poisoned
  deriving DecidableEq, Repr

/-- A unit of a march (R265). -/
inductive MarchUnit where
  | scratch (h : Hall) (t : HTread)
  | shared (h : Hall)
  | channel (c : Fin 32)
  deriving DecidableEq, Repr

/-- What a march found in one unit: the device addresses of the failing words or lines in the order in which it found
them, each with whether it is uncorrectable (R262, R263, R269). -/
structure MarchFinding where
  unit : MarchUnit
  found : List (Nat × Bool)
  deriving DecidableEq, Repr

/-- The number of failing words or lines, and the first of them (R269). -/
def MarchFinding.words (f : MarchFinding) : Nat := f.found.length
def MarchFinding.first (f : MarchFinding) : Nat := (f.found.headD (0, false)).1

/-- The result of a word read by the scrubber or a march: its syndrome (R253, R254). -/
inductive Syndrome where
  | clean | correctable | uncorrectable
  deriving DecidableEq, Repr

/-- What a hello carries (R213). -/
structure HelloMsg where
  part : Nat
  partCount : Nat
  staleness : Nat
  checkEvery : Nat
  epochSweeps : Nat
  stand : Bool
  total : Nat
  loopEntry : Nat
  entryCount : Nat
  seed : Nat
  quantum : Nat
  boundary : Bool
  parent : Bool
  child : Bool
  importCount : Nat
  exportCount : Nat
  deriving DecidableEq, Repr

/-- What a checkpoint verdict holds (R215). -/
structure VerdictMsg where
  epoch : Nat
  energy : Int
  best : Int
  bestEpoch : Nat
  newBest : Bool
  asymmetry : Bool
  targetMet : Bool
  final : Bool
  deriving DecidableEq, Repr

/-- How a partitioned run ended (R219, END_KIND). -/
inductive EndKind where
  | schedule | target | stopFence | abort | fault | linkLost | helloFailure
  deriving DecidableEq, Repr

/-- A LINK_MGMT message: a partner's identifier, limits and role, or a mailbox message (R355). -/
inductive LinkMgmtMsg where
  | info (idValid : Bool) (chainId : Fin 2048) (maxLanes maxRate : Fin 3) (fecOff : Bool) (role : Fin 3)
  | mailbox (message : Bytes)
  deriving DecidableEq, Repr

/-- One entry of the mirror log (R236). `attach` and `detach` are what the two devices tell each other of an ATTACH, with
the sender's PLACE where the context can be attached, and of a DETACH (R235, log 72). -/
inductive MirrorEntry where
  | dispatch (q : QRef) (entry buffer : Bytes)
  | hostBytes (addr : Nat) (data : Bytes)
  | record (flight step : Nat) (data : Bytes)
  | seed (value : Nat)
  | attach (place : Option Bytes)
  | detach
  deriving DecidableEq, Repr

/-- A mirror checkpoint (Table 9.8). -/
structure MirrorPoint where
  isEpoch : Bool
  serial : Nat
  spins : List (List Bool)
  bests : List (List Bool)
  energies : List Int
  fences : List (Nat × Nat)
  queues : List (QRef × Nat × Nat)
  completions : List Bytes
  deriving DecidableEq, Repr

/-- The header of a received flit (Table 9.2), with whether a reserved bit of the flit is set. -/
structure FlitHeader where
  vc : Fin 4
  type : Fin 16
  first : Bool
  last : Bool
  dest : Fin 2048
  src : Fin 2048
  hops : Fin 64
  length : Fin 256
  seq : Fin 4096
  reserved : Bool
  deriving DecidableEq, Repr

/-- What the trailer of a received flit brings (Table 9.2): ACK_SEQ and the credits of each virtual channel, with the number
of words that FEC corrected in the flit. -/
structure FlitTrailer where
  ackSeq : Fin 4096
  credits : List Nat
  corrected : Nat
  deriving DecidableEq, Repr

/-- A link whose candidate has trained, with the first of its lanes (R221). -/
structure TrainedLink where
  link : Fin 16
  lane : Fin 4
  deriving DecidableEq, Repr

/-- The end of a block's reset: its place among the resets in progress, and whether the block works again (R447). -/
structure ResetEnd where
  index : Nat
  passed : Bool
  deriving DecidableEq, Repr

/-- What the power manager reads at a period end (R425, R426, R428): mean input power in W, sensor readings in
quarters of a degree, islands whose tiles or vector units were busy a quarter of their cycles, rail readings. -/
structure PeriodSample where
  powerW : Nat
  temps : List Int
  busy : List Nat
  railMv : List Nat
  railMa : List Nat
  deriving DecidableEq, Repr

/-- What the hardware part of a start-up stage found (Table 18.1): flash or OTP readable, the trained link, the
trained channels, failing units, halls refused, catalogue rows that failed. -/
structure StageReport where
  ok : Bool
  pcieGen : Nat
  pcieWidth : Nat
  /-- each channel's capacity, 2^i GiB (R256), and the channels that passed at each rate of Table 10.3, highest first -/
  capacities : List (Fin 4)
  passes : List Nat
  failing : List MarchFinding
  hallsRefused : Nat
  badRows : List Nat
  deriving DecidableEq, Repr

/-- The commands. -/
inductive Instr where
  -- queues and doorbells
  | sqTailDoorbell (q : QRef) (value : BitVec 32)
  | cqHeadDoorbell (q : QRef) (value : BitVec 32)
  | kernelQueueEnable (k : Fin 16) (config : BitVec 32)
  | kernelQueueDisable (k : Fin 16) (config : BitVec 32)
  | kernelQueueAbort (k : Fin 16)
  | msixUnmask (vector : Fin 2048)
  | registerWrite (offset : BitVec 26) (size : WSize) (value : BitVec 64)
  | entryDispatch
  | entryTerminalCompletion (q : QRef)
  | stallWatchSample
  -- control and memory ops
  | nop (q : QRef)
  | waitFence (q : QRef)
  | waitFencePoll (q : QRef)
  | signalFence (q : QRef)
  | cond (q : QRef)
  | loop (q : QRef)
  | copy (q : QRef)
  | fill (q : QRef)
  | rngFill (q : QRef)
  -- anneal ops
  | loadProblem (q : QRef)
  | updateCoeffs (q : QRef)
  | setSchedule (q : QRef)
  | anneal (q : QRef)
  | stand (q : QRef)
  | readState (q : QRef)
  | readTrace (q : QRef) (ringAddr ringEntries first count destAddr : BitVec 64)
  | boundaryLoad (q : QRef)
  -- tensor ops and tiles
  | matmul (q : QRef)
  | batchedMatmul (q : QRef)
  | reduce (q : QRef)
  | elementwise (q : QRef)
  | gather (q : QRef)
  | scatter (q : QRef)
  | convert (q : QRef)
  | drain (q : QRef)
  | tileSwap (c : CtxId) (h : Hall) (t : HTread) (granule : Fin 32)
  | tileDrainEnd (c : CtxId) (h : Hall) (t : HTread)
  | contextSwitch (h : Hall) (t : HTread) (c : CtxId)
  -- flights, contexts, placement
  | flightBuild (q : QRef)
  | flightRun (q : QRef)
  | flightTear (q : QRef)
  | contextCreate (q : QRef)
  | contextDestroy (q : QRef)
  | place (q : QRef)
  -- power, self-test, calibration
  | preset (q : QRef)
  | hallCeiling (q : QRef)
  | hallOff (q : QRef)
  | hallOn (q : QRef) (findings : List MarchFinding)
  | setVf (q : QRef)
  | clearVf (q : QRef)
  | selftest (q : QRef)
  | calibrate (q : QRef) (failedChannels : BitVec 32)
  -- chain and mirror control
  | limits (q : QRef)
  | linkEnable (q : QRef)
  | linkDisable (q : QRef)
  | retrain (q : QRef)
  | routes (q : QRef)
  | linkStatus (q : QRef)
  | pair (q : QRef)
  | unpair (q : QRef)
  | attach (q : QRef)
  | detach (q : QRef)
  -- queue control
  | queueCreate (q : QRef)
  | queueDestroy (q : QRef)
  | queueEnable (q : QRef)
  | queueDisable (q : QRef)
  | queueAbort (q : QRef)
  | contextDisable (q : QRef)
  | contextEnable (q : QRef)
  | watch (q : QRef)
  -- the anneal's own steps
  | phaseStart (c : CtxId) (h : Hall) (g : Gallery)
  | scanRound (c : CtxId) (block : Fin 2560) (replica : Fin 64)
  | tournamentRound (c : CtxId) (block : Fin 2560) (replica : Fin 64)
  | clusterDecision (c : CtxId) (block : Fin 2560)
  | flipSlotGrant (h : Hall)
  | sweepEnd (c : CtxId)
  | traceStagingDrain (c : CtxId)
  | decisionRingSpace (channel : Fin 64)
  | paceRelease (c : CtxId)
  -- flights in action
  | computeFiring (c : CtxId) (f : Fin 4) (step : Fin 16)
  | bodyOpIssue (c : CtxId) (f : Fin 4) (step : Fin 16)
  | firingEnd (c : CtxId) (f : Fin 4) (step : Fin 16)
  | streamSlotNotice (c : CtxId) (f : Fin 4) (stream : Fin 96)
  | streamCredit (c : CtxId) (f : Fin 4) (stream : Fin 96)
  | deltaRecordArrive (c : CtxId) (f : Fin 4) (stream : Fin 96)
  | ingestRecord (c : CtxId) (f : Fin 4) (step : Fin 16)
  | tailPoll (c : CtxId) (f : Fin 4) (step : Fin 16)
  -- boundary exchange messages
  | hello (c : CtxId) (message : HelloMsg)
  | newel (c : CtxId) (part : Fin 2048) (epoch bitCount : Nat) (crc : BitVec 32)
  | frame (c : CtxId) (part : Fin 2048) (epoch : Nat) (values : List Bool)
  | resend (c : CtxId) (part : Fin 2048) (epoch : Nat)
  | checkUp (c : CtxId) (part : Fin 2048) (epoch : Nat) (sumA sumB : Int) (parts : Nat)
  | verdict (c : CtxId) (message : VerdictMsg)
  | endNotice (c : CtxId) (part : Fin 2048) (kind : EndKind)
  | ingest (tag : BitVec 16) (link : LinkId) (data : Bytes)
  -- chain links and the mirrored pair
  | linkMgmt (link : LinkId) (message : LinkMgmtMsg)
  | nak (link : LinkId) (ackSeq : Fin 4096)
  | linkTrained (mode : TrainedLink)
  | linkCandidateTimeout (link : LinkId)
  | linkSilent (link : LinkId)
  | linkRetryTimer (link : LinkId)
  | mirrorBeatSend
  | mirrorLog (c : CtxId) (entry : MirrorEntry)
  | mirrorState (c : CtxId) (point : MirrorPoint)
  | mirrorPointReached (c : CtxId)
  | aliveInEdge (level : Bool)
  | aliveInTimeout
  | secondaryLinksSilent
  | primaryLinksSilent
  -- host accesses
  | bar4Access (offset : BitVec 39) (access : Bar4Op)
  | configRequest (request : CfgReq)
  | hostCompletion (q : QRef) (op : Fin 32768) (addr : BitVec 63) (outcome : HostOutcome) (data : Bytes)
  | pcieRetrain (gen width : Fin 17)
  | d3hotEnter
  | d0Return
  -- mailbox commands
  | getCaps (ch : Chan)
  | ownClaim (ch : Chan)
  | ownRelease (ch : Chan)
  | ownHandover (ch : Chan)
  | handoverLapse
  | ownerSilent
  | heartbeat (value : BitVec 32)
  | expertEnable (ch : Chan)
  | calRead (ch : Chan)
  | calWriteSetting (ch : Chan) (readBack : Option Bytes)
  | calWriteBegin (ch : Chan)
  | calWriteData (ch : Chan)
  | calWriteCommit (ch : Chan)
  | logRead (ch : Chan)
  | logClear (ch : Chan)
  | fwUpdateBegin (ch : Chan)
  | fwUpdateWrite (ch : Chan)
  | fwUpdateCommit (ch : Chan)
  | fwUpdateAbort (ch : Chan)
  | raiseFloor (ch : Chan) (readBack : Option Bytes)
  | lifecycleAdvance (ch : Chan)
  | quote (ch : Chan)
  | publicKey (ch : Chan)
  | certRead (ch : Chan)
  | nonce (ch : Chan)
  | keygen (ch : Chan)
  | rngBytes (ch : Chan)
  | faultConfigRead (ch : Chan)
  | faultConfigSet (ch : Chan)
  | faultConfigAck (ch : Chan)
  | faultConfigClear (ch : Chan)
  | faultConfigWindow (ch : Chan)
  | faultConfigInject (ch : Chan)
  | powerCap (ch : Chan)
  | selftestReq (ch : Chan)
  | chainIdSet (ch : Chan)
  | i3cDynamicAddress (address : BitVec 7)
  | i3cPrivateWrite (data : Bytes)
  | mboxAccess (dr : BitVec 64)
  -- entropy
  | rawDataRead
  | entropyBlockDone (src : Fin 8) (raw : Bytes)
  | healthTestFailure (src : Fin 8) (proportion : Bool)
  | entropyStartupTestEnd (src : Fin 8) (pass : Bool)
  | entropyRequest
  -- faults and the catalogue
  | faultAssert (src : Source) (rail : Bool) (detail : BitVec 64)
  | blockResetEnd (ended : ResetEnd)
  | curatorTrapEnd (src : Source)
  | fallbackExpiry (src : Source)
  | fcAck (value : BitVec 32)
  | fcInject (value : BitVec 32)
  | injectedConditionClear (src : Source)
  | fcStatusClear (word : Fin 16) (value : BitVec 32)
  | fcFallbackWrite (value : BitVec 32)
  | fcConfigWrite (src : Source) (value : BitVec 32)
  | catalogueTake
  | catalogueRecordValid
  | catalogueDrain (ok : Bool)
  | advance
  -- power, clocks, calibration, memory events
  | controlPeriodEnd (sample : PeriodSample)
  | avsSettled (wing : Fin 4)
  | pllRelockDone (island : Fin 640)
  | islandWake (island : Fin 640)
  | canaryFail (island : Fin 640)
  | canarySweep (island : Fin 640) (pass : Bool)
  | sensorTrimRefresh
  | lpddrRefresh (channel : Fin 32) (bank : Nat)
  | lpddrZqLatch (channel : Fin 32)
  | lpddrPeriodicRetrain (channel : Fin 32)
  | eccWriteback (word : BitVec 48)
  | scrubRead (word : BitVec 48) (found : Syndrome)
  | marchQuietPoint (unit : MarchUnit)
  | marchUnitEnd (unit : MarchUnit) (found lost : List Nat)
  | thermtrip (sensor : Fin 80) (reading : Int)
  | avsbusNoAnswer (wing : Fin 4)
  -- resets and start-up
  | powerOnReset (mgmtAddr : BitVec 3) (testEn : Bool)
  | perstN (level : Bool)
  | functionLevelReset
  | hotReset
  | dlDown
  | startupStageEnd (report : StageReport)
  | pcieTrainingTimeout
  -- op ends, tiles' END requests, flits
  | opEnd (q : QRef) (op : Fin 32768)
  | endRequest (c : CtxId) (h : Hall) (t : HTread) (granule : Fin 32)
  | faultCauseClear (src : Source)
  | flitAck (link : LinkId) (header : FlitHeader) (trailer : FlitTrailer)
  | flitCrcFail (link : LinkId) (uncorrectable : Bool)
  | flitFormatDrop (link : LinkId) (header : FlitHeader)
  | flitForward (link : LinkId) (header : FlitHeader)
  | mirrorBeat (link : LinkId)
  | completionTimeout (q : QRef) (op : Fin 32768)
  | entropyRawBit (value : Bool)
  | clockGating (island : Fin 640)
  deriving DecidableEq, Repr

end Sys2Proof
end

