-- ==== Sys2Proof/Machine/Floats.lean ====
section
/-! DEFINITION. Floating-point values, the number formats of Table 5.1 with N20, W40 and binary64, exact sums and
products, and rounding to nearest even (R120, R121, R126, R128, R132, R134). -/

namespace Sys2Proof.Machine

/-- A value: NaN, an infinity, or (-1)^neg · m · 2^e; zeros are signed. -/
inductive FV where
  | nan
  | inf (neg : Bool)
  | num (neg : Bool) (m : Nat) (e : Int)
  deriving DecidableEq, Repr

/-- A binary format: exponent bits, fraction bits, bias. `special` is 0 for infinities and NaNs at the highest exponent,
1 for E4M3's single NaN, 2 for neither. -/
structure FloatFmt where
  exp : Nat
  frac : Nat
  bias : Nat
  special : Nat
  deriving DecidableEq, Repr

def fp64 : FloatFmt := ⟨11, 52, 1023, 0⟩
def fp32 : FloatFmt := ⟨8, 23, 127, 0⟩
def fp16 : FloatFmt := ⟨5, 10, 15, 0⟩
def bf16 : FloatFmt := ⟨8, 7, 127, 0⟩
def e4m3 : FloatFmt := ⟨4, 3, 7, 1⟩
def e5m2 : FloatFmt := ⟨5, 2, 15, 0⟩
def e3m2 : FloatFmt := ⟨3, 2, 3, 2⟩
def e2m3 : FloatFmt := ⟨2, 3, 1, 2⟩
def e2m1 : FloatFmt := ⟨2, 1, 1, 2⟩
def n20 : FloatFmt := ⟨7, 12, 63, 0⟩
def w40 : FloatFmt := ⟨9, 30, 255, 0⟩

/-- The value of a code. -/
def decodeF (f : FloatFmt) (c : Nat) : FV :=
  let fr := c % 2 ^ f.frac
  let ex := c / 2 ^ f.frac % 2 ^ f.exp
  let neg := bit c (f.exp + f.frac)
  let top := 2 ^ f.exp - 1
  if f.special = 0 ∧ ex = top then (if fr = 0 then .inf neg else .nan)
  else if f.special = 1 ∧ ex = top ∧ fr = 2 ^ f.frac - 1 then .nan
  else if ex = 0 then .num neg fr (1 - (f.bias : Int) - f.frac)
  else .num neg (2 ^ f.frac + fr) ((ex : Int) - f.bias - f.frac)

/-- Integer division rounded to nearest, ties to even. -/
def rne (n d : Nat) : Nat :=
  let q := n / d
  let r := n % d
  if 2 * r < d then q else if d < 2 * r then q + 1 else if q % 2 = 0 then q else q + 1

/-- As `rne` for a signed numerator. -/
def rneInt (n : Int) (d : Nat) : Int := if n < 0 then -(rne n.natAbs d : Int) else rne n.natAbs d

/-- Bits of a number. -/
def bitLen (n : Nat) : Nat := if n = 0 then 0 else Nat.log2 n + 1

/-- m · 2^e rounded to `p` significant bits, no finer than 2^emin: significand and exponent. -/
def roundDy (p : Nat) (emin : Int) (m : Nat) (e : Int) : Nat × Int :=
  let q := max (e + bitLen m - p) emin
  if q ≤ e then (m * 2 ^ (e - q).toNat, q) else (rne m (2 ^ (q - e).toNat), q)

/-- The canonical NaN of a format. -/
def nanCode (f : FloatFmt) : Nat :=
  if f.special = 1 then 2 ^ (f.exp + f.frac) - 1
  else if f = e5m2 then 0x7F
  else (2 ^ f.exp - 1) * 2 ^ f.frac + 2 ^ (f.frac - 1)

/-- The code of the largest finite magnitude. -/
def maxCode (f : FloatFmt) : Nat :=
  if f.special = 0 then (2 ^ f.exp - 1) * 2 ^ f.frac - 1
  else if f.special = 1 then 2 ^ (f.exp + f.frac) - 2
  else 2 ^ (f.exp + f.frac) - 1

/-- The magnitude code of a finite value before the overflow check: exponent and fraction as one number. -/
def magCode (f : FloatFmt) (m : Nat) (e : Int) : Nat :=
  let emin : Int := 1 - (f.bias : Int) - f.frac
  let (r, q) := roundDy (f.frac + 1) emin m e
  if r < 2 ^ f.frac then r
  else ((q - emin).toNat + 1) * 2 ^ f.frac + (r - 2 ^ f.frac)

/-- The code of a value: rounded to nearest even; an overflow gives infinity (NaN where the format has none), or the
largest finite value under `sat` (R132, R162). -/
def encodeF (f : FloatFmt) (sat : Bool) (v : FV) : Nat :=
  let sign (neg : Bool) : Nat := if neg then 2 ^ (f.exp + f.frac) else 0
  match v with
  | .nan => nanCode f
  | .inf neg =>
    if f.special = 0 then sign neg + (2 ^ f.exp - 1) * 2 ^ f.frac
    else if f.special = 1 then nanCode f
    else sign neg + maxCode f
  | .num neg m e =>
    let c := magCode f m e
    if c ≤ maxCode f then sign neg + c
    else if sat then sign neg + maxCode f
    else if f.special = 0 then sign neg + (2 ^ f.exp - 1) * 2 ^ f.frac
    else if f.special = 1 then nanCode f
    else sign neg + maxCode f

/-- A value rounded to a format. -/
def roundF (f : FloatFmt) (v : FV) : FV := decodeF f (encodeF f false v)

/- Exact arithmetic (Table 5.5). -/

def FV.isNan : FV → Bool
  | .nan => true
  | _ => false

def FV.isInf : FV → Bool
  | .inf _ => true
  | _ => false

def FV.isFinite : FV → Bool
  | .num .. => true
  | _ => false

def FV.zero : FV := .num false 0 0

def FV.isZero : FV → Bool
  | .num _ m _ => m == 0
  | _ => false

def FV.isNeg : FV → Bool
  | .nan => false
  | .inf n => n
  | .num n _ _ => n

def FV.ofInt (i : Int) : FV := .num (decide (i < 0)) i.natAbs 0

/-- The signed significand of a finite value at exponent `e`, which is not above its own. -/
def sigAt (neg : Bool) (m : Nat) (e : Int) (at' : Int) : Int :=
  let x : Nat := m * 2 ^ (e - at').toNat
  if neg then -(x : Int) else x

/-- The exact sum. -/
def addV (a b : FV) : FV :=
  match a, b with
  | .nan, _ => .nan
  | _, .nan => .nan
  | .inf s, .inf t => if s = t then .inf s else .nan
  | .inf s, _ => .inf s
  | _, .inf t => .inf t
  | .num s m e, .num t n g =>
    let l := min e g
    let x := sigAt s m e l + sigAt t n g l
    if x = 0 then .num (s && t && m == 0 && n == 0) 0 l else .num (decide (x < 0)) x.natAbs l

/-- The exact product. -/
def mulV (a b : FV) : FV :=
  match a, b with
  | .nan, _ => .nan
  | _, .nan => .nan
  | .inf s, .inf t => .inf (s != t)
  | .inf s, .num t n _ => if n = 0 then .nan else .inf (s != t)
  | .num s m _, .inf t => if m = 0 then .nan else .inf (s != t)
  | .num s m e, .num t n g => .num (s != t) (m * n) (e + g)

def negV (a : FV) : FV :=
  match a with
  | .nan => .nan
  | .inf s => .inf (!s)
  | .num s m e => .num (!s) m e

/-- The quotient, exact enough to be rounded to any format of at most 64 bits: 80 bits and a sticky bit. -/
def divV (a b : FV) : FV :=
  match a, b with
  | .nan, _ => .nan
  | _, .nan => .nan
  | .inf _, .inf _ => .nan
  | .inf s, .num t _ _ => .inf (s != t)
  | .num s _ _, .inf t => .num (s != t) 0 0
  | .num s m e, .num t n g =>
    if n = 0 then (if m = 0 then .nan else .inf (s != t))
    else
      let k := 80 + bitLen n
      let q := m * 2 ^ k / n
      let r := m * 2 ^ k % n
      .num (s != t) (2 * q + (if r = 0 then 0 else 1)) (e - g - k - 1)

/-- A value less than another; false with a NaN. Zeros are equal. -/
def ltV (a b : FV) : Bool :=
  match a, b with
  | .nan, _ => false
  | _, .nan => false
  | .inf s, .inf t => s && !t
  | .inf s, _ => s
  | _, .inf t => !t
  | .num s m e, .num t n g =>
    let l := min e g
    decide (sigAt s m e l < sigAt t n g l)

/-- The order of MAX and MIN: −0 below +0. -/
def ltOrd (a b : FV) : Bool := ltV a b || (a.isZero && b.isZero && a.isNeg && !b.isNeg)

/-- A finite value rounded to an integer, ties to even. -/
def intOf (v : FV) : Int :=
  match v with
  | .num s m e =>
    let k := if 0 ≤ e then m * 2 ^ e.toNat else rne m (2 ^ (-e).toNat)
    if s then -(k : Int) else k
  | _ => 0

/-- A finite value as a fraction. -/
def fracOf (v : FV) : Int × Nat :=
  match v with
  | .num s m e =>
    let n : Nat := if 0 ≤ e then m * 2 ^ e.toNat else m
    (if s then -(n : Int) else n, if 0 ≤ e then 1 else 2 ^ (-e).toNat)
  | _ => (0, 1)

end Sys2Proof.Machine
end

