-- ==== Sys2Proof/Machine/Flags.lean ====
section
/-! DEFINITION. Status codes (Table 12.10), reason codes and the layouts of detail words (R11, R245, R291, R300). -/

namespace Sys2Proof.Machine

def stOk : Nat := 0x0000
def stPartial : Nat := 0x0001
def stBadFormat : Nat := 0x0101
def stPrivileged : Nat := 0x0102
def stBadAddress : Nat := 0x0103
def stBadContext : Nat := 0x0104
def stDoesNotFit : Nat := 0x0201
def stBusy : Nat := 0x0202
def stAborted : Nat := 0x0301
def stAbortedDisabled : Nat := 0x0302
def stDeviceFault : Nat := 0x0401
def stLinkLost : Nat := 0x0402
def stRngFailed : Nat := 0x0501
def stStallNotice : Nat := 0x0601

/-- OK or OK_PARTIAL: the statuses with which an op does not fail (R299, R318). -/
def stGood (s : Nat) : Bool := s == stOk || s == stPartial

/-- A detail word with ITEM in [31:0] and REASON in [55:48] (R300). -/
def itemReason (item reason : Nat) : Nat := low 32 item + low 8 reason * 2 ^ 48

/-- The detail word of a failing device address: bits [47:0] (R245). -/
def detailDevAddr (a : Nat) : Nat := low 48 a

/-- The detail word of a failing host address: bit [63] set (R11). -/
def detailHostAddr (a : Nat) : Nat := low 63 a + 2 ^ 63

/-- R333: hall, gallery (0xFF for hall shared memory) and the context that holds it. -/
def detailBusyPlace (hall gallery : Nat) (other : Option Nat) : Nat :=
  low 8 hall + low 8 gallery * 2 ^ 8 +
    (match other with
     | some c => low 10 c * 2 ^ 16 + 2 ^ 26
     | none => 0)

/-- As R333, where the context named is the op's own: bit [26] is 0. -/
def detailBusyOwn (hall gallery ctx : Nat) : Nat := low 8 hall + low 8 gallery * 2 ^ 8 + low 10 ctx * 2 ^ 16

/- Reason codes of queues and buffers (Tables 12.5 and 13.9). -/
def rsEntry : Nat := 0x80
def rsQueue : Nat := 0x81
def rsRing : Nat := 0x82
def rsVector : Nat := 0x83
def rsWatch : Nat := 0x84
def rsHeader : Nat := 0x85
def rsBufferHeader : Nat := 0x90
def rsLength : Nat := 0x91
def rsOpcode : Nat := 0x92
def rsRecord : Nat := 0x93
def rsPredecessor : Nat := 0x94
def rsTarget : Nat := 0x95
def rsParam : Nat := 0x96
def rsControlAddr : Nat := 0x97
def rsFence : Nat := 0x98
def rsMemory : Nat := 0x99
def rsMemOverlap : Nat := 0x9A
def rsPlace : Nat := 0x9B
def rsSave : Nat := 0x9C
def rsMarchHeader : Nat := 0xA0
def rsMarchMode : Nat := 0xA1
def rsMarchResult : Nat := 0xA2

end Sys2Proof.Machine
end

