-- ==== Sys2Proof/Config.lean ====
section
/-! DEFINITION. What the LX20 fixes (the capability table, R28) and what the manual leaves to standards it
names or leaves open. The opaque constants have no body: nothing can be proved about their values. -/

namespace Sys2Proof.Config

/- R28, Table 1.5. -/
def halls : Nat := 16
def galleriesPerHall : Nat := 20
def treadsPerGallery : Nat := 32
def treadsPerHall : Nat := 640
def scratchBytes : Nat := 393216
def sharedBytes : Nat := 16777216
def slotsPerTread : Nat := 128
def edgesPerTread : Nat := 32768
def dense8Max : Nat := 12288
def dense4Max : Nat := 16384
def replicasMax : Nat := 64
def coloursMax : Nat := 16
def scheduleEntriesMax : Nat := 4096
def contexts : Nat := 1024
def userQueues : Nat := 4096
def kernelQueues : Nat := 16
def vectors : Nat := 2048
def spinsMax : Nat := 8388608

/- Identity: R335, R341. -/
def vendorId : Nat := 0x1F3B
def deviceId : Nat := 0x0B20
def siliconRev : Nat := 0xB1
def fwIfLevel : Nat := 3

/-- A byte of a memory whose contents the manual calls undefined (R441, R446, R12): the generation counts the
resets that made it undefined. A free value (log 10). -/
opaque undefByte : Nat → Nat → Byte

/-- Bytes that a read of the mailbox buffer returns while BUSY is set (R343): undefined. A free value (log 10). -/
opaque busyByte : Nat → Nat → Byte

/-- A detail word that the manual does not give. A free value (log 17). -/
opaque openDetail : Nat → Nat

/-- What a telemetry counter whose count follows timing gains in one nanosecond: register offset, and time. A free value
(log 18). -/
opaque timedGain : Nat → Nat → Nat

/-- The MHz of an edge island (Table 1.4): island, and the trained or negotiated rate that it follows, 0 where its
frequency is fixed. A free value (log 18). -/
opaque edgeMhz : Nat → Nat → Nat

/- The standards Table 15.1 names, not restated by the manual (log 13). -/
/-- SHAKE256 with a 64-byte output. -/
opaque shake256 : Bytes → Bytes
/-- SHA3-256, the conditioning of Table 15.11. -/
opaque sha3 : Bytes → Bytes
/-- CTR_DRBG with AES-256: instantiate from a 48-byte seed. -/
opaque drbgInit : Bytes → Bytes
/-- CTR_DRBG: reseed a state with 48 bytes of entropy input. -/
opaque drbgReseed : Bytes → Bytes → Bytes
/-- CTR_DRBG: the first `n` bytes generated from a state. -/
opaque drbgBytes : Bytes → Nat → Bytes
/-- CTR_DRBG: the state after generating `n` bytes. -/
opaque drbgNext : Bytes → Nat → Bytes
/-- ML-DSA-65 verification: key, context string number, message, signature. -/
opaque mldsaVerify : Bytes → Nat → Bytes → Bytes → Bool
/-- ML-DSA-65 hedged signature: seed, context string number, message, 32 bytes of hedging. -/
opaque mldsaSign : Bytes → Nat → Bytes → Bytes → Bytes
/-- ML-DSA-65 public key of a 32-byte seed. -/
opaque mldsaPublic : Bytes → Bytes
/-- The boot ROM's contents (R375). -/
opaque bootRom : Bytes
/-- The firmware image the factory leaves in flash slot A (log 4): its bytes are not stated. -/
opaque factoryImage : Bytes
/-- Digests of the four firmware-signing keys in the boot ROM (R358). -/
opaque keySlotDigest : Nat → Bytes
/-- The Enarvon token public key in the boot ROM (R358). -/
opaque tokenKey : Bytes

/-- Bytes of the board's serial flash above the 64 MiB it must hold (R359): a free value (log 4). -/
opaque flashExtra : Nat

/-- The low byte of the code of a catalogue event that the manual says is logged without giving its code (log 14):
a free value, one for each kind of event the model numbers. -/
opaque eventLow : Nat → Nat

/-- The words P0, P1, P2 of such an event: kind of event, word, and three facts of the event (log 14). Free values. -/
opaque eventWord : Nat → Nat → Nat → Nat → Nat → Nat

end Sys2Proof.Config
end

