-- ==== Sys2Proof/Machine/StateProblem.lean ====
section
/-! DEFINITION. The state of a loaded problem, its schedules, its updates and its run (chapters 2, 3, 4, 7). -/

namespace Sys2Proof.Machine

/-- A schedule entry (Table 4.2). -/
structure SchedEntry where
  tfix : Nat
  heatBath : Bool
  tournament : Bool
  racing : Bool
  sweeps : Nat
  clusters : Nat
  exchange : Nat
  deriving DecidableEq, Repr

/-- A stored coupling of the edge list: `a` a device spin index, `b` another, or a boundary index (R58). -/
structure Edge where
  a : Nat
  b : Nat
  imp : Bool
  val : Int
  deriving DecidableEq, Repr

/-- One replica of a block: spins (true for +1), exact fields, energies and bests (R37, R45, R79, R89), the counts of
accepted moves (R115, R118), and where its rounds stand in the sweep (R81, R82). -/
structure Replica where
  spins : List Bool
  fields : List Int
  energy : Int
  bestSpins : List Bool
  best : Int
  accepts : Nat := 0
  traceAccepts : Nat := 0
  pos : Nat := 0
  prop : Nat := 0
  rounds : Nat := 0
  deriving DecidableEq, Repr

/-- The counters of Table 3.8 and of R104. -/
structure BlockCounters where
  proposals : Nat := 0
  accepts : Nat := 0
  pairAccepts : Nat := 0
  clusterProposals : Nat := 0
  clusterAccepts : Nat := 0
  clusterInvalid : Nat := 0
  conflicts : Nat := 0
  exchangeTries : Nat := 0
  exchangeAccepts : Nat := 0
  deriving DecidableEq, Repr

/-- A run of bytes: first offset and length. -/
structure ByteRange where
  first : Nat
  bytes : Nat
  deriving DecidableEq, Repr

/-- A block (R33 to R37): its span is treads `tread` to `tread + treads - 1` of its hall. `rows` holds the stored
couplings of a dense block in quanta, `shifts` its tile shifts; `colours` and `spinTiers` those of sparse spins.
`shared` and `scratch` are the bytes its storage fills (R471). -/
structure PBlock where
  dense : Bool
  bits : Nat
  hall : Nat
  tread : Nat
  treads : Nat
  n : Nat
  first : Nat
  tag : Nat
  rows : List (List Int)
  shifts : List (List Nat)
  biases : List Int
  colours : List Nat
  spinTiers : List Nat
  tier : Nat
  reps : List Replica
  count : BlockCounters := {}
  shared : List ByteRange := []
  scratch : List (Nat × List ByteRange) := []
  deriving DecidableEq, Repr

/-- A loaded problem (R31). `quantum` is the FP32 code of q; `imports` the import values (R200). -/
structure Problem where
  id : Nat
  quantum : Nat
  constant : Int
  blocks : List PBlock
  edges : List Edge
  groups : List (List Nat)
  imports : List Bool
  energy : Int
  best : Int
  phases : Nat
  spilled : Nat
  /-- the spill area of the load: first address and bytes (R54) -/
  spillArea : Option (Nat × Nat) := none
  /-- sweeps completed in the latest run, and the temperatures of its latest sweep by block and rung (R117, R118) -/
  sweeps : Nat := 0
  temps : List (List Nat) := []
  deriving DecidableEq, Repr

/-- An update that waits or is registered (R66 to R68). `op` is its op while the op has not ended. -/
structure Update where
  header : Bytes
  explicit : Bool
  epoch : Nat
  seq : Nat
  order : Nat
  late : Bool
  seed : Nat
  drawn : Bool
  op : Option (QRef × Nat)
  deriving DecidableEq, Repr

/-- An accepted flip that the flip buses of `halls` have not yet carried (R86 to R88). `id` is the model's own: its place in
the order in which the device accepted flips, 0 until it has one. -/
structure Flip where
  id : Nat := 0
  block : Nat
  rep : Nat
  spin : Nat
  value : Bool
  move : Nat
  phase : Nat
  halls : List Nat
  deriving DecidableEq, Repr

/-- A proposal of a sparse phase that its tread has not yet evaluated: a spin, or the next paired proposal of the group
whose lowest member it is (R80, R87). -/
structure SparseEval where
  block : Nat
  spin : Nat
  prop : Nat
  deriving DecidableEq, Repr

/-- A racing window in progress (R90): spins not yet evaluated, the block's spins at its start, and the spins accepted. -/
structure ScanWindow where
  block : Nat
  rep : Nat
  spins : List Nat
  base : List Bool
  hits : List Nat
  deriving DecidableEq, Repr

/-- A write that waits in a run's trace staging (R116): a trace entry, or the count word. -/
structure TraceItem where
  addr : Nat
  data : Bytes
  entry : Bool
  deriving DecidableEq, Repr

/-- A READ_STATE that waits for its snapshot (R117). -/
structure Snapshot where
  q : QRef
  idx : Nat
  desc : Bytes
  deriving DecidableEq, Repr

/-- The ANNEAL and STAND descriptors' fields that a run uses (Tables 4.3, 7.15). -/
structure RunDesc where
  stand : Bool
  trace : Bool
  traceSystem : Bool
  stopAtTarget : Bool
  schedule : Nat
  part : Nat
  seed : Nat
  drawn : Bool
  epochSweeps : Nat
  traceEvery : Nat
  ringAddr : Nat
  ringEntries : Nat
  traceBlock : Nat
  traceReplicas : Nat
  countAddr : Nat
  target : Int
  loopEntry : Nat
  pace : Bool
  emit : Bool
  stopAddr : Nat
  stopValue : Nat
  deriving DecidableEq, Repr

/-- A decision channel a STAND drives (Tables 7.16, 7.17). `held` is a decision kept for space (R197). -/
structure Decision where
  channel : Nat
  record : Bytes
  ranges : List (Nat × Nat)
  seq : Nat := 0
  /-- the state last emitted -/
  emitted : Option (List (List Bool)) := none
  superseded : Nat := 0
  held : Option Bytes := none
  applied : Option Nat := none
  deriving DecidableEq, Repr

/-- What a run still has to do at the end of a sweep, or before its first (R99, R193, R212). -/
inductive Stage where
  | staged
  | checks
  | snapshots
  | stateRecord (stream : Nat)
  | emit
  | pace
  | updates
  | counters
  | mirror
  | verdict
  | sendFrame
  | checkpoint
  | final
  | march
  | frames
  | hellos
  | lastUpdates
  | flush
  | lastSnapshots
  | finish
  deriving DecidableEq, Repr

/-- How a run ends. -/
inductive RunEnd where
  | schedule
  | target
  | stopFence
  | status (code detail : Nat)
  deriving DecidableEq, Repr

/-- A run of a context's problem (R98, R107, R192): the op that runs it, its flight, schedule and ladders, the sweep
in progress with its phases, the flips on their way, and what waits. `start` is the state at the sweep's start;
`moved` holds the spins (block, replica, spin) that have changed in the present racing decision set (R91);
`clusters` counts, for each block, proposals decided in the sweep and in the epoch; `unstaged` holds trace entries that
wait for room in the staging (R116). -/
structure Run where
  q : QRef
  idx : Nat
  flight : Option Nat
  desc : RunDesc
  entries : List SchedEntry
  ladders : List (List Nat)
  sweep : Nat := 0
  entry : Nat := 0
  entrySweep : Nat := 0
  exchanges : Nat := 0
  traced : Nat := 0
  inSweep : Bool := false
  phase : Nat := 0
  started : List (Nat × Nat) := []
  start : List (List Bool) := []
  moved : List (Nat × Nat × Nat) := []
  evals : List SparseEval := []
  windows : List ScanWindow := []
  flips : List Flip := []
  clusters : List (Nat × Nat × Nat) := []
  staging : List TraceItem := []
  unstaged : List TraceItem := []
  /-- the entries of the latest sweep, no trace point, which are written if the run ends there (R114) -/
  spare : List TraceItem := []
  todo : List Stage := []
  ending : Option RunEnd := none
  stop : Option RunEnd := none
  decision : Option Decision := none
  /-- a start image that waits for the hellos of a partitioned run (R213) -/
  image : Option (List (List (List Bool))) := none
  /-- the run has begun: hellos agree and the starting state is in place -/
  begun : Bool := false
  /-- the run's first wait of an epoch's end is counted (PACE_WAITS) -/
  waited : Bool := false
  /-- the target is reached; the stop fence is met (R107, R192) -/
  reached : Bool := false
  fenced : Bool := false
  deriving DecidableEq, Repr

end Sys2Proof.Machine
end

