-- ==== Sys2Proof/Machine/StateFlight.lean ====
section
/-! DEFINITION. The state of tiles (chapter 6) and of flights (chapter 7). -/

namespace Sys2Proof.Machine

/-- Tile formats (R148). -/
inductive TileFmt where
  | w40 | fp32 | int32
  deriving DecidableEq, Repr

/-- Tile states (Table 6.2); a FREE tile is not listed. -/
inductive TileState where
  | opened | swapPending | landed | draining
  deriving DecidableEq, Repr

/-- Who waits for a tile: an op of an entry, or a body op of a flight's step. -/
inductive TileUser where
  | op (q : QRef) (idx : Nat)
  | body (f step num : Nat)
  deriving DecidableEq, Repr

/-- How a tile leaves (R154, R160): the output-path record, its batch offset, the tile's place in M × N. -/
structure TileOut where
  record : Bytes
  offset : Nat
  row : Nat
  col : Nat
  m : Nat
  n : Nat
  deriving DecidableEq, Repr

/-- A tile of a context on one tread (R150): first granule, height and width, position, values (as slot codes), K_t,
integer weight, largest promotion group, the END request it waits to make, and who it ends for. -/
structure Tile where
  hall : Nat
  tread : Nat
  granule : Nat
  h : Nat
  w : Nat
  pos : Nat
  fmt : TileFmt
  state : TileState
  vals : List Nat
  kt : Nat
  weight : Nat
  group : Nat
  endReq : Option TileOut
  user : Option TileUser
  order : Nat
  deriving DecidableEq, Repr

/-- An op whose tiles are leaving: counts of Table 5.13's detail word and LONG_REDUCTION (R138, R146, R156). -/
structure TileOp where
  user : TileUser
  nan : Nat := 0
  inf : Nat := 0
  poison : Nat := 0
  long : Bool := false
  left : Nat := 0
  /-- it was told to stop with this status -/
  stop : Option Nat := none
  /-- a drain met an uncorrectable word at this address -/
  bad : Option Nat := none
  deriving DecidableEq, Repr

/-- A body entry (Table 7.7) with the flight's copy of its op's descriptor and output-path record (R171). -/
structure BodyEntry where
  loop : Bool
  overlap : Bool
  opcode : Nat
  back : Nat
  count : Nat
  desc : Bytes
  out : Bytes
  deriving DecidableEq, Repr

/-- A binding (Table 7.8). -/
structure Binding where
  entry : Nat
  offset : Nat
  toOut : Bool
  output : Bool
  stream : Nat
  add : Nat
  stride : Nat
  deriving DecidableEq, Repr

/-- A source record (Table 7.9). -/
structure FSource where
  chain : Bool
  tag : Nat
  slots : Nat
  ring : Nat
  slotBytes : Nat
  tail : Nat
  head : Nat
  deriving DecidableEq, Repr

/-- A body op that has issued and not completed. -/
structure BodyOp where
  num : Nat
  entry : Nat
  status : Option (Nat × Nat)
  deriving DecidableEq, Repr

/-- A firing in progress: next body entry, loop indices, ops in progress (R177, R178). -/
structure Firing where
  next : Nat
  loops : List (Nat × Nat)
  ops : List BodyOp
  issued : Nat := 0
  deriving DecidableEq, Repr

/-- An INGEST step's frame in assembly (R187). -/
structure FrameBuild where
  epoch : Nat
  explicit : Bool
  kept : Bytes
  records : Nat
  invalid : Nat
  overflow : Nat
  deriving DecidableEq, Repr

/-- A step: what FLIGHT_BUILD gave it, and where its run stands. -/
structure FStep where
  kind : Nat
  ranges : List (Nat × Nat × Nat)
  body : List BodyEntry
  bindings : List Binding
  source : Option FSource
  tag : Nat
  firing : Option Firing := none
  firings : Nat := 0
  creditWaits : Nat := 0
  /-- the next firing has waited for a credit -/
  waited : Bool := false
  /-- INGEST: records consumed, the tail last read, the frame in assembly, frames delivered, records from a link -/
  consumed : Nat := 0
  tailSeen : Nat := 0
  frame : Option FrameBuild := none
  frames : Nat := 0
  inbox : List Bytes := []
  /-- the chain link on which its latest record arrived -/
  inLink : Option Nat := none
  /-- its head count is to be written when the link has acknowledged the mirror log (R239) -/
  headOwed : Bool := false
  deriving DecidableEq, Repr

/-- A stream (Tables 7.5, 7.6), with its records and credits in the run: complete records produced, notices and
credits on their way, notices arrived, records consumed, credits held, null records at run start. -/
structure FStream where
  kind : Nat
  producer : Nat
  consumer : Nat
  depth : Nat
  prime : Nat
  slotBytes : Nat
  home : Nat
  hall : Nat
  tread : Nat
  offset : Nat
  map : List (Nat × Nat)
  mode : Nat
  format : Nat
  lag : Nat
  block : Nat
  countMax : Nat
  stamp : Bool
  tapEvery : Nat
  elem : Nat
  ranges : List (Nat × Nat)
  produced : Nat := 0
  flying : Nat := 0
  arrived : Nat := 0
  consumed : Nat := 0
  credits : Nat := 0
  returning : Nat := 0
  watermark : Option Nat := none
  /-- DELTA records applied out of order of number: numbers at or above `consumed` already applied -/
  applied : List Nat := []
  deriving DecidableEq, Repr

/-- A FLIGHT_RUN in progress with the counters of Table 7.14. -/
structure FlightRun where
  q : QRef
  idx : Nat
  kind : Nat
  frameLimit : Nat
  counters : Nat
  epoch : Option Nat := none
  frames : Nat := 0
  records : Nat := 0
  invalid : Nat := 0
  overflow : Nat := 0
  applied : Nat := 0
  late : Nat := 0
  discarded : Nat := 0
  values : Nat := 0
  saturated : Nat := 0
  refused : Nat := 0
  decisions : Nat := 0
  superseded : Nat := 0
  paceWaits : Nat := 0
  failStep : Option (Nat × Nat) := none
  /-- the anneal run has ended with this outcome, and the COMPUTE steps finish (R189) -/
  ended : Option (Nat × Nat × Nat × Bool) := none
  /-- it was told to stop -/
  stop : Option (Nat × Nat) := none
  deriving DecidableEq, Repr

/-- A built flight (R171). -/
structure Flight where
  problemId : Nat
  pages : Nat
  steps : List FStep
  streams : List FStream
  run : Option FlightRun := none
  deriving DecidableEq, Repr

end Sys2Proof.Machine
end

