-- ==== Sys2Proof/Machine/StateChain.lean ====
section
/-! DEFINITION. The state of boundary exchange (chapter 8), of the chain links and of the mirrored pair
(chapter 9). -/

namespace Sys2Proof.Machine

/-- A peer-table entry (Table 8.2). -/
structure Peer where
  part : Nat
  chain : Nat
  boundary : Bool
  parent : Bool
  child : Bool
  importFirst : Nat
  importCount : Nat
  exportFirst : Nat
  exportCount : Nat
  deriving DecidableEq, Repr

/-- A frame of a peer in the frame store: its bits and its newel, either of which may arrive first, and how often it
was asked for again (R208, R209). -/
structure FrameSlot where
  part : Nat
  epoch : Nat
  bits : Option (List Bool)
  newel : Option (Nat × Nat)
  resends : Nat
  deriving DecidableEq, Repr

/-- A frame held in the send store. -/
structure SentFrame where
  part : Nat
  epoch : Nat
  bits : List Bool
  deriving DecidableEq, Repr

/-- A contribution to a checkpoint (R215). -/
structure CheckPart where
  part : Nat
  epoch : Nat
  sumA : Int
  sumB : Int
  parts : Nat
  deriving DecidableEq, Repr

/-- A checkpoint of this part in progress: A_p, B_p when complete, and as they were at its step 3 the local values, the
boundary edges and the temperatures (R214, R216): the part's snapshot in its work area. -/
structure CheckPoint where
  epoch : Nat
  energy : Int
  boundary : Option Int
  spins : List (List Bool)
  edges : List Edge
  temps : List (List Nat)
  sentUp : Bool
  deriving DecidableEq, Repr

/-- The boundary part of a run. -/
structure BRun where
  hellos : List (Nat × HelloMsg) := []
  frames : List FrameSlot := []
  sent : List SentFrame := []
  checks : List CheckPart := []
  point : Option CheckPoint := none
  /-- the snapshot that is the part's share of the global best (R216) -/
  kept : Option CheckPoint := none
  verdict : Option VerdictMsg := none
  /-- a verdict whose writes wait -/
  due : Option VerdictMsg := none
  best : Option (Int × Nat) := none
  records : Nat := 0
  lastCheck : Option Nat := none
  frameWaits : Nat := 0
  verdictWaits : Nat := 0
  waited : Bool := false
  vwaited : Bool := false
  notice : Option (Nat × EndKind) := none
  deriving DecidableEq, Repr

/-- A boundary map (Table 8.1) with the exchange of the context's run. -/
structure Boundary where
  part : Nat
  parts : Nat
  stale : Nat
  checkEvery : Nat
  peers : List Peer
  imports : Nat
  exports : List Nat
  workAddr : Nat
  workBytes : Nat
  ring : Nat
  ringEntries : Nat
  countAddr : Nat
  bestAddr : Nat
  bestBytes : Nat
  endAddr : Nat
  run : BRun := {}
  deriving DecidableEq, Repr

/-- A message of the chain (Table 9.3). -/
inductive Msg where
  | mgmt (m : LinkMgmtMsg)
  | hello (part : Nat) (m : HelloMsg)
  | newel (part epoch bitCount crc : Nat)
  | frame (part epoch : Nat) (values : List Bool)
  | resend (part epoch : Nat)
  | checkUp (part epoch : Nat) (sumA sumB : Int) (parts : Nat)
  | verdict (m : VerdictMsg)
  | endNotice (part : Nat) (kind : EndKind)
  | ingest (tag : Nat) (data : Bytes)
  | mirrorLog (c : Nat) (e : MirrorEntry)
  | mirrorState (c : Nat) (p : MirrorPoint)
  | beat
  deriving DecidableEq, Repr

/-- A flit that leaves: its header (Table 9.2), the message that it completes, and for a forwarded flit that still holds a
place in the buffer of the link it came on, that link (R226, R227). -/
structure TxFlit where
  head : FlitHeader
  msg : Option Msg := none
  via : Option Nat := none
  deriving DecidableEq, Repr

/-- What the trailer of a flit says to the partner (R223). -/
structure Trailer where
  ackSeq : Nat
  nak : Bool
  credits : List Nat
  deriving DecidableEq, Repr

/-- Link states (Table 9.5). -/
inductive LinkState where
  | down | training | up | lost | disabled
  deriving DecidableEq, Repr

/-- A chain link (R220 to R233). `waiting` holds flits not sent, `unacked` flits sent and not acknowledged. -/
structure Link where
  state : LinkState := .down
  mirror : Bool := false
  lanes : Nat := 0
  rate : Nat := 0
  fec : Bool := false
  /-- the first lane of the mode (R221) -/
  firstLane : Nat := 0
  /-- the link has been up since it was last enabled or lost -/
  wasUp : Bool := false
  peer : Option Nat := none
  peerLanes : Nat := 0
  peerRate : Nat := 0
  peerFecOff : Bool := false
  peerRole : Nat := 0
  maxLanes : Nat := 0
  maxRate : Nat := 0
  fecOff : Bool := false
  /-- the limits in force for the negotiation in progress -/
  negLanes : Nat := 0
  negRate : Nat := 0
  negFecOff : Bool := false
  candidate : Nat := 0
  failures : Nat := 0
  negotiations : Nat := 0
  retrains : Nat := 0
  fecUncorrectable : Nat := 0
  fecCorrected : Nat := 0
  replays : Nat := 0
  hopDrops : Nat := 0
  formatDrops : Nat := 0
  credits : List Nat := [8, 64, 64, 128]
  turn : Nat := 1
  waiting : List TxFlit := []
  unacked : List TxFlit := []
  nextSeq : Nat := 0
  /-- the receiver: SEQ of the last flit received in order, what the next trailer owes the partner, and the last flit and
  trailer sent (R223, R225, R226) -/
  rxSeq : Nat := 4095
  ackDue : Bool := false
  nakDue : Bool := false
  owed : List Nat := [0, 0, 0, 0]
  out : Option (FlitHeader × Trailer) := none
  silent : Bool := false
  beatIn : Bool := false
  beatOut : Bool := false
  deriving DecidableEq, Repr

/-- A context's mirroring. -/
structure MirrorCtx where
  ctx : Nat
  checkEvery : Nat
  serial : Nat := 0
  log : List MirrorEntry := []
  points : List MirrorPoint := []
  fences : List (Nat × Nat) := []
  completions : List Bytes := []
  /-- on the secondary: entries consumed and completions written, as last recorded (Table 9.8) -/
  queues : List (QRef × Nat × Nat) := []
  /-- on the secondary: 0 running, 1 at a point not yet compared, 2 at a point compared -/
  mark : Nat := 0
  yielded : Bool := false
  barred : Bool := false
  replay : Bool := false
  deriving DecidableEq, Repr

/-- Status of the mirror (R242). -/
inductive MirrorState where
  | none | paired | detached | yielded | takenOver
  deriving DecidableEq, Repr

/-- The mirror unit (R234 to R243). `offers` are the partner's ATTACHes not yet met by this device's own. -/
structure Mirror where
  role : Nat := 0
  wired : Bool := false
  linkA : Nat := 0
  linkB : Nat := 0
  partner : Nat := 0
  vector : Nat := 0
  state : MirrorState := .none
  ctxs : List MirrorCtx := []
  offers : List (Nat × Option Bytes) := []
  deriving DecidableEq, Repr

/-- The chain side of the device. `routes` is the route table. -/
structure Chain where
  id : Option Nat := none
  links : List Link := List.replicate 16 {}
  routes : List Nat := List.replicate 2048 0
  /-- messages received in part: source, virtual channel, flits held (R228) -/
  inbound : List (Nat × Nat × Nat) := []
  mirror : Mirror := {}
  deriving DecidableEq, Repr

end Sys2Proof.Machine
end

