-- ==== Sys2Proof/Machine/StateCtx.lean ====
section
/-! DEFINITION. A context: what CONTEXT_CREATE makes and PLACE places, with its problem, schedules, flights, boundary
map and tiles (R331 to R334). -/

namespace Sys2Proof.Machine

/-- A hall record of a placement (Table 13.8). -/
structure HallPlace where
  hall : Nat
  mask : BitVec 20
  sharedFirst : Nat
  sharedCount : Nat
  deriving DecidableEq, Repr

/-- A context. -/
structure Ctx where
  place : List HallPlace := []
  saveBase : Nat := 0
  saveBytes : Nat := 0
  disabled : Bool := false
  terminated : Bool := false
  progress : Nat := 0
  problem : Option Problem := none
  schedules : List (Nat × List SchedEntry) := []
  updates : List Update := []
  updateOrder : Nat := 0
  run : Option Run := none
  snapshots : List Snapshot := []
  /-- the rings of the context's traced runs: address, entries, entries written by the latest run with that ring (R116) -/
  traceRings : List (Nat × Nat × Nat) := []
  flights : List (Nat × Flight) := []
  boundary : Option Boundary := none
  /-- hellos of parts whose run started before this part's (R213) -/
  hellos : List (Nat × HelloMsg) := []
  tiles : List Tile := []
  tileOps : List TileOp := []
  tileOrder : Nat := 0
  deriving DecidableEq, Repr

end Sys2Proof.Machine
end

