-- ==== Sys2Proof/Machine/StateFault.lean ====
section
/-! DEFINITION. The state of the fault collector (R394 to R408) and of the catalogue (R409 to R418). -/

namespace Sys2Proof.Machine

/-- A history slot (Table 16.3). -/
structure HistEntry where
  source : Nat
  severity : Nat
  rail : Bool
  injected : Bool
  seq : Nat
  time : Nat
  detail : Nat
  deriving DecidableEq, Repr

/-- The blocks a block reset names (Table 18.3), numbered as event 0x0105 gives. -/
inductive Block where
  | wing (w : Nat)
  | hall (h : Nat)
  | gallery (h g : Nat)
  | island (i : Nat)
  | link (n : Nat)
  | channel (c : Nat)
  deriving DecidableEq, Repr

/-- A curator trap in handling: its source and detail word, and the ops that use the block at the sample of the
assertion: queue, entry, op index (R401, R470). -/
structure TrapRun where
  source : Nat
  detail : Nat
  users : List (QRef × Nat × Nat)
  deriving DecidableEq, Repr

/-- The fault collector. `status`, `cause` and `unacked` are the 512-bit registers of Table 16.3; `config` lists the
configuration words that differ from Table 16.1; `timers` the fallback timers: source, expiry time in ns. -/
structure Collector where
  status : BitVec 512 := 0#512
  cause : BitVec 512 := 0#512
  unacked : BitVec 512 := 0#512
  config : List (Nat × Nat) := []
  timers : List (Nat × Nat) := []
  fallbackUs : Nat := 1000
  history : List (Nat × HistEntry) := []
  histCount : Nat := 0
  nextSeq : Nat := 0
  wireFaults : Nat := 0
  /-- pending injections: source, CHECK_BITS (R406) -/
  injected : List (Nat × Nat) := []
  /-- condition sources asserted by an injection whose 2 samples have not passed (R406) -/
  injectedNow : List Nat := []
  traps : List TrapRun := []
  /-- block resets in progress (R447) -/
  resets : List Block := []
  safeState : Bool := false
  deriving DecidableEq, Repr

/-- An event on its way to the catalogue (R411, R412). -/
structure Event where
  code : Nat
  severity : Nat
  injected : Bool
  die : Nat
  p0 : Nat
  p1 : Nat
  p2 : Nat
  repeats : Nat
  deriving DecidableEq, Repr

/-- A catalogue record (Table 16.5), with its full write index (R409) and the SRAM slot that holds it. -/
structure CatRecord where
  windex : Nat
  slot : Nat
  ev : Event
  emergency : Bool
  reloaded : Bool
  opTime : Nat
  cycles : Nat
  deriving DecidableEq, Repr

/-- The catalogue. `records` stand in write order; `writing` is the record being written with its pending repeats;
`flash` is the spill ring in write order. -/
structure Catalogue where
  records : List CatRecord := []
  writing : Option (CatRecord × Nat) := none
  input : List Event := []
  emergency : List CatRecord := []
  badRows : List Nat := []
  nextIndex : Nat := 0
  dropped : Nat := 0
  overwritten : Nat := 0
  drained : Nat := 0
  flashOk : Bool := false
  cursor : Nat := 0
  space : Bool := false
  flash : List CatRecord := []
  flashPos : Nat := 0x3010000
  redrain : List Nat := []
  powerCycles : Nat := 0
  opTimeBase : Nat := 0
  deriving DecidableEq, Repr

end Sys2Proof.Machine
end

