-- ==== Sys2Proof/Machine/StateHost.lean ====
section
/-! DEFINITION. The state of the host interface, the mailbox channels, ownership, start-up, trust and entropy
(chapters 14, 15, 18, 19). -/

namespace Sys2Proof.Machine

/-- One MSI-X table entry with its PBA bit (R301). -/
structure MsixVec where
  addr : Nat := 0
  data : Nat := 0
  masked : Bool := true
  pending : Bool := false
  deriving DecidableEq, Repr

/-- A message sent to the host: vector, address, data. -/
structure MsixMsg where
  vector : Nat
  addr : Nat
  data : Nat
  deriving DecidableEq, Repr

/-- An access through BAR4 that waits: the device address it reaches, and the access (R25, R268, R339). -/
structure HeldAccess where
  addr : Nat
  op : Bar4Op
  deriving DecidableEq, Repr

/-- How the function answered a configuration request (R336): with Request Retry Status, or with a value, 0 for a
write. -/
inductive CfgAnswer where
  | retry
  | value (v : Nat)
  deriving DecidableEq, Repr

/-- The PCI Express side (R335 to R340). `mem` is the image of host memory: what the device has read from it or
written to it; `waiting` lists vectors whose message waits for Bus Master Enable; `held` the BAR4 accesses that wait, in
the order of their arrival; `cfgAnswer` is the answer to the latest configuration request. -/
structure HostSide where
  mem : List Host.Cell := []
  memSpace : Bool := false
  busMaster : Bool := false
  atomicReq : Bool := false
  msixEnable : Bool := false
  msixMaskAll : Bool := false
  bar4Index : Nat := 0
  d3 : Bool := false
  quiesced : Bool := false
  kept : Bool := false
  linkUp : Bool := false
  lkGen : Nat := 0
  lkWidth : Nat := 0
  windows : List Nat := [0, 0x010000000000, 0x020000000000, 0]
  msix : List (Nat × MsixVec) := []
  waiting : List Nat := []
  sent : List MsixMsg := []
  bar4Read : Bytes := []
  held : List HeldAccess := []
  cfgAnswer : Option CfgAnswer := none
  deriving DecidableEq, Repr

/-- A message in service: its command, tag and payload (R342). -/
structure MailMsg where
  command : Nat
  tag : Nat
  payload : Bytes
  deriving DecidableEq, Repr

/-- A mailbox channel (Table 14.5). `buf` holds bytes 0x40 to 0x104F; `msg` the message copied at GO; `entropy`
says that an entropy request of the message waits; `march` that its march request runs. -/
structure Mailbox where
  irqEn : Bool := false
  vector : Nat := 0
  busy : Bool := false
  done : Bool := false
  rejected : Bool := false
  buf : List Host.Cell := []
  msg : Option MailMsg := none
  entropy : Bool := false
  march : Bool := false
  /-- responses sent on the mirror channel, in order (R355) -/
  replies : List Bytes := []
  deriving DecidableEq, Repr

/-- Ownership and expert enables (R348 to R352). Times are on the curator's counter. -/
structure Ownership where
  owner : Option Chan := none
  overrides : Nat := 0
  heartbeatMs : Nat := 0
  lastBeat : Nat := 0
  silent : Bool := false
  handover : Option (Chan × Nat) := none
  expert : BitVec 16 := 0#16
  deriving DecidableEq, Repr

/-- The availability map (R29), with the halls whose routers are out of service (R277, R442). -/
structure Avail where
  halls : BitVec 16 := 0xFFFF#16
  routersOut : BitVec 16 := 0#16
  galleries : List (BitVec 20) := List.replicate 16 0xFFFFF#20
  links : BitVec 16 := 0#16
  channels : BitVec 32 := 0#32
  lpBytes : Nat := 0
  mts : Nat := 0
  pcieGen : Nat := 0
  pcieWidth : Nat := 0
  generation : Nat := 0
  deriving DecidableEq, Repr

/-- Causes of a start-up (event 0x0101). -/
inductive StartCause where
  | powerOn | perst | flr | hotReset | dlDown | fault (source : Nat)
  deriving DecidableEq, Repr

/-- Start-up (R439 to R448) and the pins it reads. -/
structure Boot where
  stage : Nat := 1
  ready : Bool := false
  failed : Bool := false
  stopped : Option Nat := none
  cause : StartCause := .powerOn
  startTime : Nat := 0
  faultResets : Nat := 0
  perstLow : Bool := false
  porLow : Bool := false
  thermtrip : Bool := false
  testEn : Bool := false
  mgmtAddr : Nat := 0
  aliveRunning : Bool := false
  aliveInLevel : Bool := false
  aliveInEdge : Option Nat := none
  deriving DecidableEq, Repr

/-- One-time-programmable memory (R367, R373, R377). `gens` holds generation g of group n at 4n + g, 64 bytes each,
byte 0 in the low bits. -/
structure Otp where
  words : List (BitVec 32) := [0xFFFFFFFF#32, 0xFFFFFFFF#32, 0#32, 0#32]
  seedRow : BitVec 256 := 1#256
  gens : List (BitVec 512) := List.replicate 32 0#512
  uniqueId : BitVec 64 := 0x00004C580B2017A3#64
  deriving DecidableEq, Repr

/-- A firmware update session: bytes announced, bytes written (R364). -/
structure FwSession where
  total : Nat
  written : Nat
  deriving DecidableEq, Repr

/-- A CAL_WRITE session: space, total bytes, bytes staged (R383). -/
structure CalSession where
  space : Nat
  total : Nat
  staged : Bytes
  deriving DecidableEq, Repr

/-- The serial flash (Table 15.2): image slots, calibration region, identity certificate region. The spill region
is the catalogue's. -/
structure Flash where
  slotA : Bytes
  slotB : Bytes := []
  commitA : Option Nat := none
  commitB : Option Nat := none
  cal : Bytes := []
  cert : Bytes := []
  deriving DecidableEq, Repr

/-- The running image and the settings read at start-up (R341, R361, R375, R378). -/
structure Trust where
  flashFound : Bool := false
  fwRuns : Bool := false
  fwLevel : Nat := 0
  fwBuild : Nat := 0
  fwSlotB : Bool := false
  fwFallback : Bool := false
  fwSecVersion : Nat := 0
  fwKeySlot : Nat := 0
  fwRevoke : Nat := 0
  mRom : Bytes := []
  mFw : Bytes := []
  mCfg : Bytes := []
  bootCap : Nat := 1200
  skipMarch : Bool := false
  pcieMaxGen : Nat := 6
  calLoaded : Option Bytes := none
  lifecycle : Nat := 0
  uniqueId : Nat := 0
  seed : Option Bytes := none
  minSv : Nat := 0
  revoked : Nat := 0
  fallbackUs : Nat := 1000
  nonce : Option Bytes := none
  quotes : Nat := 0
  fw : Option FwSession := none
  calw : Option CalSession := none
  deriving DecidableEq, Repr

/-- Who asked the entropy source (R388): an op of a queue's entry, or a mailbox command. -/
inductive EntropyUser where
  | op (q : QRef) (idx bytes : Nat)
  | mail (ch : Chan) (bytes : Nat)
  deriving DecidableEq, Repr

/-- The life of one raw source (R387). -/
structure RawSource where
  inService : Bool := false
  restarting : Bool := false
  retired : Bool := false
  failCount : Nat := 0
  rctFails : Nat := 0
  aptFails : Nat := 0
  startup : Bool := false
  deriving DecidableEq, Repr

/-- The entropy source (R385 to R392). -/
structure Entropy where
  sources : List RawSource := List.replicate 8 {}
  ready : Bool := false
  failed : Bool := false
  pool : List Bytes := []
  drbg : Option Bytes := none
  waiting : List EntropyUser := []
  served : Nat := 0
  rawSource : Nat := 0
  rawEn : Bool := false
  rawOverrun : Bool := false
  rawFifo : List Bool := []
  deriving DecidableEq, Repr

/-- The management port and JTAG registers (R353, R354). -/
structure Ports where
  i3cDynamic : Option Nat := none
  i3cOffset : Nat := 0
  jtagData : Nat := 0
  deriving DecidableEq, Repr

end Sys2Proof.Machine
end

