-- ==== Sys2Proof/Machine/StatePower.lean ====
section
/-! DEFINITION. The state of power, clocks, telemetry and calibration (chapter 17) and of the memories (chapter 10). -/

namespace Sys2Proof.Machine

/-- One half-gallery island (R422 to R425). `vf` is its V/F table of (mV, MHz) points; `relock` the frequency a
relock in progress brings; `waits` a frequency that waits for its rail to settle. The clock stands while `gated`, in a
relock, and at `mhz` 0. -/
structure IslandSt where
  mhz : Nat := 0
  gated : Bool := true
  cls : Nat := 0
  tune : Int := 0
  limit : Nat := 0
  vf : Option (List (Nat × Nat)) := none
  relock : Option Nat := none
  waits : Option Nat := none
  drops : Nat := 0
  deriving DecidableEq, Repr

/-- Telemetry counters of one hall (Table 17.5). -/
structure HallCounters where
  flipSlots : Nat := 0
  flipWait : Nat := 0
  memCe : Nat := 0
  memUe : Nat := 0
  deriving DecidableEq, Repr

/-- The power manager (R420 to R433). The new V/F tables, preset and hall ceilings act at the next period end. -/
structure Power where
  seq : Nat := 0
  powerW : Nat := 0
  cap : Nat := 1200
  capNext : Nat := 1200
  capUnmet : Bool := false
  ceilT : Nat := 2000
  ceilO : Nat := 2000
  ceilF : Nat := 2000
  preset : Nat := 2000
  presetNext : Nat := 2000
  hallCeil : List Nat := List.replicate 16 2000
  hallCeilNext : List Nat := List.replicate 16 2000
  therm : List Nat := List.replicate 4 2000
  setpoint : List Nat := List.replicate 4 650
  /-- the voltage each wing's rail has settled at, no more than its setpoint (R420) -/
  rail : List Nat := List.replicate 4 650
  temps : List Int := []
  railMv : List Nat := []
  railMa : List Nat := []
  throttle : Nat := 0
  canaryFails : Nat := 0
  islands : List (Nat × IslandSt) := []
  expertVf : List (Nat × List (Nat × Nat)) := []
  expertNext : List (Nat × Option (List (Nat × Nat))) := []
  trimsFresh : Nat := 0
  deriving DecidableEq, Repr

/-- The other telemetry counters (Table 17.5). `stairs` holds, by register offset, the bytes that the model's own traffic
adds to STAIR_BYTES, and `since` the time of the chip reset from which the counters of waits and timed traffic run (log
18). -/
structure Telemetry where
  hostUnmapped : Nat := 0
  chainSendDrops : Nat := 0
  curatorBuffers : Nat := 0
  rxBytes : Nat := 0
  txBytes : Nat := 0
  halls : List (Nat × HallCounters) := []
  stairs : List (Nat × Nat) := []
  since : Nat := 0
  linkCe : List (Nat × Nat) := []
  linkUe : List (Nat × Nat) := []
  linkTx : List (Nat × Nat) := []
  /-- the high word a read of a 64-bit field's low word latched, with its offset (R438) -/
  latch : Option (Nat × Nat) := none
  deriving DecidableEq, Repr

/-- Regions of device memory whose unlisted bytes read alike. -/
inductive Region where
  | onChip
  | lpddr
  | hall (h : Hall)
  | gallery (h : Hall) (g : Gallery)
  | unit (u : MarchUnit)
  /-- bytes `first` to `first + n - 1`: block storage, whose layout is not part of the interface (R471) -/
  | span (first n : Nat)
  deriving DecidableEq, Repr

/-- Device memory: the bytes listed, and for each region, latest first, whether unlisted bytes are undefined (the
number that names that undefined content) or zero. `ue` lists the words with an uncorrectable error, `writeback` those
with a single-bit error whose write-back is due. `scrub` holds, for each bank that has been scrubbed, the row that its
scrubber reads next (R255). -/
structure Memory where
  cells : List Host.Cell := []
  marks : List (Region × Option Nat) := [(.onChip, some 0), (.lpddr, some 0)]
  ue : List Nat := []
  writeback : List Nat := []
  /-- channels in the mapping, ascending (R257), and the channel capacity in bytes (R256) -/
  mapping : List Nat := []
  channelBytes : Nat := 0
  scrub : List (Nat × Nat) := []
  refresh : List (Nat × Nat) := []
  zq : List (Nat × Nat) := []
  retrain : List (Nat × Nat) := []
  deriving DecidableEq, Repr

/-- Who asked for a march (R266). -/
inductive MarchUser where
  | op (q : QRef) (idx : Nat)
  | mail (ch : Chan)
  deriving DecidableEq, Repr

/-- A march request in service (R265 to R269). -/
structure MarchReq where
  user : MarchUser
  preserving : Bool
  result : Nat
  running : List MarchUnit
  deferred : List MarchUnit
  tested : Nat
  skipped : Nat
  found : List MarchFinding
  deriving DecidableEq, Repr

/-- The march test engines. `leave` lists placed units that failed and leave service when no context holds them. -/
structure March where
  reqs : List MarchReq := []
  leave : List MarchUnit := []
  deriving DecidableEq, Repr

end Sys2Proof.Machine
end

