-- ==== Sys2Proof/Machine/StateQueue.lean ====
section
/-! DEFINITION. The state of queues, of the entries the curator runs and of their ops (R284 to R327). -/

namespace Sys2Proof.Machine

/-- R288. -/
inductive QState where
  | disabled | idle | active | disabling
  deriving DecidableEq, Repr

/-- A detail word that the manual does not give: no 64-bit word. What is written for it is a free value (log 17). -/
def anyDetail : Nat := 2 ^ 64

/-- What an op ends with: status, detail word, seed and the flags of Table 12.9. -/
structure OpOut where
  status : Nat := 0
  detail : Nat := anyDetail
  seed : Nat := 0
  spilled : Bool := false
  longRed : Bool := false
  seedDrawn : Bool := false
  deriving DecidableEq, Repr

/-- What an op in progress waits for (Table 12.14 and the ops' chapters). -/
inductive OpWait where
  /-- a completion for `n` bytes that it reads at a host bus address (R337) -/
  | host (addr n : Nat)
  /-- an earlier-issued op on its accumulator granules (R158, R159) -/
  | grid
  /-- an entropy request in service or waiting (R388) -/
  | entropy
  /-- WAIT_FENCE: fence address and threshold (R325) -/
  | fence (addr threshold : Nat)
  /-- ANNEAL or STAND: the context's run (R107, R192) -/
  | run
  /-- FLIGHT_RUN of flight f (R188) -/
  | flight (f : Nat)
  /-- UPDATE_COEFFS waiting for its epoch boundary (R66) -/
  | update
  /-- READ_STATE waiting for its snapshot (R117) -/
  | snapshot
  /-- tiles draining for it (R153) -/
  | tiles
  /-- march units of its request (R268) -/
  | march
  /-- a queue to become DISABLED, or its abort to end (R292) -/
  | queue (q : QRef) (abort : Bool)
  /-- every queue of a context to become DISABLED (R292) -/
  | ctxQueues (c : Nat)
  /-- CALIBRATE: canary sweeps not yet taken (R437) -/
  | calibrate (islands : List Nat) (detail : Nat) (partly : Bool)
  /-- PAIR: beats both ways (R234) -/
  | pair
  /-- ATTACH of a context with its CHECK_EVERY: the partner's own ATTACH (R235) -/
  | attach (c checkEvery : Nat)
  /-- its final status is known; its writes or its op completion wait (R316, R319) -/
  | out (o : OpOut)
  /-- its final status is known, and its mirror checkpoint is taken (R238, R239) -/
  | ack (o : OpOut)
  /-- it has ended (R316) -/
  | ended (o : OpOut)
  deriving DecidableEq, Repr

/-- One issue of an op (R315, R323). `record` has its indirect operands in place once they are read (R324); `got`
holds, by R11 address, the bytes that the host has delivered to it and the descriptor and output-path record as its
issue read them (R317); `off` is its record's offset in the buffer, `order` the place of the issue among all. -/
structure OpIssue where
  idx : Nat
  record : Bytes
  wait : OpWait
  drawn : Option Nat := none
  got : List (Nat × Bytes) := []
  badRead : Option (Nat × Nat) := none
  off : Nat := 64
  order : Nat := 0
  deriving DecidableEq, Repr

/-- What a submission entry asks for (R296). -/
inductive EntryKind where
  | buffer (addr bytes : Nat)
  | inline (rec : Bytes)
  | nop
  deriving DecidableEq, Repr

/-- The entry a queue runs (R295 to R299). `next` is the op to issue next; `stop` the status with which a disable,
an abort or a termination ends it; `trusted` says that a privileged op passes the check of its dispatch (R287,
R351). -/
structure Entry where
  index : Nat
  tag : Nat
  irq : Bool
  ctx : Nat
  kind : EntryKind
  start : Nat
  opCount : Nat
  paramAddr : Nat
  paramBytes : Nat
  next : Nat
  issues : List OpIssue
  failed : Bool
  early : Option (Nat × Nat × Nat)
  stop : Option Nat
  trusted : Bool := false
  deriving DecidableEq, Repr

/-- A queue: Table 12.1, Table 12.2 and the device's own service state (R285 to R306). `flush` holds
the flush limit and status of a disable or an abort in progress, with whether it ends DISABLED. -/
structure Queue where
  sqBase : Nat := 0
  cqBase : Nat := 0
  config : Nat := 0
  irqCount : Nat := 0
  state : QState := .disabled
  stalled : Bool := false
  cqWait : Bool := false
  configError : Bool := false
  doorbellError : Bool := false
  sqTail : Nat := 0
  sqHead : Nat := 0
  cqHead : Nat := 0
  cqTail : Nat := 0
  phase : Bool := false
  steps : Nat := 0
  context : Nat := 0
  bound : Bool := false
  stallEpisodes : Nat := 0
  wake : Bool := false
  flush : Option (Nat × Nat × Bool) := none
  cur : Option Entry := none
  irqSeen : Nat := 0
  unsignalled : Bool := false
  sample : Option Nat := none
  quiet : Nat := 0
  /-- the curator's counter at the last sample that saw progress (Table 12.9) -/
  seenAt : Nat := 0
  /-- what the queue's latest HALL_ON or CALIBRATE command found (R262, R437): march findings, failed channels -/
  found : List MarchFinding × Nat := ([], 0)
  deriving DecidableEq, Repr

/-- The curator's dispatch: round-robin places (R295) and the stall watch setting (R302). -/
structure Curator where
  kernelQ : List (Nat × Queue) := []
  userQ : List (Nat × Queue) := []
  lastKernel : Nat := 15
  lastUser : Nat := 4095
  watchMs : Nat := 100
  watchCount : Nat := 50
  lastSample : Nat := 0
  /-- ops issued so far -/
  issued : Nat := 0
  deriving DecidableEq, Repr

end Sys2Proof.Machine
end

