-- ==== Sys2Proof/Machine/State.lean ====
section
/-! DEFINITION. State: the queue of waiting commands, the one-time-programmable memory, and the rest of the device. -/

namespace Sys2Proof.Machine

/-- Everything of the device but its OTP. `clock` counts ns on the always-on oscillator (R7); `free` is the model's
own counter of free values. -/
structure Dev where
  clock : Nat := 0
  free : Nat := 1
  cur : Curator := {}
  ctxs : List (Nat × Ctx) := []
  mem : Memory := {}
  march : March := {}
  fc : Collector := {}
  cat : Catalogue := {}
  host : HostSide := {}
  mbHost : Mailbox := {}
  mbBmc : Mailbox := {}
  mbJtag : Mailbox := {}
  mbMirror : Mailbox := {}
  own : Ownership := {}
  avail : Avail := {}
  boot : Boot := {}
  flash : Flash
  trust : Trust := {}
  ent : Entropy := {}
  ports : Ports := {}
  power : Power := {}
  tele : Telemetry := {}
  chain : Chain := {}
  /-- for each hall, the flip bus requester last granted (R86) -/
  flipTurn : List Nat := List.replicate 16 643
  /-- for each hall, the slots that its flip bus carried in its latest cycle (R85) -/
  busSlots : List (List (BitVec 192)) := List.replicate 16 []
  /-- the model's own: flips accepted so far, which gives each its place in the order -/
  flipSerial : Nat := 0
  /-- for a tread, the context whose tiles it holds (R165), as package tread index and context -/
  treadCtx : List (Nat × Nat) := []
  /-- switches asked for and not yet made: package tread index and the context to come (R165) -/
  switches : List (Nat × Nat) := []
  /-- decision channels in use (R196 to R198) -/
  channels : List Nat := []
  /-- decision channels of ended runs that still hold a record, with the context (R197) -/
  heldOut : List (Nat × Decision) := []
  /-- the model's own: the context for which the step in progress acts; none between steps -/
  actor : Option Nat := none
  deriving DecidableEq, Repr

/-- The state of the machine. -/
structure State where
  pending : List Instr
  otp : Otp
  dev : Dev
  deriving DecidableEq, Repr

/-- Faults: none. No command of the LX20 stops the block; errors are status words, records and reactions, which are
state. The constructor is declared because the interface asks for a type; no meaning answers it. Safe. -/
inductive Fault where
  | none
  deriving DecidableEq, Repr

/-- Refusals. `notModelled` is answered by Dispatch.lean alone, for a command that has no meaning yet: safe, since
nothing can be proved about a next state that does not exist. -/
inductive Refusal where
  | notModelled (mnemonic : String)
  deriving DecidableEq, Repr

/-- The device right after a power-on reset: POR_N has risen, the straps are latched, and start-up stands in
stage 1 (R439, R446). The catalogue's input queue holds event 0x0101 of that start-up (R448), and the first power-on
reset has made POWER_CYCLES 1 (R410). -/
def State.reset : State :=
  { pending := []
    otp := {}
    dev :=
      { flash := { slotA := Config.factoryImage }
        trust := { lifecycle := 2, uniqueId := 0x00004C580B2017A3 }
        cat :=
          { powerCycles := 1
            input := [{ code := 0x0101, severity := 1, injected := false, die := 16, p0 := 0, p1 := 0, p2 := 0,
                        repeats := 0 }] } } }

end Sys2Proof.Machine
end

