-- ==== Sys2Proof/Machine/Tab.lean ====
section
/-! DEFINITION. Numbered tables: a list of numbered entries in ascending order; an absent number holds a default. -/

namespace Sys2Proof.Machine

/-- Entry `k` of a table, if it is held. -/
def tabGet? {α : Type} (k : Nat) : List (Nat × α) → Option α
  | [] => none
  | (j, v) :: t => if j = k then some v else tabGet? k t

/-- Entry `k` of a table, or the default. -/
def tabGet {α : Type} (dflt : α) (k : Nat) (t : List (Nat × α)) : α := (tabGet? k t).getD dflt

/-- A table with entry `k` replaced; ascending order is kept. -/
def tabSet {α : Type} (k : Nat) (v : α) : List (Nat × α) → List (Nat × α)
  | [] => [(k, v)]
  | (j, w) :: t => if k < j then (k, v) :: (j, w) :: t else if j = k then (k, v) :: t else (j, w) :: tabSet k v t

/-- A table without entry `k`. -/
def tabDel {α : Type} (k : Nat) (t : List (Nat × α)) : List (Nat × α) := t.filter (fun p => p.1 != k)

/-- Element `i` of a list replaced. -/
def setAt {α : Type} (i : Nat) (v : α) (l : List α) : List α := l.set i v

/-- Element `i` of a list changed. -/
def modAt {α : Type} (i : Nat) (f : α → α) (l : List α) : List α := l.modify i f

/-- Bit `i` of a mask set or cleared. -/
def setBit {w : Nat} (m : BitVec w) (i : Nat) (b : Bool) : BitVec w :=
  if b then m ||| BitVec.twoPow w i else m &&& ~~~ BitVec.twoPow w i

/-- The numbers of the bits that are set. -/
def setBits {w : Nat} (m : BitVec w) : List Nat := (List.range w).filter (fun i => m.getLsbD i)

theorem tabGet?_tabSet_same {α : Type} (k : Nat) (v : α) (t : List (Nat × α)) :
    tabGet? k (tabSet k v t) = some v := by
  induction t with
  | nil => simp [tabSet, tabGet?]
  | cons p t ih =>
    obtain ⟨j, w⟩ := p
    unfold tabSet
    split
    · simp [tabGet?]
    · split
      · simp [tabGet?]
      · rename_i h1 h2
        simp [tabGet?, h2, ih]

theorem tabGet?_tabSet_other {α : Type} (k i : Nat) (v : α) (t : List (Nat × α)) (h : i ≠ k) :
    tabGet? i (tabSet k v t) = tabGet? i t := by
  induction t with
  | nil => simp [tabSet, tabGet?, Ne.symm h]
  | cons p t ih =>
    obtain ⟨j, w⟩ := p
    unfold tabSet
    split
    · simp [tabGet?, Ne.symm h]
    · split
      · rename_i h1 h2
        subst h2
        simp [tabGet?, Ne.symm h]
      · simp [tabGet?, ih]

end Sys2Proof.Machine
end

