-- ==== Sys2Proof/Machine/Ops.lean ====
section
/-! DEFINITION. The named operations over memory, host memory, messages and the catalogue's input queue. -/

namespace Sys2Proof.Machine

/- Lists of cells in canonical form. -/

/-- The byte listed at an address. -/
def cellGet (a : Nat) : List Host.Cell → Option Byte
  | [] => none
  | (b, v) :: t => if b = a then some v else cellGet a t

/-- The list with address `a` listed as `v`; addresses stay strictly rising. -/
def cellPut (a : Nat) (v : Byte) : List Host.Cell → List Host.Cell
  | [] => [(a, v)]
  | (b, w) :: t => if a < b then (a, v) :: (b, w) :: t else if b = a then (a, v) :: t else (b, w) :: cellPut a v t

/-- The list without address `a`. -/
def cellDel (a : Nat) (t : List Host.Cell) : List Host.Cell := t.filter (fun c => c.1 != a)

/-- One byte written where an unlisted address reads as zero. -/
def cellSet (a : Nat) (v : Byte) (t : List Host.Cell) : List Host.Cell :=
  if v = 0 then cellDel a t else cellPut a v t

/-- Bytes written from address `a` upward. -/
def cellsSet (a : Nat) : Bytes → List Host.Cell → List Host.Cell
  | [], t => t
  | v :: vs, t => cellsSet (a + 1) vs (cellSet a v t)

/-- `n` bytes read from address `a` upward, zero where nothing is listed. -/
def cellsRead (a n : Nat) (t : List Host.Cell) : Bytes := (List.range n).map (fun i => (cellGet (a + i) t).getD 0)

/- Islands (R22). -/

def islandOf (d : Dev) (i : Nat) : IslandSt := tabGet {} i d.power.islands

def setIsland (i : Nat) (x : IslandSt) (d : Dev) : Dev :=
  { d with power := { d.power with islands := tabSet i x d.power.islands } }

/- The device address map (R244, R245). -/

/-- Where a device address lies. -/
inductive Place where
  | lpddr (a : Nat)
  | scratch (h t o : Nat)
  | shared (h o : Nat)
  | fence (o : Nat)
  | nowhere
  deriving DecidableEq, Repr

/-- Table 10.1. -/
def placeOf (a : Nat) : Place :=
  if a < 0x4000000000 then .lpddr a
  else if 0x010000000000 ≤ a ∧ a < 0x010200000000 then
    let h := (a - 0x010000000000) / 0x20000000
    let o := (a - 0x010000000000) % 0x20000000
    if o < 0x14000000 then
      if o % 0x80000 < 0x60000 then .scratch h (o / 0x80000) (o % 0x80000) else .nowhere
    else if 0x1C000000 ≤ o ∧ o < 0x1D000000 then .shared h (o - 0x1C000000) else .nowhere
  else if 0x020000000000 ≤ a ∧ a < 0x020000100000 then .fence (a - 0x020000000000)
  else .nowhere

/-- Device addresses of on-chip memory (Table 10.1). -/
def scratchAddr (h t : Nat) : Nat := 0x010000000000 + h * 0x20000000 + t * 0x80000
def sharedAddr (h : Nat) : Nat := 0x010000000000 + h * 0x20000000 + 0x1C000000

/-- The installed LPDDR5X capacity: the channels of the mapping times the channel capacity (R256). -/
def lpBytes (m : Memory) : Nat := m.mapping.length * m.channelBytes

/-- The channel of a mapped LPDDR5X address (R257). -/
def channelOf (m : Memory) (a : Nat) : Nat := m.mapping.getD (a / 256 % m.mapping.length) 0

/-- The channel byte of a mapped LPDDR5X address (R257). -/
def channelByte (m : Memory) (a : Nat) : Nat := a / 256 / m.mapping.length * 256 + a % 256

/-- The bank of a scratchpad offset and its row (R247). -/
def scratchBank (o : Nat) : Nat := bits o 3 4
def scratchRow (o : Nat) : Nat := bits o 7 12

/-- The bank of a hall shared-memory offset and its row (R248). -/
def sharedBank (o : Nat) : Nat := bits o 3 6
def sharedRow (o : Nat) : Nat := bits o 9 15

/-- The package island index of a hall's tread (R5, R22). -/
def treadIsland (h t : Nat) : Nat := 40 * h + t / 16

/-- The package island index of a hall shared-memory bank (R249). -/
def bankIsland (h b : Nat) : Nat := 40 * h + 5 * b / 8

/-- The island whose clock serves an on-chip address. -/
def islandOfAddr (a : Nat) : Option Nat :=
  match placeOf a with
  | .scratch h t _ => some (treadIsland h t)
  | .shared h o => some (bankIsland h (sharedBank o))
  | .lpddr _ | .fence _ | .nowhere => none

/-- The number of an on-chip bank, and the row of the word in it: the banks of every tread by package tread index, then
those of every hall shared memory (R247, R248). -/
def bankRow (a : Nat) : Option (Nat × Nat) :=
  match placeOf a with
  | .scratch h t o => some (16 * (640 * h + t) + scratchBank o, scratchRow o)
  | .shared h o => some (16 * 10240 + 64 * h + sharedBank o, sharedRow o)
  | .lpddr _ | .fence _ | .nowhere => none

/-- The rows of a bank (R247, R248). -/
def bankRows (k : Nat) : Nat := if k < 16 * 10240 then 3072 else 32768

/-- R245: the address is mapped. -/
def mapped (m : Memory) (a : Nat) : Bool :=
  match placeOf a with
  | .lpddr a => a < lpBytes m
  | .scratch .. | .shared .. | .fence .. => true
  | .nowhere => false

/-- The march unit that holds a mapped address, if it is in one (R265). -/
def unitOf (m : Memory) (a : Nat) : Option MarchUnit :=
  match placeOf a with
  | .lpddr a => some (.channel (Fin.ofNat 32 (channelOf m a)))
  | .scratch h t _ => some (.scratch (Fin.ofNat 16 h) (Fin.ofNat 640 t))
  | .shared h _ => some (.shared (Fin.ofNat 16 h))
  | _ => none

/-- R245, R261: the gallery, hall or channel of the address is in service. -/
def inService (d : Dev) (a : Nat) : Bool :=
  match placeOf a with
  | .lpddr a => d.avail.channels.getLsbD (channelOf d.mem a)
  | .scratch h t _ => d.avail.halls.getLsbD h && (d.avail.galleries.getD h 0#20).getLsbD (t / 32)
  | .shared h _ => d.avail.halls.getLsbD h
  | _ => true

/-- A region contains a unit. -/
def regionHas (r : Region) (u : MarchUnit) : Bool :=
  match r with
  | .unit v => v == u
  | .lpddr =>
    match u with
    | .channel _ => true
    | .scratch .. | .shared _ => false
  | .onChip =>
    match u with
    | .channel _ => false
    | .scratch .. | .shared _ => true
  | .hall h =>
    match u with
    | .scratch k _ => h == k
    | .shared k => h == k
    | .channel _ => false
  | .gallery h g =>
    match u with
    | .scratch k t => h == k && t.val / 32 == g.val
    | .shared _ | .channel _ => false
  | .span .. => false

/-- Region `q` lies within region `r`. -/
def regionWithin (q r : Region) : Bool :=
  match q with
  | .unit u => regionHas r u
  | .hall h =>
    match r with
    | .hall k => h == k
    | .onChip => true
    | .unit _ | .lpddr | .gallery .. | .span .. => false
  | .gallery h g =>
    match r with
    | .hall k => h == k
    | .gallery k f => h == k && g == f
    | .onChip => true
    | .unit _ | .lpddr | .span .. => false
  | .onChip => r == .onChip
  | .lpddr => r == .lpddr
  | .span a n =>
    match r with
    | .span b k => decide (b ≤ a) && decide (a + n ≤ b + k)
    | .unit _ | .lpddr | .onChip | .hall _ | .gallery .. => false

/-- A region contains an address. -/
def regionAt (m : Memory) (r : Region) (a : Nat) : Bool :=
  match r with
  | .span f n => decide (f ≤ a) && decide (a < f + n)
  | r =>
    match unitOf m a with
    | some u => regionHas r u
    | none => false

/-- The number of the undefined content of an address, if its unlisted bytes are undefined (R12, R441, R446, R471). -/
def undefAt (m : Memory) (a : Nat) : Option Nat :=
  match m.marks.find? (fun r => regionAt m r.1 a) with
  | some (_, g) => g
  | none => none

/-- What an unlisted address reads as: zero, or an undefined byte (log 10). -/
def unlisted (m : Memory) (a : Nat) : Byte :=
  match undefAt m a with
  | some g => Config.undefByte g a
  | none => 0

/-- One byte of device memory. -/
def memByte (m : Memory) (a : Nat) : Byte := (cellGet a m.cells).getD (unlisted m a)

/-- One byte written; a zero in a region that reads as zero leaves the list. -/
def memSet (a : Nat) (v : Byte) (m : Memory) : Memory :=
  { m with cells := if (undefAt m a).isNone ∧ v = 0 then cellDel a m.cells else cellPut a v m.cells }

/-- Bytes written from address `a` upward. -/
def memWrite (a : Nat) : Bytes → Memory → Memory
  | [], m => m
  | v :: vs, m => memWrite (a + 1) vs (memSet a v m)

/-- `n` bytes from address `a` upward. -/
def memRead (m : Memory) (a n : Nat) : Bytes := (List.range n).map (fun i => memByte m (a + i))

/-- Addresses rise strictly, and no entry of a region that reads as zero is zero. -/
def cellsRise : List Host.Cell → Bool
  | [] => true
  | [_] => true
  | (a, _) :: (b, w) :: t => decide (a < b) && cellsRise ((b, w) :: t)

/-- The canonical form of a cell list where an unlisted byte reads as zero. -/
def cellsWf (t : List Host.Cell) : Bool := cellsRise t && t.all (fun c => c.2 != 0)

/-- The canonical form of device memory. -/
def memWf (m : Memory) : Bool :=
  cellsRise m.cells && m.cells.all (fun c => (undefAt m c.1).isSome || c.2 != 0)

/-- The content of a region is lost: its bytes leave the list and read as the mark says (`none`: zero). -/
def memMark (r : Region) (g : Option Nat) (m : Memory) : Memory :=
  let inR (a : Nat) : Bool := regionAt m r a
  { m with
    cells := m.cells.filter (fun c => !inR c.1)
    marks := (r, g) :: m.marks.filter (fun k => !regionWithin k.1 r)
    ue := m.ue.filter (fun a => !inR a)
    writeback := m.writeback.filter (fun a => !inR a) }

/-- What one access moves whole: an 8-byte word, or a 64-byte line of LPDDR5X (R252, R258). -/
def accessBytes (a : Nat) : Nat := if a < 0x4000000000 then 64 else 8

/-- The word, or line, of an address. -/
def wordOf (a : Nat) : Nat := a / accessBytes a * accessBytes a

/-- Words wholly inside `[a, a + n)`: a write of them replaces an uncorrectable word (R254) and drops a pending
write-back (R253). -/
def wordsWritten (a n : Nat) (m : Memory) : Memory :=
  { m with
    ue := m.ue.filter (fun w => !(a ≤ w && w + 8 ≤ a + n))
    writeback := m.writeback.filter (fun w => !(a < w + 8 && w < a + n)) }

/-- Bytes stored in device memory. -/
def devStore (a : Nat) (bs : Bytes) (d : Dev) : Dev :=
  { d with mem := wordsWritten a bs.length (memWrite a bs d.mem) }

/- The mirrored pair's suppression (R237, R241). -/

/-- A context's mirroring, if it is attached. -/
def mirrorCtx (d : Dev) (c : Nat) : Option MirrorCtx := d.chain.mirror.ctxs.find? (fun m => m.ctx == c)

/-- The secondary runs an attached context on its own after a takeover, and every message's point is reached (R242). -/
def mirrorLive (d : Dev) (m : MirrorCtx) : Bool :=
  d.chain.mirror.state == .takenOver && m.points.isEmpty && !m.barred && m.mark != 1

/-- A context whose host-visible effects are suppressed: attached on the secondary, or yielded on the primary. -/
def hushed (d : Dev) (c : Nat) : Bool :=
  match mirrorCtx d c with
  | some m => m.yielded || m.barred || (d.chain.mirror.role == 2 && !mirrorLive d m)
  | none => false

/-- The step in progress acts for a suppressed context. -/
def actorHushed (d : Dev) : Bool :=
  match d.actor with
  | some c => hushed d c
  | none => false

/-- A step acts for a context. -/
def asCtx (c : Nat) (f : Dev → Dev) (d : Dev) : Dev := { f { d with actor := some c } with actor := d.actor }

/- Host memory (R337). -/

/-- Bytes sent to host memory, unless bus mastering is quiesced (R403) or the context is suppressed (R237). -/
def hostStore (a : Nat) (bs : Bytes) (d : Dev) : Dev :=
  if d.host.quiesced || actorHushed d then d
  else { d with host := { d.host with mem := cellsSet (low 63 a) bs d.host.mem }
                tele := { d.tele with txBytes := satAdd 64 d.tele.txBytes bs.length } }

/-- Bit [63] of an address names host memory (R11). -/
def isHost (a : Nat) : Bool := bit a 63

/-- Bytes stored at an R11 address. -/
def store (a : Nat) (bs : Bytes) (d : Dev) : Dev := if isHost a then hostStore a bs d else devStore a bs d

/-- Bytes held at an R11 address. -/
def fetch (d : Dev) (a n : Nat) : Bytes :=
  if isHost a then cellsRead (low 63 a) n d.host.mem else memRead d.mem a n

/-- R11: the address keeps the rule (bits [62:48] zero for a device address). -/
def addrForm (a : Nat) : Bool := isHost a || bits a 48 15 == 0

/-- A host request waits while Bus Master Enable is clear, and in D3hot (R337, R434). -/
def hostWaits (d : Dev) : Bool := !d.host.busMaster || d.host.d3

/- The counters of the free values. -/

/-- A fresh number for undefined content. -/
def freshMark (r : Region) (d : Dev) : Dev :=
  { d with mem := memMark r (some d.free) d.mem, free := d.free + 1 }

/-- Device memory is written with bytes that no rule gives. -/
def fillFresh (a n : Nat) (d : Dev) : Dev :=
  let d := freshMark (.span a n) d
  { d with mem := wordsWritten a n d.mem }

/-- A region reads as zero. -/
def zeroMark (r : Region) (d : Dev) : Dev := { d with mem := memMark r none d.mem }

/-- The fence scratch reads as zero (R246). -/
def zeroFence (d : Dev) : Dev :=
  { d with mem := { d.mem with
      cells := d.mem.cells.filter (fun c => !(match placeOf c.1 with | .fence _ => true | _ => false)) } }

/- The catalogue's input queue (R411, R412). -/

/-- Two events with equal EVENT_CODE, P0, P1 and P2. -/
def sameEvent (a b : Event) : Bool := a.code == b.code && a.p0 == b.p0 && a.p1 == b.p1 && a.p2 == b.p2

/-- The lowest severity in the queue. -/
def lowestSeverity (q : List Event) : Nat := q.foldl (fun m e => min m e.severity) 8

/-- The queue without its newest event of severity `s`. -/
def dropNewest (s : Nat) (q : List Event) : List Event :=
  let r := q.reverse
  match r.findIdx? (fun e => e.severity == s) with
  | some i => (r.eraseIdx i).reverse
  | none => q

/-- An event enters the input queue of 64 (R412). -/
def enqueueEvent (e : Event) (c : Catalogue) : Catalogue :=
  match c.input.getLast? with
  | some n =>
    if sameEvent n e then { c with input := c.input.dropLast ++ [{ n with repeats := n.repeats + 1 }] }
    else if c.input.length < 64 then { c with input := c.input ++ [e] }
    else
      let m := lowestSeverity c.input
      if m < e.severity then
        { c with input := dropNewest m c.input ++ [e], dropped := satAdd 32 c.dropped 1 }
      else { c with dropped := satAdd 32 c.dropped 1 }
  | none => { c with input := [e] }

/-- Dies of a catalogue record (Table 16.5). -/
def dieNorth : Nat := 16
def dieSouth : Nat := 17
def dieE : Nat := 18
def dieW : Nat := 19
def diePackage : Nat := 20

def logSev (code severity die p0 p1 p2 : Nat) (injected : Bool) (d : Dev) : Dev :=
  let e : Event :=
    { code := code, severity := severity, injected := injected, die := die,
      p0 := low 32 p0, p1 := low 32 p1, p2 := low 32 p2, repeats := 0 }
  { d with cat := enqueueEvent e d.cat }

/-- An event of severity 1 (R411). -/
def logEv (code die p0 p1 p2 : Nat) (d : Dev) : Dev := logSev code 1 die p0 p1 p2 false d

/-- An event whose code and words the manual does not give: subsystem `sub` (R411), the model's number `k` of that kind of
event, severity 1, three facts of it (log 14). -/
def logOpen (sub k die a b c : Nat) (d : Dev) : Dev :=
  let w (i : Nat) : Nat := Config.eventWord k i a b c
  logEv (sub * 256 + low 8 (Config.eventLow k)) die (w 0) (w 1) (w 2) d

/-- The operating time in the catalogue's format (Table 16.5): hours and 1/4,096 hours with VDD_AON powered. -/
def opTime (d : Dev) : Nat := low 32 (d.clock * 4096 / 3600000000000)

/-- A stamp: the curator's 1 GHz counter (R7). -/
def stamp (d : Dev) : Nat := low 48 d.clock

/- The availability map (R29). -/

/-- A change of the map: the generation rises by 1 and an event is logged. Before READY the map is not in force,
and the generation is set at READY (R445). -/
def setAvail (a : Avail) (d : Dev) : Dev :=
  if a = d.avail then d
  else if d.boot.ready then
    logOpen 0x01 1 dieNorth (d.avail.generation + 1) 0 0
      { d with avail := { a with generation := low 32 (d.avail.generation + 1) } }
  else { d with avail := a }

/- Messages (R301). -/

def msixOf (d : Dev) (v : Nat) : MsixVec := tabGet {} v d.host.msix

def setMsix (v : Nat) (m : MsixVec) (d : Dev) : Dev := { d with host := { d.host with msix := tabSet v m d.host.msix } }

/-- A message leaves for the host, or waits while Bus Master Enable is clear (R337). -/
def emitMsi (v : Nat) (d : Dev) : Dev :=
  if d.host.quiesced then d
  else if hostWaits d then { d with host := { d.host with waiting := d.host.waiting ++ [v] } }
  else
    let m := msixOf d v
    { d with host := { d.host with sent := d.host.sent ++ [{ vector := v, addr := m.addr, data := m.data }] } }

/-- A vector is signalled: masked, it sets its pending bit; otherwise one message is sent (R301). -/
def signal (v : Nat) (d : Dev) : Dev :=
  if d.host.quiesced || actorHushed d then d
  else
    let m := msixOf d v
    if m.masked || d.host.msixMaskAll || !d.host.msixEnable then setMsix v { m with pending := true } d
    else emitMsi v d

/-- A vector is unmasked: with its pending bit set, one message is sent. -/
def unmask (v : Nat) (d : Dev) : Dev :=
  let m := msixOf d v
  if m.pending && !d.host.msixMaskAll && d.host.msixEnable then
    emitMsi v (setMsix v { m with masked := false, pending := false } d)
  else setMsix v { m with masked := false } d

/-- Messages that waited for Bus Master Enable are sent. -/
def flushMsi (d : Dev) : Dev :=
  if hostWaits d || d.host.quiesced then d
  else d.host.waiting.foldl (fun d v => emitMsi v d) { d with host := { d.host with waiting := [] } }

/- Queues and contexts. -/

def queueOf (d : Dev) : QRef → Queue
  | .kernel k => tabGet {} k.val d.cur.kernelQ
  | .user q => tabGet {} q.val d.cur.userQ

def setQueue (q : QRef) (x : Queue) (d : Dev) : Dev :=
  match q with
  | .kernel k => { d with cur := { d.cur with kernelQ := tabSet k.val x d.cur.kernelQ } }
  | .user u => { d with cur := { d.cur with userQ := tabSet u.val x d.cur.userQ } }

def ctxOf (d : Dev) (c : Nat) : Option Ctx := tabGet? c d.ctxs

def setCtx (c : Nat) (x : Ctx) (d : Dev) : Dev := { d with ctxs := tabSet c x d.ctxs }

def modCtx (c : Nat) (f : Ctx → Ctx) (d : Dev) : Dev :=
  match ctxOf d c with
  | some x => setCtx c (f x) d
  | none => d

/-- Every queue the tables hold. -/
def allQueues (d : Dev) : List QRef :=
  d.cur.kernelQ.map (fun p => .kernel (Fin.ofNat 16 p.1)) ++ d.cur.userQ.map (fun p => .user (Fin.ofNat 4096 p.1))

/- Record checks (Table 15.1): CRC-32C, the Castagnoli polynomial, reflected. -/

def crcStep (c : BitVec 32) : BitVec 32 :=
  if c.getLsbD 0 then (c >>> 1) ^^^ 0x82F63B78#32 else c >>> 1

def crcByte (c : BitVec 32) (b : Byte) : BitVec 32 :=
  crcStep (crcStep (crcStep (crcStep (crcStep (crcStep (crcStep (crcStep (c ^^^ b.setWidth 32))))))))

def crc32c (bs : Bytes) : Nat := ((bs.foldl crcByte 0xFFFFFFFF#32) ^^^ 0xFFFFFFFF#32).toNat

/- Fields of a run of bytes. -/

/-- The little-endian field of `n` bytes at offset `o`. -/
def fld (bs : Bytes) (o n : Nat) : Nat := leNat ((bs.drop o).take n)

def u8 (bs : Bytes) (o : Nat) : Nat := fld bs o 1
def u16 (bs : Bytes) (o : Nat) : Nat := fld bs o 2
def u32 (bs : Bytes) (o : Nat) : Nat := fld bs o 4
def u64 (bs : Bytes) (o : Nat) : Nat := fld bs o 8

/-- The bytes `[a, a + n)` among runs of bytes read by R11 address, the latest run first, if they are all there. -/
def gotRead (got : List (Nat × Bytes)) (a n : Nat) : Option Bytes :=
  match got.find? (fun c => decide (c.1 ≤ a) && decide (a + n ≤ c.1 + c.2.length)) with
  | some c => some ((c.2.drop (a - c.1)).take n)
  | none =>
    (List.range n).mapM (fun i => got.findSome? (fun c => if c.1 ≤ a + i then c.2[a + i - c.1]? else none))

/-- The reserved field `[o, o + n)` is not zero: the offset of the field (R9). -/
def nonzeroIn (bs : Bytes) (o n : Nat) : Option Nat :=
  if ((bs.drop o).take n).any (fun b => b != 0) then some o else none

/-- Bytes padded with zeros, or cut, to a length. -/
def padTo (n : Nat) (bs : Bytes) : Bytes := (bs ++ List.replicate (n - bs.length) 0).take n

end Sys2Proof.Machine
end

