-- ==== Sys2Proof/Machine/ChainTx.lean ====
section
/-! DEFINITION. The chain links below the messages: routes, flits and their trailers, credits, and the order of sending
(R223, R225 to R230). -/

namespace Sys2Proof.Machine

def linkOf (d : Dev) (n : Nat) : Link := d.chain.links.getD n {}

def setLink (n : Nat) (l : Link) (d : Dev) : Dev := { d with chain := { d.chain with links := setAt n l d.chain.links } }

def linkUp (l : Link) : Bool := l.state == .up

/-- A link that carries traffic, now or when its renegotiation ends (R231, R232). -/
def linkCarries (l : Link) : Bool := l.state == .up || (l.state == .training && l.wasUp)

/-- A negotiation starts with the limits set by then (R221, R231). -/
def negotiate (l : Link) : Link :=
  { l with
    state := .training
    candidate := 0
    negLanes := l.maxLanes
    negRate := l.maxRate
    negFecOff := l.fecOff
    retrains := if l.negotiations = 0 then l.retrains else satAdd 32 l.retrains 1
    negotiations := l.negotiations + 1
    lanes := 0
    rate := 0
    fec := false
    firstLane := 0 }

/-- R230: the link on which a destination is reached. -/
def routeOf (d : Dev) (dest : Nat) : Option Nat :=
  let e := d.chain.routes.getD dest 0
  let n := bits e 0 4
  if d.chain.id.isSome && bit e 7 && linkCarries (linkOf d n) && !(linkOf d n).mirror then some n else none

/- Flits (R223). -/

/-- The type of a message (Table 9.3). -/
def msgType (m : Msg) : Fin 16 :=
  match m with
  | .mgmt _ => 1
  | .hello .. => 2
  | .newel .. => 3
  | .frame .. => 4
  | .resend .. => 5
  | .endNotice .. => 6
  | .checkUp .. => 7
  | .verdict _ => 8
  | .ingest .. => 9
  | .mirrorLog .. => 10
  | .mirrorState .. => 11
  | .beat => 12

/-- The virtual channel of a message type (Table 9.3). -/
def typeVc (t : Nat) : Option Nat :=
  if t = 4 then some 1 else if t = 9 then some 2 else if 10 ≤ t ∧ t ≤ 12 then some 3 else if t ≤ 8 then some 0 else none

/-- The virtual channel of a message. -/
def msgVc (m : Msg) : Nat := (typeVc (msgType m).val).getD 0

/-- The payload bytes of a message, where the manual gives its contents a size (log 15). -/
def msgBytes (m : Msg) : Nat :=
  match m with
  | .frame _ _ v => ceilDiv v.length 8
  | .ingest _ bs => bs.length
  | .mirrorLog _ (.dispatch _ e b) => e.length + b.length
  | .mirrorLog _ (.hostBytes _ bs) => bs.length
  | .mirrorLog _ (.record _ _ bs) => bs.length
  | .mirrorState _ p => ((p.spins ++ p.bests).map (fun s => ceilDiv s.length 8)).foldl (· + ·) 0
  | .mgmt (.mailbox bs) => bs.length
  | _ => 1

def msgFlits (m : Msg) : Nat := max 1 (ceilDiv (msgBytes m) 240)

/-- The flits of a message from FIRST to LAST (R228); the last completes it. SEQ is set as a flit leaves. -/
def flitsOf (src dest : Nat) (m : Msg) : List TxFlit :=
  let n := msgFlits m
  (List.range n).map (fun i =>
    { head :=
        { vc := Fin.ofNat 4 (msgVc m), type := msgType m, first := i == 0, last := i + 1 == n, dest := Fin.ofNat 2048 dest
          src := Fin.ofNat 2048 src, hops := 0
          length := Fin.ofNat 256 (if i + 1 = n then max 1 (msgBytes m - 240 * i) else 240), seq := 0, reserved := false }
      msg := if i + 1 = n then some m else none })

def flitVc (f : TxFlit) : Nat := f.head.vc.val

/-- The 8 bytes of a flit header (Table 9.2). -/
def headerBytes (h : FlitHeader) : Bytes :=
  leBytes 8 (h.vc.val + h.type.val * 2 ^ 2 + ofBool h.first * 2 ^ 6 + ofBool h.last * 2 ^ 7 + h.dest.val * 2 ^ 8 +
    h.src.val * 2 ^ 19 + h.hops.val * 2 ^ 30 + h.length.val * 2 ^ 36 + h.seq.val * 2 ^ 44)

/-- The 256 bytes of a flit: header, payload, trailer with ACK_SEQ, NAK, credits and CRC-32C (R223). -/
def flitBytes (h : FlitHeader) (payload : Bytes) (t : Trailer) : Bytes :=
  let b := headerBytes h ++ padTo 240 payload ++ leBytes 2 (t.ackSeq + ofBool t.nak * 2 ^ 12) ++
    leBytes 2 ((List.range 4).foldl (fun n v => n + low 4 (t.credits.getD v 0) * 2 ^ (4 * v)) 0)
  b ++ leBytes 4 (crc32c b)

/-- The trailer of the next flit: the last SEQ received in order, NAK where one is due, at most 15 credits of each
VC (R223, R225). -/
def nextTrailer (l : Link) : Trailer := { ackSeq := l.rxSeq, nak := l.nakDue, credits := l.owed.map (fun c => min 15 c) }

/-- A flit leaves with the next trailer. -/
def sendWith (h : FlitHeader) (l : Link) : Link :=
  { l with ackDue := false, nakDue := false, owed := l.owed.map (fun c => c - 15), out := some (h, nextTrailer l) }

/-- The link owes its partner an acknowledgement, a NAK or credits. -/
def owes (l : Link) : Bool := l.ackDue || l.nakDue || l.owed.any (fun c => decide (0 < c))

/-- The header of an IDLE flit (Table 9.3). -/
def idleHead : FlitHeader :=
  { vc := 0, type := 0, first := false, last := false, dest := 0, src := 0, hops := 0, length := 0, seq := 0, reserved := false }

/-- IDLE flits leave while something is owed and nothing else takes it along; `n` bounds them (R223). -/
def sendIdles : Nat → Link → Link
  | 0, l => l
  | n + 1, l => if linkUp l && owes l then sendIdles n (sendWith idleHead l) else l

/-- The virtual channel to send next: VC0 first, then round-robin from `turn` (R226). -/
def nextVc (l : Link) : Option Nat :=
  let ready (v : Nat) : Bool := decide (0 < l.credits.getD v 0) && l.waiting.any (fun f => flitVc f == v)
  if ready 0 then some 0
  else ((List.range 3).map (fun i => 1 + (l.turn - 1 + i) % 3)).find? ready

/-- One flit leaves, if the link is up, a credit is held and fewer than 128 flits are unacknowledged. -/
def sendFlit (l : Link) : Option Link :=
  if !linkUp l || decide (128 ≤ l.unacked.length) then none
  else
    match nextVc l with
    | none => none
    | some v =>
      match l.waiting.find? (fun f => flitVc f == v) with
      | none => none
      | some f =>
        let f' := { f with head := { f.head with seq := Fin.ofNat 4096 l.nextSeq } }
        some (sendWith f'.head { l with
          waiting := l.waiting.erase f
          unacked := l.unacked ++ [f']
          nextSeq := (l.nextSeq + 1) % 4096
          credits := modAt v (fun c => c - 1) l.credits
          turn := if v = 0 then l.turn else v % 3 + 1 })

/-- Flits leave as long as they may; `n` bounds them. -/
def pumpLink : Nat → Link → Link
  | 0, l => l
  | n + 1, l =>
    match sendFlit l with
    | some l' => pumpLink n l'
    | none => l

/-- A buffer place of VC `v` on link `n` is free again: its credit is owed to the partner (R226). -/
def oweCredit (n v : Nat) (d : Dev) : Dev :=
  let l := linkOf d n
  setLink n { l with owed := modAt v (fun c => c + 1) l.owed } d

/-- A forwarded flit has left its buffer: the credit goes back on the link it came on (R226, R227). -/
def freePlace (f : TxFlit) (d : Dev) : Dev :=
  match f.via with
  | none => d
  | some j =>
    let d := oweCredit j (flitVc f) d
    setLink j (sendIdles 16 (linkOf d j)) d

/-- A link sends what it can; a safe state sends hold flits only (R403). -/
def runLink (n : Nat) (d : Dev) : Dev :=
  if d.fc.safeState then d
  else
    let l := linkOf d n
    let l' := pumpLink 128 l
    let sent := l'.unacked.drop l.unacked.length
    let bytes := (sent.map (fun f => f.head.length.val)).foldl (· + ·) 0
    let tele := { d.tele with linkTx := tabSet n (satAdd 64 (tabGet 0 n d.tele.linkTx) bytes) d.tele.linkTx }
    sent.foldl (fun d f => freePlace f d) (setLink n (sendIdles 16 l') { d with tele := tele })

/-- Flits are queued on a link. -/
def queueFlits (n : Nat) (fs : List TxFlit) (d : Dev) : Dev :=
  let l := linkOf d n
  runLink n (setLink n { l with waiting := l.waiting ++ fs } d)

/-- A message is queued on a link. -/
def sendOn (n dest : Nat) (m : Msg) (d : Dev) : Dev := queueFlits n (flitsOf (d.chain.id.getD 0) dest m) d

/-- A message of a partitioned run goes to a chain identifier; an unreachable one discards it (R230, R233). One to the
device itself is delivered locally: no other part of the run is here to take it (R199, R230). -/
def sendTo (dest : Nat) (m : Msg) (d : Dev) : Dev :=
  if d.chain.id = some dest then d
  else
    match routeOf d dest with
    | some n => sendOn n dest m d
    | none => d

end Sys2Proof.Machine
end

