-- ==== Sys2Proof/Machine/MirrorTx.lean ====
section
/-! DEFINITION. What both sides of a mirrored pair do for an attached context: the log, the checkpoints, and what waits
for them (R236 to R239, R242, R243). -/

namespace Sys2Proof.Machine

def isPrimary (d : Dev) : Bool := d.chain.mirror.role == 1
def isSecondary (d : Dev) : Bool := d.chain.mirror.role == 2

def modMirror (f : Mirror → Mirror) (d : Dev) : Dev := { d with chain := { d.chain with mirror := f d.chain.mirror } }

def modMirrorCtx (c : Nat) (f : MirrorCtx → MirrorCtx) (d : Dev) : Dev :=
  modMirror (fun m => { m with ctxs := m.ctxs.map (fun x => if x.ctx = c then f x else x) }) d

/-- The context is attached on a primary that still works for it. -/
def forwards (d : Dev) (c : Nat) : Bool :=
  match mirrorCtx d c with
  | some m => isPrimary d && !m.yielded
  | none => false

/-- A primary that has yielded: the context's ops never complete on it (R241). -/
def yieldedCtx (d : Dev) (c : Nat) : Bool :=
  match mirrorCtx d c with
  | some m => m.yielded
  | none => false

/-- A mirror link that is up and not silent. -/
def mirrorLive1 (d : Dev) (n : Nat) : Bool := (linkOf d n).mirror && linkUp (linkOf d n) && !(linkOf d n).silent

/-- The mirror link in use: the first that is up and not silent. -/
def mirrorLink (d : Dev) : Nat :=
  let m := d.chain.mirror
  if mirrorLive1 d m.linkA || !mirrorLive1 d m.linkB then m.linkA else m.linkB

/-- A message of the mirror leaves for the partner, on a link that has the mirror role (R231). -/
def sendMirror (m : Msg) (d : Dev) : Dev :=
  if d.chain.id.isSome && (linkOf d (mirrorLink d)).mirror then sendOn (mirrorLink d) d.chain.mirror.partner m d else d

/-- Work of an attached context that makes log entries waits: VC3 has no credit (R236). -/
def logHolds (d : Dev) (c : Nat) : Bool :=
  let l := linkOf d (mirrorLink d)
  forwards d c && (!l.mirror || l.credits.getD 3 0 == 0)

/-- The primary forwards an entry of the mirror log (R236). -/
def forwardLog (c : Nat) (e : MirrorEntry) (d : Dev) : Dev := if forwards d c then sendMirror (.mirrorLog c e) d else d

def aboutCtx (c : Nat) (f : TxFlit) : Bool :=
  match f.msg with
  | some (.mirrorLog k _) => k == c
  | some (.mirrorState k _) => k == c
  | _ => false

/-- Log flits or checkpoints of the context that the link has not acknowledged (R239). -/
def mirrorPending (d : Dev) (c : Nat) : Bool :=
  forwards d c &&
    [d.chain.mirror.linkA, d.chain.mirror.linkB].any (fun n =>
      let l := linkOf d n
      l.waiting.any (aboutCtx c) || l.unacked.any (aboutCtx c))

/-- The step in progress acts for a context whose host writes wait for the link (R239). -/
def actorPending (d : Dev) : Bool :=
  match d.actor with
  | some c => mirrorPending d c
  | none => false

/-- The secondary's copy of a context may go on: its next point's message has arrived, or it has taken over (R238,
R242). -/
def mirrorGoes (d : Dev) (c : Nat) : Bool :=
  match mirrorCtx d c with
  | some m => !m.yielded && !m.barred && (!isSecondary d || (m.mark != 1 && !m.points.isEmpty) || mirrorLive d m)
  | none => true

/-- A count word in host memory: during replay it is written only when it rises (R243). -/
def countStore (a v : Nat) (d : Dev) : Dev :=
  let replay := match d.actor.bind (mirrorCtx d) with
    | some m => m.replay
    | none => false
  if isHost a && replay && decide (v ≤ leNat (cellsRead (low 63 a) 8 d.host.mem)) then d else store a (leBytes 8 v) d

/- Checkpoints (Table 9.8). -/

/-- Spins and energies of a context's problem: current spins, best spins, system and best energies. -/
def mirrorSpins (x : Ctx) : List (List Bool) × List (List Bool) × List Int :=
  match x.problem with
  | some p =>
    (p.blocks.flatMap (fun b => b.reps.map (fun r => r.spins)), p.blocks.flatMap (fun b => b.reps.map (fun r => r.bestSpins)),
     [p.energy, p.best])
  | none => ([], [], [])

/-- Entries consumed and completions written of the queues of a context. -/
def mirrorQueues (d : Dev) (c : Nat) : List (QRef × Nat × Nat) :=
  ((allQueues d).filter (fun q => (queueOf d q).bound && (queueOf d q).context == c)).map (fun q =>
    (q, (queueOf d q).sqHead, (queueOf d q).cqTail))

/-- The checkpoint of a context now; `states` says whether it holds spins. -/
def mirrorPointOf (d : Dev) (c : Nat) (isEpoch states : Bool) (serial : Nat) : MirrorPoint :=
  let (s, b, e) := match ctxOf d c with
    | some x => if states then mirrorSpins x else ([], [], [])
    | none => ([], [], [])
  let m := (mirrorCtx d c).getD { ctx := c, checkEvery := 1 }
  { isEpoch := isEpoch, serial := serial, spins := s, bests := b, energies := e, fences := m.fences,
    queues := mirrorQueues d c, completions := if isEpoch then [] else m.completions }

/-- The primary takes a checkpoint (R238). -/
def sendPoint (c : Nat) (isEpoch states : Bool) (epoch : Nat) (d : Dev) : Dev :=
  match mirrorCtx d c with
  | none => d
  | some m =>
    let d := sendMirror (.mirrorState c (mirrorPointOf d c isEpoch states (if isEpoch then epoch else m.serial))) d
    modMirrorCtx c (fun m =>
      { m with serial := if isEpoch then m.serial else m.serial + 1, fences := []
               completions := if isEpoch then m.completions else [] }) d

/-- The secondary reaches a point and holds there. -/
def reachPoint (c : Nat) (d : Dev) : Dev := modMirrorCtx c (fun m => { m with mark := 1 }) d

/-- The secondary leaves the point it has compared. -/
def leavePoint (c : Nat) (d : Dev) : Dev := modMirrorCtx c (fun m => { m with mark := 0 }) d

/-- The mark of a context's copy. -/
def markOf (d : Dev) (c : Nat) : Nat :=
  match mirrorCtx d c with
  | some m => m.mark
  | none => 0

/-- A host fence that an op of an attached context signalled (R238). -/
def noteFence (c a v : Nat) (d : Dev) : Dev :=
  modMirrorCtx c (fun m => { m with fences := m.fences.filter (fun f => f.1 != a) ++ [(a, v)] }) d

/-- The other mirror link. -/
def otherMirror (d : Dev) (n : Nat) : Nat :=
  if d.chain.mirror.linkA = n then d.chain.mirror.linkB else d.chain.mirror.linkA

/-- What the mirror sent on one of its links goes on the other, so that no log entry is dropped (R236). -/
def moveFlits (n : Nat) (d : Dev) : Dev :=
  let l := linkOf d n
  let m := otherMirror d n
  let k := linkOf d m
  if l.mirror && k.mirror then
    runLink m (setLink m { k with waiting := (l.unacked ++ l.waiting) ++ k.waiting }
      (setLink n { l with waiting := [], unacked := [] } d))
  else d

/-- Chain-send records among flits: each is counted by the flit that completes it (R233). -/
def chainRecords (l : List TxFlit) : Nat :=
  l.countP (fun f => match f.msg with | some (.ingest ..) => true | _ => false)

/-- A link loses the flits held for retry and its queued messages, with the chain-send records counted; its sequence
numbers and credits start anew (R232, R233). -/
def dropTraffic (n : Nat) (d : Dev) : Dev :=
  let d := moveFlits n d
  let l := linkOf d n
  let lost := l.unacked ++ l.waiting
  let d := l.waiting.foldl (fun d f => freePlace f d) (setLink n
    { l with waiting := [], unacked := [], credits := [8, 64, 64, 128], nextSeq := 0, rxSeq := 4095, ackDue := false
             nakDue := false, owed := [0, 0, 0, 0] } d)
  { d with tele := { d.tele with chainSendDrops := satAdd 64 d.tele.chainSendDrops (chainRecords lost) } }

/-- The value of a host fence that ADD starts from: on the secondary, the one last recorded (R243). -/
def fenceBase (d : Dev) (c a v : Nat) : Nat :=
  match mirrorCtx d c with
  | some m =>
    if isSecondary d && (hushed d c || m.replay) then
      match m.fences.find? (fun f => f.1 == a) with
      | some f => f.2
      | none => v
    else v
  | none => v

/- The log on the secondary (R236). -/

/-- The secondary's copy of a context that reads host memory from its log. -/
def copyOf (d : Dev) (c : Nat) : Option MirrorCtx :=
  match mirrorCtx d c with
  | some m => if isSecondary d && !m.barred then some m else none
  | none => none

/-- The first bytes in a log for `n` bytes at an R11 address. -/
def logBytes (a n : Nat) (l : List MirrorEntry) : Option Bytes :=
  l.findSome? (fun e =>
    match e with
    | .hostBytes b bs => if b = a ∧ bs.length = n then some bs else none
    | _ => none)

/-- An entry leaves the log. -/
def takeEntry (c : Nat) (e : MirrorEntry) (d : Dev) : Dev := modMirrorCtx c (fun m => { m with log := m.log.erase e }) d

/-- The next seed in the log of the secondary's copy. -/
def logSeed (m : MirrorCtx) : Option Nat :=
  m.log.findSome? (fun e => match e with | .seed v => some v | _ => none)

end Sys2Proof.Machine
end

