-- ==== Sys2Proof/Machine/Routes.lean ====
section
/-! DEFINITION. The router grid: positions, dimension-ordered routes, the entry points of the edge dies, the stair links
a route crosses, and the routes around a hall whose routers are out of service (R270 to R277). -/

namespace Sys2Proof.Machine

/-- A router of the grid: row and column (R270). -/
abbrev GridPos := Nat × Nat

/-- The edge dies. -/
inductive EdgeDie where
  | north | south | east | west
  deriving DecidableEq, Repr

/-- The router of a hall's tread: router column c of gallery g in hall (r, hc) at (20r + g, 4hc + c) (R19, R270). -/
def treadPos (h t : Nat) : GridPos := (20 * (h / 4) + t / 32, 4 * (h % 4) + t % 32 / 8)

/-- The router that serves a hall shared-memory bank: the manual names its island, whose western router is taken (log
62). -/
def bankPos (h b : Nat) : GridPos :=
  let i := 5 * b / 8
  (20 * (h / 4) + i / 2, 4 * (h % 4) + 2 * (i % 2))

/-- The hall of a grid position. -/
def posHall (p : GridPos) : Nat := 4 * (p.1 / 20) + p.2 / 4

/-- From `a` to `b`, `a` left out and `b` taken. -/
def rangeTo (a b : Nat) : List Nat :=
  if a ≤ b then (List.range (b - a)).map (fun i => a + 1 + i) else (List.range (a - b)).map (fun i => a - 1 - i)

/-- R275: column first, along the row to the destination's column and then along that column. -/
def columnFirst (s t : GridPos) : List GridPos :=
  s :: ((rangeTo s.2 t.2).map (fun x => (s.1, x)) ++ (rangeTo s.1 t.1).map (fun y => (y, t.2)))

/-- R277: row first, along the column to the destination's row and then along that row. -/
def rowFirst (s t : GridPos) : List GridPos :=
  s :: ((rangeTo s.1 t.1).map (fun y => (y, s.2)) ++ (rangeTo s.2 t.2).map (fun x => (t.1, x)))

/-- The row of a flow of a chain link between the north or south die and a chain die, or between the chain dies: `unit`
is the number of its 256-byte unit (Table 11.2). -/
def linkRow (base n unit : Nat) (down : Bool) : Nat :=
  if down then base - 2 * (n % 8) - unit % 2 else base + 2 * (n % 8) + unit % 2

/-- The ends of a route: a router of a tread or bank, or an edge die with the number of the chain link or 0. -/
inductive GridEnd where
  | router (p : GridPos)
  | die (e : EdgeDie) (link : Nat)
  deriving DecidableEq, Repr

/-- Where the edge die's traffic with a router enters or leaves the grid (Table 11.2). -/
def entryFor (e : EdgeDie) (p : GridPos) : GridPos :=
  match e with
  | .north => (0, p.2)
  | .south => (79, p.2)
  | .east => (p.1, 15)
  | .west => (p.1, 0)

/-- The column of a chain die's lanes. -/
def chainColumn (e : EdgeDie) : Nat := if e = .west then 0 else 15

/-- The grid positions between which a flow between two edge dies crosses (Table 11.2): `a` is the address of the line,
or of the 256-byte unit. -/
def dieToDie (e f : EdgeDie) (n a : Nat) : GridPos × GridPos :=
  let u := a / 256
  let x := bits a 8 4
  match e, f with
  | .north, .south => ((0, x), (79, x))
  | .south, .north => ((79, x), (0, x))
  | .north, g => let p := (linkRow 0 n u false, chainColumn g); ((0, p.2), p)
  | g, .north => let p := (linkRow 0 n u false, chainColumn g); (p, (0, p.2))
  | .south, g => let p := (linkRow 79 n u true, chainColumn g); ((79, p.2), p)
  | g, .south => let p := (linkRow 79 n u true, chainColumn g); (p, (79, p.2))
  | g, k => ((linkRow 20 n u false, chainColumn g), (linkRow 20 n u false, chainColumn k))

/-- The grid positions at which a flow enters and leaves (Table 11.2). -/
def gridEnds (s t : GridEnd) (a : Nat) : GridPos × GridPos :=
  match s, t with
  | .router p, .router q => (p, q)
  | .die e _, .router q => (entryFor e q, q)
  | .router p, .die e _ => (p, entryFor e p)
  | .die e n, .die f m => dieToDie e f (max n m) a

/-- The next hall column to the west or to the east of a position on the rim, if there is one (R277). -/
def shiftColumn (p : GridPos) (west : Bool) : Option GridPos :=
  if west then (if 4 ≤ p.2 then some (p.1, p.2 - 4) else none)
  else if p.2 + 4 < 16 then some (p.1, p.2 + 4) else none

/-- The same flow through an entry shifted by a hall column. -/
def shifted (s t : GridEnd) (p q : GridPos) (west : Bool) : Option (List GridPos) :=
  match s, t with
  | .die .., .router _ => (shiftColumn p west).map (fun z => columnFirst z q)
  | .router _, .die .. => (shiftColumn q west).map (fun z => columnFirst p z)
  | .die .., .die .. => (shiftColumn p west).bind (fun z => (shiftColumn q west).map (fun w => columnFirst z w))
  | .router _, .router _ => none

/-- The route of a flow, around the halls whose routers are out of service; none when no route qualifies (R276, R277). -/
def gridRoute (out : BitVec 16) (s t : GridEnd) (a : Nat) : Option (List GridPos) :=
  let (p, q) := gridEnds s t a
  let free (l : List GridPos) : Bool := l.all (fun z => !out.getLsbD (posHall z))
  if free (columnFirst p q) then some (columnFirst p q)
  else if free (rowFirst p q) then some (rowFirst p q)
  else
    match (shifted s t p q true).filter free with
    | some l => some l
    | none => (shifted s t p q false).filter free

/- Stair links (Table 11.1). -/

/-- The stair link between two halls that adjoin, with whether the way from `h` to `k` is direction A: eastward or
southward. -/
def stairBetween (h k : Nat) : Option (Nat × Bool) :=
  if h / 4 = k / 4 ∧ h + 1 = k then some (3 * (h / 4) + h % 4, true)
  else if h / 4 = k / 4 ∧ k + 1 = h then some (3 * (k / 4) + k % 4, false)
  else if h + 4 = k then some (12 + h, true)
  else if k + 4 = h then some (12 + k, false)
  else none

/-- The stair link between an edge die and the hall of a position (Table 11.1). -/
def stairOfDie (e : EdgeDie) (p : GridPos) : Nat :=
  match e with
  | .north => 24 + p.2 / 4
  | .south => 28 + p.2 / 4
  | .east => 32 + p.1 / 20
  | .west => 36 + p.1 / 20

/-- The stair links that a route crosses between halls. -/
def stairsOn : List GridPos → List (Nat × Bool)
  | p :: q :: t => (stairBetween (posHall p) (posHall q)).toList ++ stairsOn (q :: t)
  | _ => []

/-- The stair links of a whole flow: from the source's edge die, between halls, to the destination's edge die. Direction A
is from the edge die (Table 17.5). -/
def flowStairs (s t : GridEnd) (l : List GridPos) : List (Nat × Bool) :=
  (match s, l.head? with
   | .die e _, some p => [(stairOfDie e p, true)]
   | _, _ => []) ++ stairsOn l ++
  (match t, l.getLast? with
   | .die e _, some p => [(stairOfDie e p, false)]
   | _, _ => [])

/-- The register offset of STAIR_BYTES of a stair link in a direction (Table 17.5). -/
def stairOffset (k : Nat) (a : Bool) : Nat := 0x3000 + 32 * k + (if a then 0 else 8)

/-- Where a device address lies on the grid: a tread's router, a bank's router, the south die, or the north die. -/
def placeEnd (a : Nat) : GridEnd :=
  match placeOf a with
  | .scratch h t _ => .router (treadPos h t)
  | .shared h o => .router (bankPos h (sharedBank o))
  | .lpddr _ => .die .south 0
  | .fence _ | .nowhere => .die .north 0

/-- A flow between the north die and the place of a device address has a route; the fence scratch lies on the north die
itself. -/
def routable (d : Dev) (a : Nat) : Bool :=
  d.avail.routersOut == 0#16 ||
    (match placeEnd a with
     | .die .north _ => true
     | e => (gridRoute d.avail.routersOut (.die .north 0) e a).isSome)

/-- `n` bytes of a flow are counted on each stair link of its route, in its direction (R272, R282). -/
def countFlow (s t : GridEnd) (a n : Nat) (d : Dev) : Dev :=
  match gridRoute d.avail.routersOut s t a with
  | none => d
  | some l =>
    let tab := (flowStairs s t l).foldl (fun tab k =>
      tabSet (stairOffset k.1 k.2) (satAdd 64 (tabGet 0 (stairOffset k.1 k.2) tab) n) tab) d.tele.stairs
    { d with tele := { d.tele with stairs := tab } }

/-- Bytes that the host moves through BAR4, word by word: from the north die to the place, or back (R272). -/
def countHostFlow (read : Bool) (a n : Nat) (d : Dev) : Dev :=
  (List.range ((a + n + 7) / 8 - a / 8)).foldl
    (fun d k =>
      let lo := max a (8 * (a / 8 + k))
      let m := min (a + n) (8 * (a / 8 + k + 1)) - lo
      match placeEnd lo with
      | .die .north _ => d
      | e => if read then countFlow e (.die .north 0) lo m d else countFlow (.die .north 0) e lo m d) d

/- Accesses that wait (R25, R268, R447). -/

def hallWing (h : Nat) : Nat := 2 * (h / 4 / 2) + h % 4 / 2

/-- A device access waits: its unit is under test (R268) or its block is in reset (R447). -/
def blockHolds (m : Memory) (a : Nat) (b : Block) : Bool :=
  match b, placeOf a with
  | .wing w, .scratch h _ _ => hallWing h == w
  | .wing w, .shared h _ => hallWing h == w
  | .hall k, .scratch h _ _ => h == k
  | .hall k, .shared h _ => h == k
  | .gallery k g, .scratch h t _ => h == k && t / 32 == g
  | .island i, .scratch h t _ => i == treadIsland h t
  | .channel c, .lpddr a => channelOf m a == c
  | _, _ => false

/-- The island's clock stands: it is gated, its PLL relocks, or its rail allows it no frequency yet (R23, R25). -/
def islandStopped (d : Dev) (i : Nat) : Bool :=
  let x := islandOf d i
  x.gated || x.relock.isSome || x.mhz == 0

/-- An access waits: its block is in reset (R447), its unit under test (R268), or its bank's island stands (R25, R249). -/
def accessWaits (d : Dev) (a : Nat) : Bool :=
  d.fc.resets.any (blockHolds d.mem a) ||
    (match unitOf d.mem a with
     | some u => d.march.reqs.any (fun r => r.running.contains u)
     | none => false) || (islandOfAddr a).any (islandStopped d)

/-- R245, R277: the byte's unit is in service and a route to it qualifies. -/
def reachable (d : Dev) (a : Nat) : Bool := inService d a && routable d a

end Sys2Proof.Machine
end

