-- ==== Sys2Proof/Machine/Complete.lean ====
section
/-! DEFINITION. Completions, interrupts, op steps, the ends of ops and of entries, and the flush of a queue
(R297 to R306, R316 to R319, R323). -/

namespace Sys2Proof.Machine

/- The CONFIG word (Table 12.1). -/
def sqSize (x : Queue) : Nat := 2 ^ bits x.config 0 5
def cqSize (x : Queue) : Nat := 2 ^ bits x.config 8 5
def irqVector (x : Queue) : Nat := bits x.config 16 11
def irqMode (x : Queue) : Nat := bits x.config 28 2

def qNumber : QRef → Nat
  | .kernel k => k.val
  | .user q => q.val

def qIsKernel : QRef → Bool
  | .kernel _ => true
  | .user _ => false

/-- R285: a completion may be written. -/
def cqFree (x : Queue) : Bool := (x.cqTail + cqSize x - x.cqHead) % cqSize x < cqSize x - 1

/-- A completion entry (Table 12.9). -/
structure Compl where
  status : Nat
  flags : Nat
  entry : Nat
  tag : Nat
  progress : Nat
  start : Nat
  opIndex : Nat
  ctx : Nat
  seed : Nat
  detail : Nat
  waitKind : Nat
  deriving DecidableEq, Repr

/-- FLAGS of a completion: bits [3:0] of the four flags, bit [4] TERMINAL. -/
def complFlags (spilled longRed drawn notice terminal : Bool) : Nat :=
  ofBool spilled + 2 * ofBool longRed + 4 * ofBool drawn + 8 * ofBool notice + 16 * ofBool terminal

/-- The 64 bytes of a completion entry. -/
def complBytes (q : QRef) (phase : Bool) (now : Nat) (c : Compl) : Bytes :=
  leBytes 2 c.status ++ leBytes 2 (c.flags + 0x8000 * ofBool phase) ++
  leBytes 2 (qNumber q + 0x8000 * ofBool (qIsKernel q)) ++ leBytes 2 c.entry ++ leBytes 8 c.tag ++
  leBytes 8 c.progress ++ leBytes 6 c.start ++ leBytes 2 c.opIndex ++ leBytes 6 now ++ leBytes 2 c.ctx ++
  leBytes 8 c.seed ++ leBytes 8 c.detail ++ leBytes 8 c.waitKind

/-- The context that a queue's work belongs to. -/
def queueCtx (x : Queue) : Nat :=
  match x.cur with
  | some e => e.ctx
  | none => x.context

/-- An access of the curator to device memory waits: some byte's unit is under test, in reset or without clock. -/
def rangeWaits (d : Dev) (a n : Nat) : Bool := !isHost a && (List.range n).any (fun i => accessWaits d (a + i))

/-- Bytes that the curator stores at an R11 address: a byte that is unmapped or out of service stops the whole store before
any byte moves (R245). -/
def curatorStore (a : Nat) (bs : Bytes) (d : Dev) : Dev :=
  if isHost a || (List.range bs.length).all (fun i => mapped d.mem (a + i) && reachable d (a + i)) then store a bs d else d

/-- R298, R285, R239: the queue may take a completion now. A suppressed context's completions take no room. -/
def complRoom (d : Dev) (q : QRef) : Bool :=
  let x := queueOf d q
  let c := queueCtx x
  (cqFree x || hushed d c) && !(isHost x.cqBase && hostWaits d && !hushed d c) && !mirrorPending d c &&
    !rangeWaits d (x.cqBase + 64 * x.cqTail) 64

/-- R301: whether a completion signals the vector, given the completions counted since ENABLE. -/
def signals (mode count irqCount : Nat) (irq notice terminal : Bool) : Bool :=
  if mode == 1 then true
  else if mode == 2 then notice || (terminal && irq)
  else if mode == 3 then notice || count % irqCount == 0
  else false

/-- A completion is written to the slot at CQ_TAIL, CQ_TAIL advances, and the vector is signalled where R301 calls
for it (R298). The ring has room. -/
def postCompl (q : QRef) (irq : Bool) (c : Compl) (d : Dev) : Dev :=
  let x := queueOf d q
  let notice := bit c.flags 3
  let terminal := bit c.flags 4
  let tail := (x.cqTail + 1) % cqSize x
  let count := x.irqSeen + 1
  let sig := signals (irqMode x) count x.irqCount irq notice terminal
  let x' := { x with cqTail := tail
                     phase := if tail = 0 then !x.phase else x.phase
                     irqSeen := count
                     unsignalled := !sig }
  let bs := complBytes q x.phase (stamp d) c
  let x' := if hushed d (queueCtx x) then { x' with cqHead := tail } else x'
  let d := modMirrorCtx (queueCtx x) (fun m => { m with completions := m.completions ++ [bs] }) d
  let d := setQueue q x' (asCtx (queueCtx x) (curatorStore (x.cqBase + 64 * x.cqTail) bs) d)
  if sig then asCtx (queueCtx x) (signal (irqVector x)) d else d

/-- The progress counter of a context, 0 for none. -/
def progressOf (d : Dev) (c : Nat) : Nat :=
  match ctxOf d c with
  | some x => x.progress
  | none => 0

/-- `n` op steps of a queue's entry (R302): the queue's and the context's counters rise, and an open stall episode
closes (R303). -/
def opSteps (q : QRef) (n : Nat) (d : Dev) : Dev :=
  if n = 0 then d
  else
    let x := queueOf d q
    let d := setQueue q { x with steps := x.steps + n, stalled := false, quiet := 0 } d
    match x.cur with
    | some e => modCtx e.ctx (fun c => { c with progress := c.progress + n }) d
    | none => d

/-- COMPLETE of a record (Table 13.2). -/
def recComplete (r : Bytes) : Bool := bit (u8 r 1) 2

/-- The op has not ended. -/
def issueOpen (i : OpIssue) : Bool :=
  match i.wait with
  | .ended _ => false
  | _ => true

def entryQuiet (e : Entry) : Bool := e.issues.all (fun i => !issueOpen i)

/-- The issues with the latest open issue of op `idx` changed. -/
def changeIssue (idx : Nat) (f : OpIssue → OpIssue) (l : List OpIssue) : List OpIssue :=
  l.map (fun i => if i.idx == idx && issueOpen i then f i else i)

def openIssue (e : Entry) (idx : Nat) : Option OpIssue := e.issues.find? (fun i => i.idx == idx && issueOpen i)

def setEntry (q : QRef) (e : Option Entry) (d : Dev) : Dev :=
  let x := queueOf d q
  setQueue q { x with cur := e } d

def modIssue (q : QRef) (idx : Nat) (f : OpIssue → OpIssue) (d : Dev) : Dev :=
  match (queueOf d q).cur with
  | some e => setEntry q (some { e with issues := changeIssue idx f e.issues }) d
  | none => d

/-- An op in progress has its final status; its end follows (OP_END). -/
def opOutcome (q : QRef) (idx : Nat) (o : OpOut) (d : Dev) : Dev :=
  modIssue q idx (fun i => { i with wait := .out o }) d

/-- The op completion of an op record with COMPLETE (R319). -/
def opCompl (d : Dev) (e : Entry) (idx : Nat) (o : OpOut) : Compl :=
  { status := o.status, flags := complFlags o.spilled o.longRed o.seedDrawn false false, entry := e.index,
    tag := e.tag, progress := progressOf d e.ctx, start := e.start, opIndex := idx, ctx := e.ctx, seed := o.seed,
    detail := o.detail, waitKind := 0 }

/-- The detail word that is reported: where the manual gives none, a free value (log 17). -/
def reported (detail : Nat) (d : Dev) : Nat × Dev :=
  if detail = anyDetail then (low 64 (Config.openDetail d.free), { d with free := d.free + 1 }) else (detail, d)

/-- The op completion of an op with its final status is written where its record asks for one, and later ops may issue
(R316, R318, R319). Without completion space it waits in CQ_WAIT (R298). -/
def finishOp (q : QRef) (idx : Nat) (o : OpOut) (r : Bytes) (e : Entry) (d : Dev) : Dev :=
  let z := reported o.detail d
  let o := { o with detail := z.1 }
  let d := z.2
  let fin (d : Dev) : Dev :=
    modIssue q idx (fun i => { i with wait := .ended o })
      (match (queueOf d q).cur with
       | some e => setEntry q (some { e with failed := e.failed || !stGood o.status }) d
       | none => d)
  if recComplete r then
    if complRoom d q then fin (postCompl q e.irq (opCompl d e idx o) d)
    else setQueue q { queueOf d q with cqWait := true } d
  else fin d

/-- The op's mirror checkpoint holds the states: it is of the anneal class (Table 9.8). -/
def pointStates (r : Bytes) : Bool := decide (0x40 ≤ u8 r 0) && decide (u8 r 0 < 0x60)

/-- An op with its final status ends. Of an attached context, it first takes its mirror checkpoint: the primary sends it
and waits for the link, the secondary stands at it (R238, R239). -/
def endOp (q : QRef) (idx : Nat) (d : Dev) : Dev :=
  match (queueOf d q).cur with
  | none => d
  | some e =>
    if yieldedCtx d e.ctx then d
    else
    match openIssue e idx with
    | some { wait := .out o, record := r, .. } =>
      let point (d : Dev) : Dev := modIssue q idx (fun i => { i with wait := .ack o }) d
      if forwards d e.ctx then point (sendPoint e.ctx false (pointStates r) 0 d)
      else if hushed d e.ctx && isSecondary d then
        if markOf d e.ctx = 0 then point (reachPoint e.ctx d) else d
      else finishOp q idx o r e d
    | some { wait := .ack o, record := r, .. } =>
      if mirrorPending d e.ctx then d
      else if isSecondary d && (mirrorCtx d e.ctx).isSome then
        if markOf d e.ctx = 2 && mirrorGoes d e.ctx then finishOp q idx o r e (leavePoint e.ctx d) else d
      else finishOp q idx o r e d
    | _ => d

/- Terminal completions (R299). -/

/-- What an issue reports. -/
def issueOut (i : OpIssue) : OpOut :=
  match i.wait with
  | .ended o => o
  | .out o => o
  | .ack o => o
  | _ => {}

/-- The latest issue of each op index, in op index order (R323). -/
def latestIssues (e : Entry) : List OpIssue :=
  (List.range e.opCount).filterMap (fun k => e.issues.reverse.find? (fun i => i.idx == k))

/-- The op that reports for the entry (R299; for a stopped entry, R305). -/
def reporter (e : Entry) : Option OpIssue :=
  let l := latestIssues e
  match e.stop with
  | some st => l.find? (fun i => (issueOut i).status == st)
  | none =>
    match l.find? (fun i => !stGood (issueOut i).status) with
    | some i => some i
    | none =>
      match l.find? (fun i => (issueOut i).status == stPartial) with
      | some i => some i
      | none => l.getLast?

/-- The terminal completion of an entry no op of which is in progress. -/
def terminalCompl (d : Dev) (e : Entry) : Compl :=
  let fl := complFlags (e.issues.any (fun i => (issueOut i).spilled)) (e.issues.any (fun i => (issueOut i).longRed))
    (e.issues.any (fun i => (issueOut i).seedDrawn)) false true
  let base : Compl :=
    { status := stOk, flags := fl, entry := e.index, tag := e.tag, progress := progressOf d e.ctx, start := e.start,
      opIndex := 0xFFFF, ctx := e.ctx, seed := 0, detail := 0, waitKind := 0 }
  match e.stop, e.early with
  | none, some (st, detail, idx) => { base with status := st, detail := detail, opIndex := idx }
  | stop, _ =>
    match reporter e with
    | some i =>
      let o := issueOut i
      { base with status := stop.getD o.status, detail := o.detail, seed := o.seed, opIndex := i.idx }
    | none => { base with status := stop.getD stOk }

/-- The entry has nothing more to issue: its ops are done, an op failed, its checks failed, or it is stopped. -/
def entryDone (e : Entry) : Bool := e.early.isSome || e.stop.isSome || e.failed || decide (e.opCount ≤ e.next)

/-- A queue with no current entry that holds none to fetch goes IDLE (R294); under IRQ_MODE 3 unsignalled completions
are signalled (R301). A doorbell that came meanwhile is seen by the second read of the tail. -/
def settleQueue (q : QRef) (d : Dev) : Dev :=
  let x := queueOf d q
  match x.state, x.cur, x.flush with
  | .active, none, none =>
    if x.sqTail = x.sqHead then
      let d := setQueue q { x with state := .idle, wake := false, unsignalled := if irqMode x == 3 then false else x.unsignalled } d
      if irqMode x == 3 && x.unsignalled then signal (irqVector x) d else d
    else d
  | _, _, _ => d

/-- The terminal completion is written and the queue is free for its next entry. Without completion space the queue
waits in CQ_WAIT (R298). -/
def finishEntry (q : QRef) (d : Dev) : Dev :=
  match (queueOf d q).cur with
  | none => d
  | some e =>
    if entryDone e && entryQuiet e && !yieldedCtx d e.ctx then
      if complRoom d q then
        let d := postCompl q e.irq (terminalCompl d e) d
        let x := queueOf d q
        settleQueue q (setQueue q { x with cur := none, cqWait := false } d)
      else setQueue q { queueOf d q with cqWait := true } d
    else d

/-- An entry flushed without running (R305, step 4). -/
def flushCompl (d : Dev) (x : Queue) (status : Nat) : Compl :=
  let sub := fetch d (x.sqBase + 64 * x.sqHead) 64
  { status := status, flags := complFlags false false false false true, entry := x.sqHead, tag := u64 sub 8,
    progress := progressOf d (u16 sub 2), start := stamp d, opIndex := 0xFFFF, ctx := u16 sub 2, seed := 0,
    detail := 0, waitKind := 0 }

/-- Ops of QUEUE_CTL that wait for this queue, or for the queues of its context, get their outcome (R292). -/
def notifyQueue (q : QRef) (d : Dev) : Dev :=
  let gone (c : Nat) : Bool :=
    (allQueues d).all (fun r => !((queueOf d r).bound && (queueOf d r).context == c) || (queueOf d r).state == .disabled)
  let met (w : OpWait) : Bool :=
    match w with
    | .queue r _ => r == q
    | .ctxQueues c => gone c
    | _ => false
  (allQueues d).foldl
    (fun d r =>
      let x := queueOf d r
      match x.cur with
      | some e =>
        let ws := e.issues.map (fun i => if met i.wait then { i with wait := .out {} } else i)
        opSteps r (e.issues.filter (fun i => met i.wait)).length
          (setQueue r { x with cur := some { e with issues := ws } } d)
      | none => d) d

/-- The flush of a disabled or aborted queue: each entry below the flush limit completes unrun, then the queue is
DISABLED, or goes on after an abort (R305, R306). `n` bounds the entries left. -/
def flushQueue (q : QRef) : Nat → Dev → Dev
  | 0, d => d
  | n + 1, d =>
    let x := queueOf d q
    match x.cur, x.flush with
    | none, some (limit, status, disable) =>
      if x.sqHead = limit then
        let x' := { x with flush := none, cqWait := false
                           state := if disable then .disabled else .active
                           stalled := if disable then false else x.stalled }
        notifyQueue q (settleQueue q (setQueue q x' d))
      else if isHost x.sqBase && hostWaits d then d
      else if complRoom d q then
        let sub := fetch d (x.sqBase + 64 * x.sqHead) 64
        let d := postCompl q (bit (u8 sub 1) 0) (flushCompl d x status) d
        let x := queueOf d q
        flushQueue q n (setQueue q { x with sqHead := (x.sqHead + 1) % sqSize x } d)
      else setQueue q { x with cqWait := true } d
    | _, _ => d

/-- What a queue can do at once: a stopped entry completes and the flush goes on. -/
def pumpQueue (q : QRef) (d : Dev) : Dev :=
  let x := queueOf d q
  let d :=
    match x.cur, x.flush with
    | some _, some _ => finishEntry q d
    | _, _ => d
  flushQueue q (sqSize x + 1) d

/-- Completion space has appeared: completions that waited are written (R293, R298). -/
def resumeQueue (q : QRef) (d : Dev) : Dev :=
  let x := queueOf d q
  if x.cqWait then
    let d := setQueue q { x with cqWait := false } d
    let idxs := match x.cur with
      | some e => e.issues.filterMap (fun (i : OpIssue) => match i.wait with | .out _ => some i.idx | .ack _ => some i.idx | _ => none)
      | none => []
    let d := idxs.foldl (fun d i => endOp q i d) d
    pumpQueue q (finishEntry q d)
  else d

end Sys2Proof.Machine
end

