-- ==== Sys2Proof/Machine/Terminate.lean ====
section
/-! DEFINITION. Stopping ops and entries, disabling and aborting queues, and ending contexts (R305 to R308). -/

namespace Sys2Proof.Machine

/-- Whether an op waits on something a stop can end at once; a run, a flight and tiles stop at their op steps. -/
def stopsAtOnce (w : OpWait) : Bool :=
  match w with
  | .run | .flight _ | .tiles | .out _ | .ack _ | .ended _ => false
  | _ => true

/-- An entropy request of a stopped op is withdrawn (R388). -/
def dropRequests (q : QRef) (idx : Nat) (d : Dev) : Dev :=
  { d with ent := { d.ent with waiting := d.ent.waiting.filter (fun u =>
      match u with
      | .op r i _ => !(r == q && i == idx)
      | .mail .. => true) } }

/-- The update or snapshot of a stopped op is withdrawn (R68, R117, R305). -/
def dropWaiting (q : QRef) (idx : Nat) (d : Dev) : Dev :=
  { d with ctxs := d.ctxs.map (fun p =>
      (p.1, { p.2 with updates := p.2.updates.filter (fun u => u.op != some (q, idx))
                       snapshots := p.2.snapshots.filter (fun s => !(s.q == q && s.idx == idx)) })) }

/-- A run is told to stop at the end of the sweep in progress (R107). -/
def stopRun (c : Nat) (e : RunEnd) (d : Dev) : Dev :=
  modCtx c (fun x => { x with run := x.run.map (fun g => if g.stop.isNone then { g with stop := some e } else g) }) d

def tileUserIs (t : Tile) (p : TileUser → Bool) : Bool :=
  match t.user with
  | some u => p u
  | none => false

/-- The tiles of stopped users: a drain in progress finishes, LANDED and SWAP_PENDING tiles are discarded, OPEN tiles
keep their contents (R167). -/
def stopTiles (p : TileUser → Bool) (l : List Tile) : List Tile :=
  (l.filter (fun t => !(tileUserIs t p && (t.state == .landed || t.state == .swapPending)))).map (fun t =>
    if tileUserIs t p && t.state == .opened then { t with user := none, endReq := none } else t)

/-- A tensor op is told to stop. -/
def stopTensor (c : Nat) (u : TileUser) (status : Nat) (d : Dev) : Dev :=
  modCtx c (fun x =>
    { x with tiles := stopTiles (· == u) x.tiles
             tileOps := x.tileOps.map (fun o => if o.user = u then { o with stop := some status } else o) }) d

def bodyOf (f : Nat) (u : TileUser) : Bool :=
  match u with
  | .body g _ _ => g == f
  | .op .. => false

/-- A flight run is told to stop: its body ops stop, no later one issues, and its anneal stops (R189, R190). -/
def stopFlight (c f : Nat) (status detail : Nat) (d : Dev) : Dev :=
  modCtx c (fun x =>
    { x with
      flights := x.flights.map (fun y =>
        if y.1 = f then
          (y.1, { y.2 with run := y.2.run.map (fun r => if r.stop.isNone then { r with stop := some (status, detail) } else r)
                           steps := y.2.steps.map (fun s => { s with firing := none }) })
        else y)
      run := x.run.map (fun g => if g.flight = some f && g.stop.isNone then { g with stop := some (.status status detail) } else g)
      tiles := (stopTiles (bodyOf f) x.tiles).map (fun t => if tileUserIs t (bodyOf f) then { t with user := none } else t)
      tileOps := x.tileOps.filter (fun o => !bodyOf f o.user) }) d

/-- An op whose detail word holds the counts of Table 5.13, none of them made before its operands have come. -/
def opClassTensor (r : Bytes) : Bool := decide (0x60 ≤ u8 r 0) && decide (u8 r 0 < 0x80)

/-- The report of a LOAD_PROBLEM that is stopped while it waits (R60): its header has been read, and the outcome leaves
every other field undetermined. -/
def stoppedReport (i : OpIssue) (d : Dev) : Dev :=
  if u8 i.record 0 = 0x40 then
    match gotRead i.got (u64 i.record 8) 128 with
    | some h =>
      if u64 h 0x58 = 0 || !addrForm (u64 h 0x58) then d
      else curatorStore (u64 h 0x58) (leBytes 4 (u32 h 4) ++ List.replicate 46 0 ++ leBytes 2 0xFFFF ++ List.replicate 12 0) d
    | none => d
  else d

/-- What a stopped op that has done nothing ends with: a tensor op's detail word counts no tiles (R167). -/
def stopOut (status : Nat) (r : Bytes) : OpOut :=
  if opClassTensor r then { status := status, detail := 0 } else { status := status }

/-- One op in progress is told to stop with a status (R305, step 2). A run, a flight or tiles stop as R107, R190 and R167
state, and the op's end follows. -/
def stopOp (q : QRef) (c : Nat) (status : Nat) (i : OpIssue) (d : Dev) : Dev :=
  if stopsAtOnce i.wait then
    endOp q i.idx (opOutcome q i.idx (stopOut status i.record)
      (stoppedReport i (dropWaiting q i.idx (dropRequests q i.idx d))))
  else
    match i.wait with
    | .out _ | .ack _ => endOp q i.idx d
    | .run => stopRun c (.status status anyDetail) d
    | .flight f => stopFlight c f status 0 d
    | .tiles => stopTensor c (.op q i.idx) status d
    | _ => d

/-- An entry that has passed the check of R295 and has issued nothing: its first op is in progress (R309). -/
def firstWaits (e : Entry) : Bool :=
  e.early.isNone && e.stop.isNone && e.issues.isEmpty && e.next == 0 && e.opCount != 0

/-- The record of an entry's first op. -/
def firstRecord (d : Dev) (e : Entry) : Bytes :=
  match e.kind with
  | .buffer a _ => fetch d (a + 64) 32
  | .inline r => r
  | .nop => []

/-- R309: the first op of an entry past the check of R295 stops at its first op step, with nothing done (log 64). -/
def pastCheck (d : Dev) (status : Nat) (e : Entry) : Entry :=
  if firstWaits e then
    { e with issues := [{ idx := 0, record := firstRecord d e, wait := .out (stopOut status (firstRecord d e)) }], next := 1 }
  else e

/-- The op step at which that op stops. -/
def firstSteps (e : Option Entry) : Nat := if e.any firstWaits then 1 else 0

/-- CONFIG of a queue that is disabled: ENABLE reads 0 (Table 12.1). -/
def disabledConfig (x : Queue) : Nat := x.config - bits x.config 31 1 * 2 ^ 31

/-- A queue is disabled, or its work aborted (R305, R306, R309). A disable during an abort takes the SQ_TAIL of that
moment as its flush limit. -/
def stopQueue (q : QRef) (status : Nat) (disable : Bool) (d : Dev) : Dev :=
  let x := queueOf d q
  match x.state with
  | .disabled => d
  | .disabling =>
    match x.flush with
    | some (_, _, false) =>
      if disable then
        pumpQueue q (setQueue q { x with flush := some (x.sqTail, status, true), config := disabledConfig x } d)
      else d
    | _ => d
  | _ =>
    let x := { x with cur := x.cur.map (pastCheck d status) }
    let x' := { x with state := .disabling, flush := some (x.sqTail, status, disable), wake := false
                       config := if disable then disabledConfig x else x.config
                       cur := x.cur.map (fun e => { e with stop := some status }) }
    let d := opSteps q (firstSteps (queueOf d q).cur) (setQueue q x' d)
    let ops := match x.cur with
      | some e => e.issues.filter issueOpen
      | none => []
    pumpQueue q (ops.foldl (fun d i => stopOp q (queueCtx x) status i d) d)

/- Update reports (R65). -/

/-- The epoch field of an update that applied outside a run, or not at all. -/
def noEpoch : Nat := 0xFFFFFFFFFFFF

/-- The 32 bytes of an update report; `flags` are bits [179:176]: LATE, DISCARDED, DEFERRED, ENTRY_ERROR. -/
def updateReport (applied missing saturated refused epoch : Nat) (late discarded deferred entryError : Bool) : Bytes :=
  leBytes 4 applied ++ leBytes 4 missing ++ leBytes 4 saturated ++ leBytes 4 refused ++ leBytes 6 epoch ++
  leBytes 10 (ofBool late + 2 * ofBool discarded + 4 * ofBool deferred + 8 * ofBool entryError)

/-- The report address in an update header (Table 2.10). -/
def reportAddr (u : Update) : Nat := u64 u.header 0x20

/-- A report written outside an op: not where its unit is out of service or its address is unmapped (R62). -/
def writeReport (a : Nat) (bs : Bytes) (d : Dev) : Dev :=
  if a = 0 then d
  else if isHost a || (mapped d.mem a && mapped d.mem (a + bs.length - 1) && inService d a) then store a bs d
  else d

/-- Every registered update of a context is discarded, its report saying so (R62). -/
def discardUpdates (c : Nat) (d : Dev) : Dev :=
  match ctxOf d c with
  | none => d
  | some x =>
    (x.updates.filter (fun u => u.op.isNone)).foldl
      (fun d u => writeReport (reportAddr u) (updateReport 0 0 0 0 noEpoch false true true false) d)
      (setCtx c { x with updates := x.updates.filter (fun u => u.op.isSome) } d)

/-- The queues bound to a context. -/
def boundQueues (d : Dev) (c : Nat) : List QRef :=
  (allQueues d).filter (fun q => (queueOf d q).bound && (queueOf d q).context == c)

/-- Every queue of a context is disabled. -/
def stopCtxQueues (c : Nat) (status : Nat) (d : Dev) : Dev :=
  (boundQueues d c).foldl (fun d q => stopQueue q status true d) d

end Sys2Proof.Machine
end

