-- ==== Sys2Proof/Machine/Parts.lean ====
section
/-! DEFINITION. The end record and the end notices of a partitioned run (R218, R219). -/

namespace Sys2Proof.Machine

def endKindCode (k : EndKind) : Nat :=
  match k with
  | .schedule => 0
  | .target => 1
  | .stopFence => 2
  | .abort => 3
  | .fault => 4
  | .linkLost => 5
  | .helloFailure => 6

def totalSweeps (es : List SchedEntry) : Nat := es.foldl (fun n e => n + e.sweeps) 0

def sweepLimit : Nat := 2 ^ 48 - 1

/-- The schedule has no sweep left. -/
def scheduleOver (g : Run) : Bool :=
  if g.desc.stand then decide (sweepLimit ≤ g.sweep) else decide (totalSweeps g.entries ≤ g.sweep)

/-- Epochs whose sweeps all ran: the schedule's last epoch may be shorter (R98), and is whole once the schedule's sweeps
have run. -/
def epochsRun (g : Run) : Nat :=
  if scheduleOver g then ceilDiv g.sweep g.desc.epochSweeps else g.sweep / g.desc.epochSweeps

/-- The 32 bytes of the end record (R219). -/
def endRecord (kind : EndKind) (origin epochs : Nat) (lastCheck : Option Nat) : Bytes :=
  padTo 32 (leBytes 2 (endKindCode kind) ++ leBytes 6 (low 11 origin) ++
    leBytes 8 (if epochs = 0 then noEpoch else low 48 (epochs - 1)) ++ leBytes 8 (lastCheck.getD noEpoch))

/-- The kind of a run's end by the status it ends with (R218). -/
def endKindOf (e : RunEnd) (reason : Nat) : EndKind :=
  match e with
  | .schedule => .schedule
  | .target => .target
  | .stopFence => .stopFence
  | .status code _ =>
    if code = stAborted ∨ code = stAbortedDisabled then .abort
    else if code = stLinkLost then .linkLost
    else if code = stBadFormat ∧ reason = 0x56 then .helloFailure
    else .fault

/-- The part's end record, when its map asks for one. -/
def writeEnd (b : Boundary) (g : Run) (kind : EndKind) (d : Dev) : Dev :=
  let (origin, kind) := match b.run.notice with
    | some n => n
    | none => (b.part, kind)
  writeReport b.endAddr (endRecord kind origin (epochsRun g) b.run.lastCheck) d

/-- An end notice leaves for every entry of the peer table. -/
def sendNotices (b : Boundary) (origin : Nat) (kind : EndKind) (d : Dev) : Dev :=
  b.peers.foldl (fun d p => sendTo p.chain (.endNotice origin kind) d) d

/-- A termination ends a partitioned run: its end record and its notices (R218, R219). -/
def partGone (c : Nat) (status : Nat) (d : Dev) : Dev :=
  match ctxOf d c with
  | some { boundary := some b, run := some g, .. } =>
    let kind := endKindOf (.status status 0) 0
    let d := asCtx c (writeEnd b g kind) d
    if b.run.notice.isNone then sendNotices b b.part kind d else d
  | _ => d

/-- The decision channel of a context's run is free again. -/
def freeDecision (c : Nat) (d : Dev) : Dev :=
  match (ctxOf d c).bind (fun x => x.run.bind (fun g => g.decision)) with
  | some k => { d with channels := d.channels.erase k.channel }
  | none => d

end Sys2Proof.Machine
end

