-- ==== Sys2Proof/Machine/Sources.lean ====
section
/-! DEFINITION. The fault sources of Table 16.1: kind, default severity and reactions, and the block each resets. -/

namespace Sys2Proof.Machine

/-- A source's kind and its configuration word at reset: severity [2:0], I [3], T [4], B [5], C [6], A [7], K [8]. -/
structure SourceInfo where
  condition : Bool
  config : Nat
  deriving DecidableEq, Repr

/-- Severity with reaction I. -/
def cfgI (sev : Nat) : Nat := sev + 8
/-- Severity with reactions I, T, K. -/
def cfgITK (sev : Nat) : Nat := sev + 8 + 16 + 256
/-- Severity with reactions I, A. -/
def cfgIA (sev : Nat) : Nat := sev + 8 + 128

/-- The ten sources of a hall (Table 16.1, 64 + 16h to 73 + 16h). -/
def hallSource (k : Nat) : Option SourceInfo :=
  match k with
  | 0 => some ⟨false, cfgITK 6⟩
  | 1 => some ⟨false, cfgI 1⟩
  | 2 | 3 | 4 | 5 | 6 => some ⟨false, cfgITK 6⟩
  | 7 => some ⟨false, cfgI 3⟩
  | 8 => some ⟨true, cfgITK 5⟩
  | 9 => some ⟨false, cfgI 4⟩
  | _ => none

/-- Table 16.1. Sources not listed are reserved (R395). -/
def sourceInfo (s : Nat) : Option SourceInfo :=
  if s = 0 then some ⟨false, cfgIA 7⟩
  else if s = 1 then some ⟨false, cfgITK 6⟩
  else if s = 2 then some ⟨false, cfgI 1⟩
  else if s = 3 then some ⟨false, cfgITK 5⟩
  else if s = 4 then some ⟨false, cfgITK 6⟩
  else if s = 5 then some ⟨true, cfgITK 5⟩
  else if s = 6 then some ⟨false, cfgITK 6⟩
  else if s = 7 then some ⟨false, cfgI 3⟩
  else if s = 8 then some ⟨false, cfgITK 6⟩
  else if s = 16 then some ⟨false, cfgITK 6⟩
  else if s = 17 then some ⟨false, cfgI 1⟩
  else if s = 18 then some ⟨true, cfgITK 6⟩
  else if s = 19 then some ⟨false, cfgITK 6⟩
  else if (32 ≤ s ∧ s < 40) ∨ (48 ≤ s ∧ s < 56) then some ⟨true, cfgITK 4⟩
  else if s = 40 ∨ s = 56 then some ⟨false, cfgITK 6⟩
  else if s = 41 ∨ s = 57 then some ⟨false, cfgITK 5⟩
  else if s = 42 ∨ s = 58 then some ⟨false, cfgITK 6⟩
  else if 64 ≤ s ∧ s < 320 then hallSource ((s - 64) % 16)
  else if 320 ≤ s ∧ s < 325 then some ⟨true, cfgIA 7⟩
  else if s = 325 then some ⟨true, cfgITK 5⟩
  else if s = 326 then some ⟨true, cfgIA 7 + 64⟩
  else if s = 327 then some ⟨true, cfgIA 7⟩
  else if s = 336 then some ⟨false, cfgITK 6⟩
  else if s = 337 then some ⟨false, cfgITK 6⟩
  else if s = 338 then some ⟨false, cfgI 1⟩
  else if s = 339 then some ⟨false, cfgI 3⟩
  else if s = 340 then some ⟨false, cfgIA 7⟩
  else if s = 341 then some ⟨false, 7⟩
  else none

/-- The bits of a configuration word that are not reserved (Table 16.3). -/
def cfgMask (v : Nat) : Nat := bits v 0 9 + bits v 16 11 * 2 ^ 16

/-- The configuration word in force for a source. -/
def sourceConfig (f : Collector) (s : Nat) : Nat :=
  match tabGet? s f.config with
  | some v => v
  | none =>
    match sourceInfo s with
    | some i => i.config
    | none => 0

def cfgSeverity (v : Nat) : Nat := bits v 0 3
def cfgIrq (v : Nat) : Bool := bit v 3
def cfgTrap (v : Nat) : Bool := bit v 4
def cfgBlock (v : Nat) : Bool := bit v 5
def cfgChip (v : Nat) : Bool := bit v 6
def cfgAlive (v : Nat) : Bool := bit v 7
def cfgAutoAck (v : Nat) : Bool := bit v 8
def cfgVector (v : Nat) : Nat := bits v 16 11

/-- The chain link of a LINK_LOST source. -/
def linkOfSource (s : Nat) : Option Nat :=
  if 32 ≤ s ∧ s < 40 then some (s - 32) else if 48 ≤ s ∧ s < 56 then some (s - 48 + 8) else none

/-- The LINK_LOST source of a chain link. -/
def linkSource (n : Nat) : Nat := if n < 8 then 32 + n else 48 + (n - 8)

/-- The block that reaction B resets, from the source and the detail word (Table 16.1). -/
def sourceBlock (s detail : Nat) : Option Block :=
  if s = 16 ∨ s = 18 then some (.channel (bits detail 0 5))
  else
    match linkOfSource s with
    | some n => some (.link n)
    | none =>
      if 64 ≤ s ∧ s < 320 then
        let h := (s - 64) / 16
        match (s - 64) % 16 with
        | 2 | 3 | 4 => some (.gallery h (detail % 640 / 32))
        | 5 | 6 => some (.hall h)
        | 8 => some (.island detail)
        | _ => none
      else none

/-- The die a source sits on (SOURCE_DIE of Table 16.5). -/
def sourceDie (s : Nat) : Nat :=
  if s < 16 then dieNorth
  else if s < 32 then dieSouth
  else if s < 48 then dieE
  else if s < 64 then dieW
  else if s < 320 then (s - 64) / 16
  else diePackage

end Sys2Proof.Machine
end

