-- ==== Sys2Proof/Machine/Faults.lean ====
section
/-! DEFINITION. What ends a context, block resets, the chip reset, and the assertion of fault sources with their
reactions (R307, R308, R396 to R406, R446 to R448, R470). -/

namespace Sys2Proof.Machine

/- Geometry (Table 0.6). -/

def hallsOfWing (w : Nat) : List Nat := (List.range 16).filter (fun h => hallWing h == w)

/- The ends of contexts. -/

/-- Whether an op's wait is for something its context holds. -/
def waitsOnCtx (w : OpWait) : Bool :=
  match w with
  | .run | .flight _ | .tiles | .snapshot | .update => true
  | _ => false

/-- Every op that waits for something the context held ends with a status. -/
def endCtxOps (c : Nat) (status : Nat) (d : Dev) : Dev :=
  (allQueues d).foldl
    (fun d q =>
      match (queueOf d q).cur with
      | some e =>
        if e.ctx = c then
          (e.issues.filter (fun i => waitsOnCtx i.wait)).foldl
            (fun d i => endOp q i.idx (opOutcome q i.idx { status := status } d)) d
        else d
      | none => d) d

/-- What a terminated context keeps (R308). -/
def strippedCtx (x : Ctx) : Ctx :=
  { place := x.place, saveBase := x.saveBase, saveBytes := x.saveBytes, disabled := x.disabled, terminated := true,
    progress := x.progress, schedules := x.schedules, boundary := x.boundary.map (fun b => { b with run := {} }) }

/-- A context is terminated (R307, R308). -/
def terminateCtx (c : Nat) (status : Nat) (d : Dev) : Dev :=
  stopCtxQueues c status (modCtx c strippedCtx (discardUpdates c (freeDecision c (endCtxOps c status (partGone c status d)))))

/- Blocks (R446). -/

/-- The placement record of a hall in a context. -/
def placeOfHall (x : Ctx) (h : Nat) : Option HallPlace := x.place.find? (fun p => p.hall == h)

def usesHall (x : Ctx) (h : Nat) : Bool :=
  match placeOfHall x h with
  | some p => p.mask != 0#20 || p.sharedCount != 0
  | none => false

def usesGallery (x : Ctx) (h g : Nat) : Bool :=
  match placeOfHall x h with
  | some p => p.mask.getLsbD g
  | none => false

/-- A range of LPDDR5X holds a line of a channel. -/
def rangeOnChannel (m : Memory) (base bytes c : Nat) : Bool :=
  if bytes = 0 then false
  else
    let first := base / 256
    let count := (base + bytes - 1) / 256 + 1 - first
    (List.range (min count m.mapping.length)).any (fun i => m.mapping.getD ((first + i) % m.mapping.length) 0 == c)

/-- The context is on the block (R446). -/
def ctxOnBlock (d : Dev) (x : Ctx) (b : Block) : Bool :=
  match b with
  | .wing w => (hallsOfWing w).any (usesHall x)
  | .hall h => usesHall x h
  | .gallery h g => usesGallery x h g
  | .island i => usesGallery x (i / 40) (i % 40 / 2)
  | .link _ => false
  | .channel c =>
    let on (r : Nat × Nat) : Bool := rangeOnChannel d.mem r.1 r.2 c
    let spill := (x.problem.bind (fun p => p.spillArea)).toList
    let work := (x.boundary.map (fun b => (b.workAddr, b.workBytes))).toList
    let homes := x.flights.flatMap (fun f =>
      (f.2.streams.filter (fun s => s.home == 2)).map (fun s => (s.offset, s.depth * s.slotBytes)))
    ((x.saveBase, x.saveBytes) :: (spill ++ work ++ homes)).any on

def ctxsOnBlock (d : Dev) (b : Block) : List Nat :=
  (d.ctxs.filter (fun p => !p.2.terminated && ctxOnBlock d p.2 b)).map (fun p => p.1)

/-- Table 18.4: level and number of a block. -/
def blockLevel (b : Block) : Nat × Nat :=
  match b with
  | .wing w => (2, w)
  | .hall h => (3, h)
  | .gallery h g => (4, 20 * h + g)
  | .island i => (5, i)
  | .link n => (6, n)
  | .channel c => (7, c)

/-- One block contains the other (R448). -/
def blockWithin (a b : Block) : Bool :=
  match a, b with
  | .hall h, .wing w => hallWing h == w
  | .gallery h _, .wing w => hallWing h == w
  | .island i, .wing w => hallWing (i / 40) == w
  | .gallery h _, .hall k => h == k
  | .island i, .hall k => i / 40 == k
  | .island i, .gallery h g => i / 40 == h && i % 40 / 2 == g
  | a, b => a == b

/-- The islands of a block. -/
def blockIslands (b : Block) : List Nat :=
  match b with
  | .wing w => (hallsOfWing w).flatMap (fun h => (List.range 40).map (fun k => 40 * h + k))
  | .hall h => (List.range 40).map (fun k => 40 * h + k)
  | .gallery h g => [40 * h + 2 * g, 40 * h + 2 * g + 1]
  | .island i => [i]
  | _ => []

/-- What the reset of a block does to memory: contents become undefined (Table 18.3). -/
def blockMemory (b : Block) (d : Dev) : Dev :=
  match b with
  | .wing w => (hallsOfWing w).foldl (fun d h => freshMark (.hall (Fin.ofNat 16 h)) d) d
  | .hall h => freshMark (.hall (Fin.ofNat 16 h)) d
  | .gallery h g => freshMark (.gallery (Fin.ofNat 16 h) (Fin.ofNat 20 g)) d
  | .channel c => freshMark (.unit (.channel (Fin.ofNat 32 c))) d
  | _ => d

/-- A link's reset: its retry buffer and its queued messages go, and it negotiates again (Table 18.3). -/
def chainLinkReset (n : Nat) (d : Dev) : Dev :=
  let d := dropTraffic n d
  let l := linkOf d n
  if l.state = .up then
    setLink n (negotiate { l with failures := 0 }) d
  else d

/-- The block's own units: a wing's rail restarts from 0.65 V, an island's PLL relocks, a link negotiates. -/
def blockUnits (b : Block) (d : Dev) : Dev :=
  match b with
  | .wing w =>
    { d with power := { d.power with
        setpoint := setAt w 650 d.power.setpoint
        rail := setAt w 650 d.power.rail
        islands := d.power.islands.map (fun p =>
          if hallWing (p.1 / 40) = w then
            (p.1, { p.2 with mhz := 0, gated := true, cls := 0, relock := none, waits := none })
          else p) } }
  | .island i =>
    let x := islandOf d i
    if x.mhz = 0 then d else setIsland i { x with relock := some x.mhz } d
  | .link n => chainLinkReset n d
  | _ => d

/-- A block reset (R446 to R448). A hall that stage 10 has not brought up is not reset. -/
def blockReset (b : Block) (status : Nat) (d : Dev) : Dev :=
  let early := !d.boot.ready && (blockLevel b).1 ≤ 5
  if early || d.fc.resets.any (fun r => blockWithin b r) then d
  else
    let users := ctxsOnBlock d b
    let d := users.foldl (fun d c => terminateCtx c status d) d
    let d := blockUnits b (blockMemory b d)
    let d := { d with fc := { d.fc with resets := d.fc.resets.filter (fun r => !blockWithin r b) ++ [b] } }
    logEv 0x0105 diePackage (blockLevel b).1 (blockLevel b).2 users.length d

/- Start-up and the chip reset (R439, R443, R446). -/

/-- Table 18.4: the code of a start-up's cause. -/
def causeCode (c : StartCause) : Nat × Nat :=
  match c with
  | .powerOn => (0, 0)
  | .perst => (1, 0)
  | .flr => (2, 0)
  | .hotReset => (3, 0)
  | .dlDown => (4, 0)
  | .fault s => (5, s)

/-- Sources whose checkers a chip reset itself resets; their causes end (R398). -/
def checkerReset (s : Nat) : Bool :=
  s == 5 || s == 18 || (linkOfSource s).isSome || (decide (64 ≤ s) && decide (s < 320))

def isFaultCause (c : StartCause) : Bool :=
  match c with
  | .fault _ => true
  | _ => false

/-- A chip reset (Table 18.3): everything outside the always-on domain, OTP and flash returns to its reset value, and
start-up runs from stage 2. A fault reaction keeps the PCI Express link, configuration and MSI-X table. -/
def chipReset (cause : StartCause) (d : Dev) : Dev :=
  let byFault := isFaultCause cause
  let count := if byFault then (if d.boot.ready then 0 else d.boot.faultResets + 1)
    else if cause = .perst then 0 else d.boot.faultResets
  let stop := byFault && count == 3
  let keepCause := (List.range 512).foldl (fun m s => if checkerReset s then setBit m s false else m) d.fc.cause
  let n : Dev :=
    { flash := d.flash
      clock := d.clock
      free := d.free
      tele := { since := d.clock }
      cat := d.cat
      ports := d.ports
      fc := { status := d.fc.status, cause := keepCause, history := d.fc.history, histCount := d.fc.histCount,
              nextSeq := d.fc.nextSeq, wireFaults := d.fc.wireFaults, fallbackUs := d.trust.fallbackUs }
      own := { owner := d.own.owner, overrides := d.own.overrides, heartbeatMs := d.own.heartbeatMs,
               lastBeat := d.own.lastBeat, silent := d.own.silent }
      host := if byFault then
          { d.host with quiesced := false, kept := true, waiting := [], held := [], cfgAnswer := none,
                        windows := [0, 0x010000000000, 0x020000000000, 0] }
        else { mem := d.host.mem, sent := d.host.sent }
      trust := { lifecycle := d.trust.lifecycle, uniqueId := d.trust.uniqueId, fallbackUs := d.trust.fallbackUs,
                 bootCap := d.trust.bootCap }
      boot := { stage := if stop then d.boot.stage else if d.boot.perstLow || d.boot.thermtrip then 1 else 2
                failed := stop
                stopped := if stop then some 3 else none
                cause := cause, startTime := d.clock, faultResets := count, perstLow := d.boot.perstLow,
                thermtrip := d.boot.thermtrip, testEn := d.boot.testEn, mgmtAddr := d.boot.mgmtAddr,
                aliveInLevel := d.boot.aliveInLevel, aliveInEdge := d.boot.aliveInEdge } }
  let n := freshMark .lpddr (freshMark .onChip n)
  let n := logEv 0x0101 dieNorth (causeCode cause).1 (causeCode cause).2 count n
  if stop then logEv 0x0104 dieNorth d.boot.stage 3 0 n else n

/- Assertion (R396 to R402). -/

/-- What one asserting source brings. -/
structure Assertion where
  source : Nat
  rail : Bool
  injected : Bool
  detail : Nat
  deriving DecidableEq, Repr

def sevOf (d : Dev) (a : Assertion) : Nat := cfgSeverity (sourceConfig d.fc a.source)

/-- R399: severity, highest first, then source number. -/
def assertBefore (d : Dev) (a b : Assertion) : Bool :=
  decide (sevOf d a > sevOf d b) || (sevOf d a == sevOf d b && decide (a.source ≤ b.source))

def insertAssert (d : Dev) (a : Assertion) : List Assertion → List Assertion
  | [] => [a]
  | b :: t => if assertBefore d a b then a :: b :: t else b :: insertAssert d a t

def sortAsserts (d : Dev) (l : List Assertion) : List Assertion := l.foldr (insertAssert d) []

/-- A source asserts when it is listed and its cause was not already present (R395, R396). -/
def mayAssert (d : Dev) (a : Assertion) : Bool :=
  (sourceInfo a.source).isSome && !d.fc.cause.getLsbD a.source

def isCondition (s : Nat) : Bool :=
  match sourceInfo s with
  | some i => i.condition
  | none => false

/-- STATUS, history, the catalogue event and, at severity 6 or 7, the source's own fallback timer (R396, R400,
R402). -/
def recordAssert (a : Assertion) (d : Dev) : Dev :=
  let sev := sevOf d a
  let f := d.fc
  let h : HistEntry :=
    { source := a.source, severity := sev, rail := a.rail, injected := a.injected, seq := f.nextSeq,
      time := opTime d, detail := low 64 a.detail }
  let arm := decide (6 ≤ sev) && !f.unacked.getLsbD a.source
  let f' := { f with
    status := setBit f.status a.source true
    cause := if isCondition a.source then setBit f.cause a.source true else f.cause
    history := tabSet (f.nextSeq % 16) h f.history
    histCount := satAdd 32 f.histCount 1
    nextSeq := (f.nextSeq + 1) % 65536
    unacked := if arm then setBit f.unacked a.source true else f.unacked
    timers := if arm then f.timers ++ [(a.source, d.clock + 1000 * f.fallbackUs)] else f.timers }
  logSev 0x0C01 sev (sourceDie a.source) (a.source + 65536 * ofBool a.rail + 131072 * ofBool a.injected)
    (low 32 a.detail) (bits a.detail 32 32) a.injected { d with fc := f' }

/-- Host bus mastering is quiesced and ALIVE stops (R403, R405). -/
def aliveStop (d : Dev) : Dev :=
  { d with host := { d.host with quiesced := true }, boot := { d.boot with aliveRunning := false } }

/-- A context has work on a gallery: a span, a step, or a tile that is not FREE. -/
def workOnGallery (x : Ctx) (h g : Nat) : Bool :=
  let spans := match x.problem with
    | some p => p.blocks.any (fun b => b.hall == h && decide (b.tread / 32 ≤ g) && decide (32 * g < b.tread + b.treads))
    | none => false
  spans || x.tiles.any (fun t => t.hall == h && t.tread / 32 == g) ||
    x.flights.any (fun f => f.2.steps.any (fun s => s.ranges.any (fun r => r.1 == h && decide (r.2.1 ≤ g) && decide (g < r.2.1 + r.2.2))))

/-- The op has a tread range of its own (RNG_FILL and the tensor class). -/
def opHasTreads (r : Bytes) : Bool := u8 r 0 == 0x22 || (decide (0x60 ≤ u8 r 0) && decide (u8 r 0 < 0x80))

/-- An op in progress named with its entry. -/
def opName (d : Dev) (q : QRef) (idx : Nat) : List (QRef × Nat × Nat) :=
  match (queueOf d q).cur with
  | some e => [(q, e.index, idx)]
  | none => []

/-- The ops in progress of a gallery's users. -/
def galleryOps (d : Dev) (h g : Nat) : List (QRef × Nat × Nat) :=
  (allQueues d).flatMap (fun q =>
    match (queueOf d q).cur with
    | some e =>
      match ctxOf d e.ctx with
      | some x =>
        (e.issues.filter (fun i => issueOpen i && (workOnGallery x h g || (opHasTreads i.record && usesGallery x h g)))).map
          (fun i => (q, e.index, i.idx))
      | none => []
    | none => [])

/-- A destination's route leaves through a link of chain die E (`false`) or W (`true`). -/
def routeOnDie (d : Dev) (west : Bool) (dest : Nat) : Bool :=
  match routeOf d dest with
  | some n => decide (8 ≤ n) == west
  | none => false

/-- The partitioned runs with a route through a chain die. -/
def dieRuns (d : Dev) (west : Bool) : List (QRef × Nat × Nat) :=
  d.ctxs.flatMap (fun p =>
    match p.2.run, p.2.boundary with
    | some g, some b => if b.peers.any (fun e => routeOnDie d west e.chain) then opName d g.q g.idx else []
    | _, _ => [])

/-- The flight runs that ingest through a chain die, and the runs that send decisions through it. -/
def dieStreams (d : Dev) (west : Bool) : List (QRef × Nat × Nat) :=
  d.ctxs.flatMap (fun p =>
    p.2.flights.flatMap (fun f =>
      match f.2.run with
      | some r =>
        if f.2.steps.any (fun s => (s.inLink.map (fun n => decide (8 ≤ n))) == some west) then opName d r.q r.idx else []
      | none => []) ++
    (match p.2.run with
     | some g =>
       (match g.decision with
        | some k =>
          if bit (u16 k.record 0x2C) 2 && routeOnDie d west (bits (u16 k.record 0x3A) 0 11) then opName d g.q g.idx else []
        | none => [])
     | none => []))

/-- The ops that use the block or die of a parity source (R470). Between steps no LPDDR5X access is in flight. -/
def trapUsers (d : Dev) (s detail : Nat) : List (QRef × Nat × Nat) :=
  if 64 ≤ s ∧ s < 320 then
    match (s - 64) % 16 with
    | 2 | 3 | 4 => galleryOps d ((s - 64) / 16) (detail % 640 / 32)
    | _ => []
  else if s = 40 ∨ s = 56 then dieRuns d (s == 56)
  else if s = 42 ∨ s = 58 then dieRuns d (s == 58) ++ dieStreams d (s == 58)
  else []

/-- The reactions of one assertion, in the order of Table 16.2. -/
def react (cfg : Nat) (a : Assertion) (d : Dev) : Dev :=
  let d := if cfgAlive cfg then aliveStop d else d
  let users := trapUsers d a.source a.detail
  let d :=
    match sourceBlock a.source a.detail with
    | some b => if cfgBlock cfg then blockReset b stDeviceFault d else d
    | none => d
  let d := if cfgTrap cfg then
      { d with fc := { d.fc with traps := d.fc.traps ++ [{ source := a.source, detail := a.detail, users := users }] } }
    else d
  let d := if cfgIrq cfg && d.boot.ready then signal (cfgVector cfg) d else d
  if cfgChip cfg && d.boot.stopped != some 3 then chipReset (.fault a.source) d else d

/-- Sources that assert in one sample (R399): each is recorded, then each reacts. -/
def assertAll (l : List Assertion) (d : Dev) : Dev :=
  let l := sortAsserts d (l.filter (mayAssert d))
  let cfgs := l.map (fun a => (sourceConfig d.fc a.source, a))
  cfgs.foldl (fun d p => react p.1 p.2 d) (l.foldl (fun d a => recordAssert a d) d)

/-- One source asserts. -/
def raise (s detail : Nat) (d : Dev) : Dev :=
  assertAll [{ source := s, rail := false, injected := false, detail := detail }] d

/-- A condition source's cause ends (R396). -/
def causeEnds (s : Nat) (d : Dev) : Dev := { d with fc := { d.fc with cause := setBit d.fc.cause s false } }

/-- An armed source is acknowledged (R402). -/
def acknowledge (s : Nat) (d : Dev) : Dev :=
  { d with fc := { d.fc with unacked := setBit d.fc.unacked s false
                             timers := d.fc.timers.filter (fun t => t.1 != s) } }

end Sys2Proof.Machine
end

