-- ==== Sys2Proof/Machine/Access.lean ====
section
/-! DEFINITION. The body of an op: a run over the device that ends, fails, or cannot go on yet; and its accesses to
device and host memory with the checks of R11, R245, R253, R254, R268, R337 and R406. -/

namespace Sys2Proof.Machine

/-- Why a body stops. -/
inductive Stop where
  /-- the op fails with a status and a detail word; what it did before stays (R254) -/
  | fail (status detail : Nat)
  /-- it needs bytes of the entropy source (R388) -/
  | entropy (bytes : Nat)
  /-- it waits for a completion of its read of `n` bytes at a host bus address (R337) -/
  | host (addr n : Nat)
  /-- it waits for an earlier-issued op on its accumulator granules (R158) -/
  | grid
  /-- it cannot start yet: an access waits (R268, R447) -/
  | notYet
  deriving DecidableEq, Repr

/-- A body: reads and changes the device, or stops. -/
abbrev Act (α : Type) := EStateM Stop Dev α

/-- What an issue gives its body: the queue and op, its record's offset, the entry's context, the bytes drawn for it,
and what has been read for it by R11 address. `hostOk` says that host memory is read as the device last saw it: for a
read that no command completes (log 63). -/
structure OpEnv where
  q : QRef
  idx : Nat
  off : Nat
  ctx : Nat
  drawn : Option Nat
  hostOk : Bool
  got : List (Nat × Bytes) := []
  /-- the host read that the op waited for has failed, with a status and a detail word (R337) -/
  badRead : Option (Nat × Nat) := none
  deriving DecidableEq, Repr

def failWith {α : Type} (status detail : Nat) : Act α := throw (.fail status detail)

def badFormat {α : Type} (item reason : Nat) : Act α := failWith stBadFormat (itemReason item reason)

/-- A check: the body fails unless it holds. -/
def require (b : Bool) (status detail : Nat) : Act Unit := if b then pure () else failWith status detail

def requireFmt (b : Bool) (item reason : Nat) : Act Unit := if b then pure () else badFormat item reason

def change (f : Dev → Dev) : Act Unit := modify f

/-- The first address of `[a, a + n)` that satisfies a test. -/
def firstIn (a n : Nat) (p : Nat → Bool) : Option Nat := ((List.range n).find? (fun i => p (a + i))).map (a + ·)

/-- R245: every byte is mapped and its unit in service, or the access fails before any byte moves. -/
def checkRange (a n : Nat) : Act Unit := do
  let d ← get
  match firstIn a n (fun x => !mapped d.mem x) with
  | some x => failWith stBadAddress (detailDevAddr x)
  | none =>
    match firstIn a n (fun x => !reachable d x) with
    | some x => failWith stDeviceFault (detailDevAddr x)
    | none =>
      match firstIn a n (accessWaits d) with
      | some _ => throw .notYet
      | none => pure ()

/-- The memory-error sources of an address: uncorrectable and correctable (Table 16.1). -/
def memSources (_m : Memory) (a : Nat) : Option (Nat × Nat) :=
  match placeOf a with
  | .lpddr _ => some (16, 17)
  | .scratch h _ _ => some (64 + 16 * h, 65 + 16 * h)
  | .shared h _ => some (64 + 16 * h, 65 + 16 * h)
  | .fence _ => some (1, 2)
  | .nowhere => none

/-- The detail word of a memory source: a device address, or channel and address (Table 16.1). -/
def memDetail (m : Memory) (s a : Nat) : Nat :=
  if s = 16 then channelOf m a + bits a 0 48 * 2 ^ 16
  else if s = 17 then channelOf m a
  else a

def hallOfPlace (a : Nat) : Option Nat :=
  match placeOf a with
  | .scratch h _ _ => some h
  | .shared h _ => some h
  | _ => none

def modHallCounters (h : Nat) (f : HallCounters → HallCounters) (d : Dev) : Dev :=
  { d with tele := { d.tele with halls := tabSet h (f (tabGet {} h d.tele.halls)) d.tele.halls } }

/-- An uncorrectable read of a word (R254, R261): counted, logged, its source raised. -/
def reportUe (w : Nat) (injected : Bool) (d : Dev) : Dev :=
  let d := match hallOfPlace w with
    | some h => modHallCounters h (fun c => { c with memUe := satAdd 64 c.memUe 1 }) d
    | none =>
      match placeOf w with
      | .lpddr a =>
        let c := channelOf d.mem a
        { d with tele := { d.tele with linkUe := tabSet c (satAdd 32 (tabGet 0 c d.tele.linkUe) 1) d.tele.linkUe } }
      | _ => d
  match memSources d.mem w with
  | some (s, _) =>
    let d := logOpen 0x07 2 (sourceDie s) (low 32 w) (bits w 32 16) 0 d
    assertAll [{ source := s, rail := false, injected := injected, detail := memDetail d.mem s w }] d
  | none => d

/-- A corrected read of a word (R253, R261): counted, logged, reported; an on-chip one is written back later. -/
def reportCe (w : Nat) (injected : Bool) (d : Dev) : Dev :=
  let d := match hallOfPlace w with
    | some h => modHallCounters h (fun c => { c with memCe := satAdd 64 c.memCe 1 }) d
    | none =>
      match placeOf w with
      | .lpddr a =>
        let c := channelOf d.mem a
        { d with tele := { d.tele with linkCe := tabSet c (satAdd 32 (tabGet 0 c d.tele.linkCe) 1) d.tele.linkCe } }
      | _ => d
  let d := if injected || d.mem.writeback.contains w || (bankRow w).isNone then d
    else { d with mem := { d.mem with writeback := d.mem.writeback ++ [w] } }
  match memSources d.mem w with
  | some (_, s) =>
    let d := logOpen 0x07 3 (sourceDie s) (low 32 w) (bits w 32 16) 0 d
    assertAll [{ source := s, rail := false, injected := injected, detail := memDetail d.mem s w }] d
  | none => d

/-- A pending injection that the next read of a word meets (R406): its source and CHECK_BITS. -/
def injectionAt (d : Dev) (w : Nat) : Option (Nat × Nat) :=
  match memSources d.mem w with
  | some (u, c) => d.fc.injected.find? (fun i => i.1 == u || i.1 == c)
  | none => none

def dropInjection (s : Nat) (d : Dev) : Dev :=
  { d with fc := { d.fc with injected := d.fc.injected.filter (fun i => i.1 != s) } }

/-- The outcome of reading one word: `true` when its data are good (R253, R254, R406). A word whose write-back is due
still holds its single-bit error. -/
def readWord (w : Nat) (d : Dev) : Bool × Dev :=
  match injectionAt d w with
  | some (s, kind) =>
    let d := dropInjection s d
    if kind = 1 then (true, reportCe w true d) else (false, reportUe w true d)
  | none =>
    if d.mem.ue.contains w then (false, reportUe w false d)
    else if d.mem.writeback.contains w then (true, reportCe w false d)
    else (true, d)

/-- The words, or the lines of LPDDR5X (R258), of `[a, a + n)`, ascending. -/
def wordsOf (a n : Nat) : List Nat :=
  let k := accessBytes a
  if n = 0 then [] else (List.range ((a + n - 1) / k + 1 - a / k)).map (fun i => k * (a / k + i))

/-- Words read in ascending order up to the first bad one. -/
def readWords : List Nat → Dev → Option Nat × Dev
  | [], d => (none, d)
  | w :: t, d =>
    match readWord w d with
    | (true, d) => readWords t d
    | (false, d) => (some w, d)

/-- Device memory read by an op: the bytes before the first uncorrectable word, and that word. -/
def readPart (a n : Nat) : Act (Bytes × Option Nat) := do
  checkRange a n
  let d ← get
  let bs := memRead d.mem a n
  let (bad, d') := readWords (wordsOf a n) d
  set d'
  match bad with
  | some w => pure (bs.take (w - a), some w)
  | none => pure (bs, none)

/-- Device memory read whole, or the op fails with DEVICE_FAULT (R254). -/
def devRead (a n : Nat) : Act Bytes := do
  let (bs, bad) ← readPart a n
  match bad with
  | some w => failWith stDeviceFault (detailDevAddr w)
  | none => pure bs

/-- R252, R254, R258, R406: the words, or lines, a write covers in part are read first. -/
def partWords (a n : Nat) : List Nat := (wordsOf a n).filter (fun w => w < a || a + n < w + accessBytes a)

/-- Device memory written by an op. -/
def devWrite (a : Nat) (bs : Bytes) : Act Unit := do
  checkRange a bs.length
  let d ← get
  let (bad, d') := readWords (partWords a bs.length) d
  set d'
  match bad with
  | some w => do
    change (devStore a (bs.take (w - a)))
    failWith stDeviceFault (detailDevAddr w)
  | none => change (devStore a bs)

/-- R11: an address that breaks the rule fails with BAD_ADDRESS and the address as written. -/
def checkAddr (a : Nat) : Act Unit := require (addrForm a) stBadAddress (low 64 a)

/-- A host write waits now (R239, R337). -/
def hostHolds (d : Dev) : Bool := (hostWaits d && !d.host.quiesced && !actorHushed d) || actorPending d

/-- A read of host memory that no command completes (log 63): what the log brought for it on the secondary, host memory as
the device last saw it otherwise; the primary forwards it (R236, R242). -/
def hostReadNow (c a n : Nat) : Act Bytes := do
  let d ← get
  match (copyOf d c).bind (fun m => logBytes a n m.log) with
  | some bs => do
    change (takeEntry c (.hostBytes a bs))
    pure bs
  | none =>
    if hushed d c || hostWaits d || logHolds d c then throw .notYet
    else do
      let bs := cellsRead (low 63 a) n d.host.mem
      change (forwardLog c (.hostBytes a bs))
      pure bs

/-- Host memory read by an op: it waits while bus mastering is off and until the completion for its bytes has come (R337),
or until the log has brought them to the secondary's copy (R236). -/
def hostRead (e : OpEnv) (a n : Nat) : Act Bytes :=
  if e.hostOk then hostReadNow e.ctx a n
  else
    match gotRead e.got a n, e.badRead with
    | some bs, _ => pure bs
    | none, some (st, detail) => failWith st detail
    | none, none => do
      let d ← get
      if hostWaits d && !hushed d e.ctx then throw .notYet else throw (.host (low 63 a) n)

/-- A host write of an op: on the primary of a pair it waits for the link's acknowledgement (R239). -/
def hostWrite (a : Nat) (bs : Bytes) : Act Unit := do
  let d ← get
  if hostHolds d then throw .notYet else change (hostStore a bs)

/-- A read at an R11 address. -/
def rd (e : OpEnv) (a n : Nat) : Act Bytes := do
  checkAddr a
  if isHost a then hostRead e a n else devRead a n

/-- A write at an R11 address. -/
def wr (a : Nat) (bs : Bytes) : Act Unit := do
  checkAddr a
  if isHost a then hostWrite a bs else devWrite a bs

/-- The range an op will write is checked before any byte moves (R245). -/
def checkDest (a n : Nat) : Act Unit := do
  checkAddr a
  if isHost a then
    let d ← get
    if hostHolds d then throw .notYet else pure ()
  else checkRange a n

/-- What an op reads at its issue stays as it was read then (R317): its descriptor and its output-path record. -/
def rdIssue (e : OpEnv) (a n : Nat) : Act Bytes :=
  match if isHost a then none else gotRead e.got a n with
  | some bs => pure bs
  | none => rd e a n

/-- A u64 read at an R11 address. -/
def rd64 (e : OpEnv) (a : Nat) : Act Nat := do
  let bs ← rd e a 8
  pure (leNat bs)

/-- A seed: nonzero as given, otherwise drawn from the entropy source (R112), or taken from the mirror log (R236).
The flag says that it was drawn. -/
def seedOf (e : OpEnv) (seed : Nat) : Act (Nat × Bool) :=
  if seed ≠ 0 then pure (seed, false)
  else
    match e.drawn with
    | some v => pure (v, true)
    | none => do
      let d ← get
      match (mirrorCtx d e.ctx).bind logSeed with
      | some v => do
        change (modMirrorCtx e.ctx (fun m => { m with log := m.log.erase (.seed v) }))
        pure (v, true)
      | none =>
        if hushed d e.ctx then throw .notYet
        else if d.ent.failed then failWith stRngFailed anyDetail
        else throw (.entropy 8)

/-- The context of the entry, which must exist and not be terminated (R295, R308, R331). -/
def needCtx (e : OpEnv) : Act Ctx := do
  let d ← get
  match ctxOf d e.ctx with
  | some x => if x.terminated then failWith stBadContext anyDetail else pure x
  | none => failWith stBadContext anyDetail

/-- Bytes that the curator reads at an R11 address: a failure (R245, R254), the bytes, and the device after the read.
What was not read is free (log 10). -/
def curatorRead (a n : Nat) (d : Dev) : Option (Nat × Nat) × Bytes × Dev :=
  if isHost a then (none, fetch d a n, d)
  else if !addrForm a then (some (stBadAddress, low 64 a), [], d)
  else
    match devRead a n d with
    | .ok bs d' => (none, bs, d')
    | .error (.fail st detail) d' =>
      (some (st, detail), (List.range n).map (fun i => Config.undefByte d'.free (a + i)), { d' with free := d'.free + 1 })
    | .error _ _ => (none, fetch d a n, d)

end Sys2Proof.Machine
end

