-- ==== Sys2Proof/Machine/HostWindow.lean ====
section
/-! DEFINITION. The device window of BAR4: where an access reaches, what it reads and writes, the accesses that wait, and
what the doorbell pages of BAR2 read (R13, R338, R339). -/

namespace Sys2Proof.Machine

def gib : Nat := 2 ^ 30

/-- The BAR4 size. -/
def bar4Size (d : Dev) : Nat := 16 * gib * 2 ^ d.host.bar4Index

/-- The device address of a BAR4 offset. -/
def bar4Addr (d : Dev) (o : Nat) : Nat :=
  let a := bar4Size d / 4
  d.host.windows.getD (o / a) 0 / a * a + o % a

/-- Bytes that an access moves. -/
def accessLen (op : Bar4Op) : Nat :=
  match op with
  | .read n => n
  | .write bs => bs.length

/-- R277, R339: an access that touches an unmapped byte, or a resource out of service or out of reach. -/
def hostMiss (d : Dev) (a n : Nat) : Bool :=
  !d.boot.ready || (firstIn a n (fun x => !mapped d.mem x || !reachable d x)).isSome

def missed (a : Nat) (d : Dev) : Dev :=
  logOpen 0x07 8 dieNorth (low 32 a) (bits a 32 32) 0
    { d with tele := { d.tele with hostUnmapped := satAdd 64 d.tele.hostUnmapped 1 } }

/-- Data of an uncorrectable word in a host read are undefined. -/
def readBad (d : Dev) (a n w : Nat) : Bytes :=
  (List.range n).map (fun i => if w ≤ a + i then Config.undefByte d.free (a + i) else memByte d.mem (a + i))

/-- One byte of the access waits for its unit or island (R25, R268). -/
def accessHeld (d : Dev) (x : HeldAccess) : Bool :=
  !hostMiss d x.addr (accessLen x.op) && (firstIn x.addr (accessLen x.op) (accessWaits d)).isSome

/-- An access joins those that wait to be served, and its bytes cross the link (R272). -/
def holdAccess (x : HeldAccess) (d : Dev) : Dev :=
  let n := accessLen x.op
  let t := d.tele
  let t := match x.op with
    | .read _ => { t with txBytes := satAdd 64 t.txBytes n }
    | .write _ => { t with rxBytes := satAdd 64 t.rxBytes n }
  { d with tele := t, host := { d.host with held := d.host.held ++ [x] } }

/-- A host access that need not wait (R339). -/
def hostAccess (x : HeldAccess) (d : Dev) : Dev :=
  let a := x.addr
  let n := accessLen x.op
  match x.op with
  | .read _ =>
    if hostMiss d a n then missed a { d with host := { d.host with bar4Read := List.replicate n 0xFF } }
    else
      let d := countHostFlow true a n d
      match readPart a n d with
      | .ok (bs, none) d' => { d' with host := { d'.host with bar4Read := bs } }
      | .ok (_, some w) d' => { d' with host := { d'.host with bar4Read := readBad d a n w }, free := d'.free + 1 }
      | .error _ _ => d
  | .write bs =>
    if hostMiss d a n then missed a d
    else
      let d := countHostFlow false a n d
      match devWrite a bs d with
      | .ok _ d' => d'
      | .error (.fail ..) d' => d'
      | .error _ _ => d

/-- The accesses at the front that need not wait are served, in the order of their arrival. -/
def serveList : List HeldAccess → Dev → Dev
  | [], d => { d with host := { d.host with held := [] } }
  | x :: t, d =>
    if accessHeld d x then { d with host := { d.host with held := x :: t } } else serveList t (hostAccess x d)

/-- Host accesses that waited go on. -/
def serveHeld (d : Dev) : Dev := if d.host.held.isEmpty then d else serveList d.host.held d

/-- What BAR2 reads: every field of a doorbell page is write only, and reads zero (R13, Table 12.6). -/
def doorbellRead32 (_d : Dev) (_offset : Nat) : Nat := 0

end Sys2Proof.Machine
end

