-- ==== Sys2Proof/Machine/Operands.lean ====
section
/-! DEFINITION. Op records: fields, operand forms and the checks of R312, R313, R320, R324 and Tables 13.3 to 13.5. -/

namespace Sys2Proof.Machine

/- Fields of an op record (Table 13.2). -/
def recOpcode (r : Bytes) : Nat := u8 r 0
def recExt (r : Bytes) : Bool := bit (u8 r 1) 0
def recBarrier (r : Bytes) : Bool := bit (u8 r 1) 1
def recPred0 (r : Bytes) : Nat := u16 r 2
def recPred1 (r : Bytes) : Nat := u16 r 4
def recIndirect (r : Bytes) : Nat := u16 r 6
/-- Operand word `w`. -/
def opnd (r : Bytes) (w : Nat) : Nat := u64 r (8 + 8 * w)
/-- A record with operand word `w` replaced. -/
def withOpnd (r : Bytes) (w v : Nat) : Bytes := r.take (8 + 8 * w) ++ leBytes 8 v ++ r.drop (16 + 8 * w)

/-- Op classes (R314). -/
inductive OpClass where
  | control | memory | anneal | tensor | flight | privileged
  deriving DecidableEq, Repr

/-- A row of Table 13.3: whether its record has 64 bytes, whether it acts on a context, and how many operand words it
uses. -/
structure OpInfo where
  ext : Bool
  ctx : Bool
  used : Nat
  deriving DecidableEq, Repr

/-- Table 13.3. -/
def opInfo (code : Nat) : Option OpInfo :=
  if code = 0x00 then some ⟨false, false, 0⟩
  else if code = 0x01 then some ⟨false, false, 2⟩
  else if code = 0x02 then some ⟨false, false, 3⟩
  else if code = 0x03 then some ⟨false, false, 3⟩
  else if code = 0x04 then some ⟨false, false, 2⟩
  else if code = 0x20 then some ⟨false, false, 3⟩
  else if code = 0x21 then some ⟨false, false, 3⟩
  else if code = 0x22 then some ⟨true, true, 4⟩
  else if 0x40 ≤ code ∧ code ≤ 0x47 then some ⟨false, true, 1⟩
  else if 0x60 ≤ code ∧ code ≤ 0x67 then some ⟨false, true, 1⟩
  else if 0x80 ≤ code ∧ code ≤ 0x82 then some ⟨false, true, 1⟩
  else if code = 0xC0 ∨ code = 0xC1 then some ⟨false, true, 0⟩
  else if code = 0xC2 then some ⟨false, true, 1⟩
  else if 0xC3 ≤ code ∧ code ≤ 0xC8 then some ⟨false, false, 1⟩
  else none

/-- R314: the class follows the opcode range. -/
def opClass (code : Nat) : OpClass :=
  if code < 0x20 then .control
  else if code < 0x40 then .memory
  else if code < 0x60 then .anneal
  else if code < 0x80 then .tensor
  else if code < 0x90 then .flight
  else .privileged

/-- A failed check: status, byte offset of the field, reason. -/
abbrev Bad := Nat × Nat × Nat

def firstBad (l : List (Bool × Bad)) : Option Bad := (l.find? (fun p => !p.1)).map (fun p => p.2)

/-- The bits of an operand word that Tables 13.4 and 13.5 mark reserved: a mask of 64 bits for each word. -/
def reservedMask (code w : Nat) : Nat :=
  match code, w with
  | 0x02, 2 => 2 ^ 64 - 2
  | 0x03, 2 => 0xFFFFFFFF0000FFF0
  | 0x04, 1 => 2 ^ 64 - 2 ^ 16
  | 0x22, 3 => 0xFFFF00000000FF00
  | _, _ => 0

/-- A reserved bit of a direct operand that is set (R9, R312): ITEM is the operand's own offset (log 20). -/
def operandReserved (code o : Nat) (r : Bytes) : Option Bad :=
  ((List.range 7).find? (fun w => !bit (recIndirect r) w && Nat.land (opnd r w) (reservedMask code w) != 0)).map
    (fun w => (stBadFormat, o + 8 + 8 * w, rsRecord))

/-- The operand checks of Tables 13.4 and 13.5 on the direct operands: `o` is the record's offset in the buffer, `i` its
index, `n` OP_COUNT. -/
def operandChecks (code o i n : Nat) (r : Bytes) : Option Bad :=
  let direct (w : Nat) : Bool := !bit (recIndirect r) w
  let ck (w f : Nat) (b : Bool) (reason : Nat) : Bool × Bad := (!direct w || b, (stBadFormat, o + f, reason))
  let ad (w : Nat) : Bool × Bad := (!direct w || addrForm (opnd r w), (stBadAddress, o + 8 + 8 * w, 0))
  match code with
  | 0x01 => firstBad [ck 0 8 (opnd r 0 % 8 == 0) rsControlAddr, ad 0]
  | 0x02 => firstBad [ck 0 8 (opnd r 0 % 8 == 0) rsControlAddr, ad 0]
  | 0x03 => firstBad
      [ck 0 8 (opnd r 0 % 8 == 0 && !isHost (opnd r 0)) rsControlAddr, ad 0,
       ck 2 0x18 (decide (bits (opnd r 2) 0 3 < 6)) rsRecord,
       ck 2 0x1A (decide (i < bits (opnd r 2) 16 16) && decide (bits (opnd r 2) 16 16 ≤ n)) rsTarget]
  | 0x04 => firstBad
      [ck 0 8 (opnd r 0 % 8 == 0 && !isHost (opnd r 0)) rsControlAddr, ad 0,
       ck 1 0x10 (decide (bits (opnd r 1) 0 16 < i)) rsTarget]
  | 0x22 => firstBad
      [ad 0, ck 0 8 (opnd r 0 % 2 == 0) rsMemory,
       ck 1 0x10 (opnd r 1 % 2 == 0 && decide (2 ≤ opnd r 1) && decide (opnd r 1 ≤ 274877906944)) rsMemory,
       ck 3 0x20 (decide (bits (opnd r 3) 0 8 < 16)) rsMemory,
       ck 3 0x22 (decide (bits (opnd r 3) 16 16 < 640)) rsMemory,
       ck 3 0x24 (decide (1 ≤ bits (opnd r 3) 32 16) && decide (bits (opnd r 3) 32 16 ≤ 640)) rsMemory]
  | _ => none

/-- Reserved fields of a record: flags, unused operands, INDIRECT bits on unused or absent words (R312, R313). -/
def recordReserved (inf : OpInfo) (o : Nat) (r : Bytes) : Option Bad :=
  let words := if inf.ext then 7 else 3
  if recExt r != inf.ext || bits (u8 r 1) 3 5 != 0 then some (stBadFormat, o + 1, rsRecord)
  else if recIndirect r / 2 ^ inf.used != 0 then some (stBadFormat, o + 6, rsRecord)
  else
    match (List.range words).find? (fun w => decide (inf.used ≤ w) && opnd r w != 0) with
    | some w => some (stBadFormat, o + 8 + 8 * w, rsRecord)
    | none => operandReserved (recOpcode r) o r

/-- R324: an indirect operand holds an offset into the parameter block. -/
def paramChecks (inf : OpInfo) (o paramBytes : Nat) (r : Bytes) : Option Bad :=
  match (List.range inf.used).find? (fun w =>
      bit (recIndirect r) w && !(opnd r w % 8 == 0 && decide (opnd r w < paramBytes))) with
  | some w => some (stBadFormat, o + 8 + 8 * w, rsParam)
  | none => none

/-- The checks of one record (R313, step 3), without those of predecessors before it. -/
def recordChecks (o i n ctx paramBytes : Nat) (r : Bytes) : Option Bad :=
  let code := recOpcode r
  match opInfo code with
  | none => some (stBadFormat, o, rsOpcode)
  | some inf =>
    match recordReserved inf o r with
    | some b => some b
    | none =>
      match firstBad [(recPred0 r == 0xFFFF || decide (recPred0 r < i), (stBadFormat, o + 2, rsPredecessor)),
                      (recPred1 r == 0xFFFF || decide (recPred1 r < i), (stBadFormat, o + 4, rsPredecessor))] with
      | some b => some b
      | none =>
        match paramChecks inf o paramBytes r with
        | some b => some b
        | none =>
          match operandChecks code o i n r with
          | some b => some b
          | none => if inf.ctx && ctx == 0xFFFF then some (stBadContext, 0, 0) else none

/-- The detail word of a failed check: ITEM and REASON; a bad address; nothing. -/
def badDetail (b : Bad) (r : Bytes) (o : Nat) : Nat :=
  if b.1 = stBadFormat then itemReason b.2.1 b.2.2
  else if b.1 = stBadAddress then u64 r (b.2.1 - o)
  else 0

/-- Record offsets of a buffer: records of 32 or 64 bytes packed after the header (R310). `n` records left at offset
`o`; the answer lists offset and bytes. -/
def splitRecords (buf : Bytes) : Nat → Nat → List (Nat × Bytes)
  | 0, _ => []
  | n + 1, o =>
    let r := buf.drop o
    let k := if recExt r then 64 else 32
    (o, r.take k) :: splitRecords buf n (o + k)

/-- The first failing record: index and failure. -/
def firstRecordBad (n ctx paramBytes : Nat) : Nat → List (Nat × Bytes) → Option (Nat × Nat × Nat)
  | _, [] => none
  | i, (o, r) :: t =>
    match recordChecks o i n ctx paramBytes r with
    | some b => some (i, b.1, badDetail b r o)
    | none => firstRecordBad n ctx paramBytes (i + 1) t

/-- R11: PARAM_ADDR of a buffer header breaks the rule for addresses. -/
def paramAddrBad (b : Bytes) : Bool := !addrForm (u64 b 8)

/-- R313, step 1: the buffer header (Table 13.1). -/
def bufferHeaderBad (b : Bytes) : Option Nat :=
  let pa := u64 b 8
  let pb := u32 b 0x10
  if u16 b 0 ≠ 3 then some 0
  else if u16 b 2 = 0 ∨ u16 b 2 > 32766 then some 2
  else if u32 b 4 ≠ 0 then some 4
  else if pa % 8 ≠ 0 then some 8
  else if (pa = 0 ∧ pb ≠ 0) ∨ (pa ≠ 0 ∧ (pb % 8 ≠ 0 ∨ pb < 8 ∨ pb > 65536)) then some 0x10
  else nonzeroIn b 0x14 44

/-- Length of the records (R310). -/
def recordsBytes (l : List (Nat × Bytes)) : Nat := l.foldl (fun n p => n + (if recExt p.2 then 64 else 32)) 0

end Sys2Proof.Machine
end

