-- ==== Sys2Proof/Machine/Issue.lean ====
section
/-! DEFINITION. The issue of an op: its waits, its record read again, its indirect operands, its body and its end
(R311, R315 to R319, R324). -/

namespace Sys2Proof.Machine

/-- What a body answers: the op has ended; it has ended and the next op to issue is given (R321, R322); or it goes on
and waits. The number is the op steps made (Table 13.12). -/
inductive OpRes where
  | done (o : OpOut) (steps : Nat)
  | jump (o : OpOut) (next : Nat)
  | running (w : OpWait) (steps : Nat)
  deriving DecidableEq, Repr

abbrev Body := OpEnv → Bytes → Act OpRes

/-- An op that ends with OK, a detail word and one op step. -/
def doneOk (detail : Nat) : Act OpRes := pure (.done { detail := detail } 1)

/-- The record of op `i` as it stands in memory now: its offset and bytes (R311). A buffer in host memory cannot be
read while host requests wait (R337). -/
def recordAt (d : Dev) (e : Entry) (i : Nat) : Option (Nat × Bytes) :=
  match e.kind with
  | .buffer addr bytes =>
    if isHost addr && hostWaits d then none else (splitRecords (fetch d addr bytes) e.opCount 64).drop i |>.head?
  | .inline r => if i = 0 then some (64, r) else none
  | .nop => none

/-- A predecessor has ended, or was never issued (R316). -/
def predMet (e : Entry) (p : Nat) : Bool :=
  p == 0xFFFF ||
    (match e.issues.reverse.find? (fun i => i.idx == p) with
     | some i => !issueOpen i
     | none => true)

/-- The waits of R315. -/
def mayIssue (e : Entry) (r : Bytes) : Bool :=
  let openIss := e.issues.filter issueOpen
  let cls := opClass (recOpcode r)
  decide (openIss.length < 64) && openIss.all (fun i => opClass (recOpcode i.record) != .control) &&
    predMet e (recPred0 r) && predMet e (recPred1 r) &&
    (!(recBarrier r || cls == .control || cls == .anneal || cls == .flight || cls == .privileged) || openIss.isEmpty)

/-- The entry may issue: its checks passed, nothing failed, nothing stops it. -/
def entryOpen (e : Entry) : Bool := !entryDone e

/-- Indirect operands are read, one 8-byte read each (R324). -/
def resolve (env : OpEnv) (e : Entry) (r : Bytes) : List Nat → Act Bytes
  | [] => pure r
  | w :: ws =>
    if bit (recIndirect r) w then do
      let v ← rd64 env (e.paramAddr + opnd r w)
      resolve env e (withOpnd r w v) ws
    else resolve env e r ws

/-- A record with its INDIRECT bits clear. -/
def directRec (r : Bytes) : Bytes := r.take 6 ++ [0, 0] ++ r.drop 8

/-- The op's record with its indirect operands read and checked (R317, R324). -/
def readOperands (env : OpEnv) (e : Entry) (o : Nat) (r : Bytes) : Act Bytes := do
  let r ← resolve env e r (List.range 7)
  let r := directRec r
  match (operandReserved (recOpcode r) o r).or (operandChecks (recOpcode r) o env.idx e.opCount r) with
  | some b => failWith b.1 (badDetail b r o)
  | none => pure r

/-- The op's own part of an issue: indirect operands, their checks, the body (R317, R324). -/
def runBody (body : Body) (env : OpEnv) (e : Entry) (o : Nat) (r : Bytes) : Act OpRes := do
  let r ← readOperands env e o r
  body env r

/-- A record with its indirect operands replaced by what the parameter block holds now. -/
def operandsNow (d : Dev) (e : Entry) (r : Bytes) : Bytes :=
  directRec ((List.range 7).foldl (fun z w =>
    if bit (recIndirect r) w then withOpnd z w (leNat (fetch d (e.paramAddr + opnd r w) 8)) else z) r)

/-- Ops whose one op step is the op, failed or not (Table 12.13). A WAIT_FENCE takes its step when its condition is met. -/
def stepsOnFail (code : Nat) : Nat :=
  match opClass code with
  | .control => if code == 0x01 then 0 else 1
  | .privileged => 1
  | _ => if code == 0x42 || code == 0x80 || code == 0x82 then 1 else 0

/-- An issue is added to the entry, and the next op to issue is set. An op that runs again keeps its place in the order of
issues. -/
def addIssue (q : QRef) (i : OpIssue) (next : Nat) (d : Dev) : Dev :=
  match (queueOf d q).cur with
  | some e =>
    let i := { i with order := match openIssue e i.idx with
                        | some j => j.order
                        | none => d.cur.issued }
    let d := { d with cur := { d.cur with issued := d.cur.issued + 1 } }
    setEntry q (some { e with issues := e.issues.filter (fun j => !(j.idx == i.idx && issueOpen j)) ++ [i], next := next }) d
  | none => d

/- What an op that waits keeps of its issue (R317). -/

/-- The op's record names a descriptor in OPERAND0 (Table 13.3). -/
def hasDescriptor (code : Nat) : Bool :=
  decide (0x40 ≤ code) && code != 0xC0 && code != 0xC1

/-- Where a descriptor names its op's output-path record: MATMUL and BATCHED_MATMUL that END, DRAIN without DISCARD. -/
def outAddrOf (code : Nat) (x : Bytes) : Option Nat :=
  if code = 0x60 ∨ code = 0x61 then (if bit (u8 x 2) 1 then some (u64 x 0x50) else none)
  else if code = 0x67 then (if bit (u8 x 2) 0 then none else some (u64 x 0x18))
  else none

/-- A run of bytes of device memory as it stands, for an address that has none yet. -/
def keepRead (d : Dev) (a n : Nat) (got : List (Nat × Bytes)) : List (Nat × Bytes) :=
  if isHost a || (gotRead got a n).isSome then got else got ++ [(a, memRead d.mem a n)]

/-- What the issue read: the descriptor, once its operand is known, and the output-path record that it names. -/
def issueReads (d : Dev) (env : OpEnv) (r : Bytes) : List (Nat × Bytes) :=
  if hasDescriptor (recOpcode r) && recIndirect r == 0 then
    let got := keepRead d (opnd r 0) 192 env.got
    match ((gotRead got (opnd r 0) 128).or (gotRead got (opnd r 0) 64)).bind (outAddrOf (recOpcode r)) with
    | some a => keepRead d a 64 got
    | none => got
  else env.got

/-- The record with the operands that the issue read, where they could be read (R317, R324). -/
def issueRecord (q : QRef) (env : OpEnv) (r : Bytes) (d : Dev) : Bytes :=
  match (queueOf d q).cur with
  | none => r
  | some e =>
    match readOperands env e env.off r d with
    | .ok z _ => z
    | .error _ _ => r

/-- The issue of an op that waits, with what it has read. -/
def waitIssue (q : QRef) (env : OpEnv) (r : Bytes) (w : OpWait) (d : Dev) : OpIssue :=
  let z := issueRecord q env r d
  { idx := env.idx, record := z, wait := w, drawn := env.drawn, got := issueReads d env z, off := env.off }

/-- The outcome of a body is put into effect. `d` is the device before the body. -/
def settleBody (q : QRef) (idx : Nat) (r : Bytes) (env : OpEnv) (d : Dev) (next : Nat)
    (res : EStateM.Result Stop Dev OpRes) : Dev :=
  let iss (w : OpWait) : OpIssue :=
    { idx := idx, record := r, wait := w, drawn := env.drawn, got := env.got, off := env.off }
  let free (d : Dev) : Dev := { d with actor := none }
  match res with
  | .ok (.done o n) d' => endOp q idx (opSteps q n (addIssue q (iss (.out o)) next (free d')))
  | .ok (.jump o t) d' => endOp q idx (opSteps q 1 (addIssue q (iss (.out o)) t (free d')))
  | .ok (.running w n) d' => opSteps q n (addIssue q (iss w) next (free d'))
  | .error (.fail st detail) d' =>
    endOp q idx (opSteps q (stepsOnFail (recOpcode r))
      (addIssue q (iss (.out { status := st, detail := detail })) next (free d')))
  | .error (.entropy n) d' =>
    let d' := free d'
    addIssue q (waitIssue q env r .entropy d) next
      { d' with ent := { d'.ent with waiting := d'.ent.waiting ++ [.op q idx n] } }
  | .error (.host a n) d' => addIssue q (waitIssue q env r (.host a n) d) next (free d')
  | .error .grid d' => addIssue q (waitIssue q env r .grid d) next (free d')
  | .error .notYet _ => d

/-- R287, R351: a record that the entry's check of privilege at its dispatch does not cover. -/
def untrusted (e : Entry) (r : Bytes) : Bool := opClass (recOpcode r) == .privileged && !e.trusted

/-- A record is read again at its issue (R311): of a buffer in device memory, with the checks of R245 and R254. -/
def readRecord (e : Entry) (o : Nat) (r : Bytes) : Act Bytes :=
  match e.kind with
  | .buffer addr _ => if isHost addr then pure r else devRead (addr + o) r.length
  | .inline _ | .nop => pure r

/-- The next op of the current entry of queue `q` issues, if its waits are met and `mine` accepts its record; a record
that no longer passes its checks ends the op with BAD_FORMAT (R311). -/
def issueOp (q : QRef) (mine : Dev → Entry → Bytes → Bool) (body : Body) (d : Dev) : Dev :=
  match (queueOf d q).cur with
  | none => d
  | some e =>
    if entryOpen e && mirrorGoes d e.ctx then
      match recordAt d e e.next with
      | none => d
      | some (o, r) =>
        let env : OpEnv := { q := q, idx := e.next, off := o, ctx := e.ctx, drawn := none, hostOk := false }
        if mayIssue e r then
          match readRecord e o r d with
          | .error (.fail st detail) d' => settleBody q e.next r env d (e.next + 1) (.error (.fail st detail) d')
          | .error _ _ => d
          | .ok _ d' =>
            match recordChecks o e.next e.opCount e.ctx e.paramBytes r with
            | some b =>
              settleBody q e.next r env d' (e.next + 1)
                (.error (.fail stBadFormat (if b.1 = stBadFormat then badDetail b r o else anyDetail)) d')
            | none =>
              if untrusted e r then
                settleBody q e.next r env d' (e.next + 1) (.error (.fail stBadFormat anyDetail) d')
              else if mine d e r then
                settleBody q e.next r env d' (e.next + 1) (runBody body env e o r { d' with actor := some e.ctx })
              else d
        else d
    else d

/-- The op's opcode is the row's. -/
def isOpcode (code : Nat) (_ : Dev) (_ : Entry) (r : Bytes) : Bool := recOpcode r == code

/-- An op that waited goes on, with the bytes delivered to it or drawn for it. -/
def rerunOp (body : Body) (q : QRef) (idx : Nat) (d : Dev) : Dev :=
  match (queueOf d q).cur with
  | none => d
  | some e =>
    match openIssue e idx with
    | none => d
    | some i =>
      let env : OpEnv :=
        { q := q, idx := idx, off := i.off, ctx := e.ctx, drawn := i.drawn, hostOk := false, got := i.got, badRead := i.badRead }
      settleBody q idx i.record env d e.next (runBody body env e i.off i.record { d with actor := some e.ctx })

/-- A descriptor of `n` bytes at OPERAND0. -/
def descriptor (env : OpEnv) (r : Bytes) (n : Nat) : Act Bytes := rdIssue env (opnd r 0) n

end Sys2Proof.Machine
end

