-- ==== Sys2Proof/Machine/Lift.lean ====
section
/-! DEFINITION. How a command's effect on the device becomes an outcome of the machine, and the fences that a write
of device memory meets (R325). -/

namespace Sys2Proof.Machine

/-- A device fence that an op waits for holds at least its threshold now. -/
def fenceMet (d : Dev) (w : OpWait) : Option Nat :=
  match w with
  | .fence a t =>
    if isHost a then none
    else
      let v := leNat (memRead d.mem a 8)
      if t ≤ v then some v else none
  | _ => none

/-- The waits of one queue's entry on device fences are looked at again: a wait that is met takes its op step and has
its outcome. -/
def wakeQueue (q : QRef) (d : Dev) : Dev :=
  match (queueOf d q).cur with
  | none => d
  | some e =>
    e.issues.foldl
      (fun d i =>
        match fenceMet d i.wait with
        | some v => opSteps q 1 (opOutcome q i.idx { detail := v } d)
        | none => d) d

/-- Every wait on a device fence is looked at again (R325). -/
def wakeFences (d : Dev) : Dev := (allQueues d).foldl (fun d q => wakeQueue q d) d

/-- The command changes the device by `f`; the queue and the OTP stay. -/
def onDev (f : Dev → Dev) (s : State) : Host.Outcome State Fault Refusal := .next { s with dev := f s.dev }

/-- As `onDev`, where `f` may write device memory or free a unit: the host accesses that waited are served, and waiting
fences are looked at afterwards. -/
def onMem (f : Dev → Dev) (s : State) : Host.Outcome State Fault Refusal := onDev (fun d => wakeFences (serveHeld (f d))) s

/-- An op row: the next op of queue `q` issues, if it is of this row. -/
def opRow (q : QRef) (code : Nat) (body : Body) (s : State) : Host.Outcome State Fault Refusal :=
  onMem (issueOp q (isOpcode code) body) s

/-- The op's opcode and action are the row's, or its action is none of the family's. -/
def isAction (code : Nat) (read : Dev → Bytes → Nat) (action : Nat) (actions : List Nat) (d : Dev) (e : Entry)
    (r : Bytes) : Bool :=
  let a := read d (operandsNow d e r)
  recOpcode r == code && (a == action || !actions.contains a)

/-- A row of an op whose descriptor names an action: `action` reads it; a descriptor with another valid action is not
this row's. `actions` lists the actions that have rows. -/
def actionRow (q : QRef) (code : Nat) (read : Dev → Bytes → Nat) (action : Nat) (actions : List Nat) (body : Body)
    (s : State) : Host.Outcome State Fault Refusal :=
  onMem (issueOp q (isAction code read action actions) body) s

/-- Time passes to a moment. -/
def tickTo (t : Nat) (d : Dev) : Dev := { d with clock := max d.clock t }

end Sys2Proof.Machine
end

