-- ==== Sys2Proof/Machine/Control.lean ====
section
/-! DEFINITION. The control ops and COPY and FILL (R320 to R328). -/

namespace Sys2Proof.Machine

/-- NOP (Table 13.4). -/
def bodyNop : Body := fun _ _ => doneOk 0

/-- WAIT_FENCE (R325): met when the fence, read as unsigned, is at least the threshold. -/
def bodyWaitFence : Body := fun env r => do
  let v ← rd64 env (opnd r 0)
  if opnd r 1 ≤ v then doneOk v else pure (.running (.fence (opnd r 0) (opnd r 1)) 0)

/-- SIGNAL_FENCE (R326): a write, or an addition modulo 2^64. -/
def bodySignalFence : Body := fun env r => do
  let a := opnd r 0
  let v := opnd r 1
  if bit (opnd r 2) 0 then
    if isHost a then do
      let d ← get
      requireFmt d.host.atomicReq (env.off + 0x18) rsFence
      let seen ← rd64 env a
      let old := fenceBase d env.ctx a seen
      hostWrite a (leBytes 8 (low 64 (old + v)))
      change (noteFence env.ctx a (low 64 (old + v)))
      doneOk (low 64 (old + v))
    else do
      let old ← rd64 env a
      devWrite a (leBytes 8 (low 64 (old + v)))
      doneOk (low 64 (old + v))
  else do
    wr a (leBytes 8 v)
    if isHost a then change (noteFence env.ctx a v) else pure ()
    doneOk v

/-- v TEST c (Table 13.4). -/
def condTest (test : Nat) (signed : Bool) (v c : Nat) : Bool :=
  let a : Int := if signed then toInt 64 v else v
  let b : Int := if signed then toInt 64 c else c
  match test with
  | 0 => a == b
  | 1 => a != b
  | 2 => decide (a < b)
  | 3 => decide (a ≤ b)
  | 4 => decide (a > b)
  | _ => decide (a ≥ b)

/-- COND (R321). -/
def bodyCond : Body := fun env r => do
  let v ← rd64 env (opnd r 0)
  let taken := condTest (bits (opnd r 2) 0 3) (bit (opnd r 2) 3) v (opnd r 1)
  pure (.jump { detail := v, seed := ofBool taken }
    (if taken then bits (opnd r 2) 16 16 else env.idx + 1))

/-- LOOP (R322). -/
def bodyLoop : Body := fun env r => do
  let c ← rd64 env (opnd r 0)
  if c = 0 then pure (.jump { detail := 0 } (env.idx + 1))
  else do
    devWrite (opnd r 0) (leBytes 8 (c - 1))
    pure (.jump { detail := c - 1 } (if c - 1 = 0 then env.idx + 1 else bits (opnd r 1) 0 16))

/-- Two regions share a byte. -/
def overlaps (a n b m : Nat) : Bool := decide (a < b + m) && decide (b < a + n)

/-- Op steps of a transfer (Table 13.12): each 64 KiB, and the last part. -/
def transferSteps (n : Nat) : Nat := ceilDiv n 65536

def bytesInRange (n : Nat) : Bool := decide (1 ≤ n) && decide (n ≤ 274877906944)

/-- A transfer that an uncorrectable word of its source stopped: the op steps of the 64 KiB parts that moved (Table
12.13), and DEVICE_FAULT (R254). -/
def stoppedAt (moved word : Nat) : OpRes :=
  .done { status := stDeviceFault, detail := detailDevAddr word } (moved / 65536)

/-- Bytes written at an R11 address up to an uncorrectable word that the write meets: that word, if there is one. -/
def wrPart (a : Nat) (bs : Bytes) : Act (Option Nat) :=
  if isHost a then do
    wr a bs
    pure none
  else do
    checkRange a bs.length
    let d ← get
    let (bad, d') := readWords (partWords a bs.length) d
    set d'
    match bad with
    | some w => do
      change (devStore a (bs.take (w - a)))
      pure (some w)
    | none => do
      change (devStore a bs)
      pure none

/-- The outcome of a transfer of `n` bytes to `dst`, given the word that stopped its writes. -/
def movedAll (dst n : Nat) (bad : Option Nat) : OpRes :=
  match bad with
  | some w => stoppedAt (w - dst) w
  | none => .done { detail := n } (transferSteps n)

/-- COPY (R328): every check precedes the first byte; a transfer stops at an uncorrectable word (R254). -/
def bodyCopy : Body := fun env r => do
  let dst := opnd r 0
  let src := opnd r 1
  let n := opnd r 2
  requireFmt (bytesInRange n) (env.off + 0x18) rsMemory
  checkAddr dst
  checkAddr src
  requireFmt (!overlaps dst n src n) (env.off + 0x08) rsMemOverlap
  checkDest dst n
  if isHost src then do
    let bs ← hostRead env src n
    let stop ← wrPart dst bs
    pure (movedAll dst n stop)
  else do
    let (bs, bad) ← readPart src n
    let stop ← wrPart dst bs
    match stop, bad with
    | some w, _ => pure (movedAll dst n (some w))
    | none, some w => pure (stoppedAt (w - src) w)
    | none, none => pure (movedAll dst n none)

/-- The bytes FILL writes: the byte at address a receives byte (a mod 8) of the pattern. -/
def fillBytes (a n pattern : Nat) : Bytes :=
  (List.range n).map (fun i => BitVec.ofNat 8 (pattern / 2 ^ (8 * ((a + i) % 8))))

/-- FILL (R328). -/
def bodyFill : Body := fun env r => do
  let dst := opnd r 0
  let n := opnd r 2
  requireFmt (bytesInRange n) (env.off + 0x18) rsMemory
  checkDest dst n
  let stop ← wrPart dst (fillBytes dst n (opnd r 1))
  pure (movedAll dst n stop)

/-- NOP (R314). -/
def execNop (q : QRef) (s : State) : Host.Outcome State Fault Refusal := opRow q 0x00 bodyNop s

/-- WAIT_FENCE (R325). -/
def execWaitFence (q : QRef) (s : State) : Host.Outcome State Fault Refusal := opRow q 0x01 bodyWaitFence s

/-- SIGNAL_FENCE (R326). -/
def execSignalFence (q : QRef) (s : State) : Host.Outcome State Fault Refusal := opRow q 0x02 bodySignalFence s

/-- COND (R321). -/
def execCond (q : QRef) (s : State) : Host.Outcome State Fault Refusal := opRow q 0x03 bodyCond s

/-- LOOP (R322). -/
def execLoop (q : QRef) (s : State) : Host.Outcome State Fault Refusal := opRow q 0x04 bodyLoop s

/-- COPY (R328). -/
def execCopy (q : QRef) (s : State) : Host.Outcome State Fault Refusal := opRow q 0x20 bodyCopy s

/-- FILL (R328). -/
def execFill (q : QRef) (s : State) : Host.Outcome State Fault Refusal := opRow q 0x21 bodyFill s

/-- A wait on a host fence reads its fence (R325): in a mirrored context through the log (R236). -/
def fenceReads (c : Nat) (q : QRef) (idx a t : Nat) (d : Dev) : Dev :=
  match hostReadNow c a 8 d with
  | .ok bs d => if t ≤ leNat bs then opSteps q 1 (opOutcome q idx { detail := leNat bs } d) else d
  | .error _ _ => d

/-- A wait on a host fence reads its fence again (R325). -/
def pollFences (q : QRef) (d : Dev) : Dev :=
  match (queueOf d q).cur with
  | none => d
  | some e =>
    if (hostWaits d || d.host.quiesced) && !hushed d e.ctx then d
    else e.issues.foldl
      (fun d i =>
        match i.wait with
        | .fence a t => if isHost a then fenceReads e.ctx q i.idx a t d else d
        | _ => d) d

/-- WAIT_FENCE_POLL (R325). -/
def execWaitFencePoll (q : QRef) (s : State) : Host.Outcome State Fault Refusal := onDev (pollFences q) s

end Sys2Proof.Machine
end

