-- ==== Sys2Proof/Machine/Queues.lean ====
section
/-! DEFINITION. Doorbells, kernel queue registers, dispatch of entries, terminal completions and QUEUE_CTL (R285 to
R309). -/

namespace Sys2Proof.Machine

/-- The host's memory requests reach the device: Memory Space Enable, D0, and READY or a kept configuration (R444). -/
def hostReach (d : Dev) : Bool :=
  d.host.memSpace && !d.host.d3 && (d.boot.ready || (d.host.kept && decide (2 ≤ d.boot.stage)))

def hostOwns (d : Dev) : Bool := d.own.owner == some .host

/- Doorbells (R293). -/

/-- A doorbell value is bad: bits [31:16] nonzero, or at or above the ring size. -/
def badDoorbell (v size : Nat) : Bool := bits v 16 16 != 0 || decide (size ≤ low 16 v)

/-- A queue that takes no doorbell: an unbound user queue. -/
def unboundUser (d : Dev) : QRef → Bool
  | .kernel _ => false
  | .user u => !(queueOf d (.user u)).bound

/-- A bad doorbell is ignored: DOORBELL_ERROR sets and an event is logged. -/
def doorbellError (q : QRef) (v : Nat) (d : Dev) : Dev :=
  logOpen 0x04 4 dieNorth (qNumber q + 0x8000 * ofBool (qIsKernel q)) v 0
    (setQueue q { queueOf d q with doorbellError := true } d)

/-- A write of SQ_TAIL (R293, R294): stored, and a wake is posted for an IDLE queue. -/
def sqTailWrite (q : QRef) (v : Nat) (d : Dev) : Dev :=
  let x := queueOf d q
  if unboundUser d q then d
  else if badDoorbell v (sqSize x) then doorbellError q v d
  else setQueue q { x with sqTail := low 16 v, wake := x.wake || x.state == .idle } d

/-- A write of CQ_HEAD (R293): completion space may appear, and a queue in CQ_WAIT resumes. -/
def cqHeadWrite (q : QRef) (v : Nat) (d : Dev) : Dev :=
  let x := queueOf d q
  if unboundUser d q then d
  else if badDoorbell v (cqSize x) then doorbellError q v d
  else resumeQueue q (setQueue q { x with cqHead := low 16 v } d)

/-- SQ_TAIL_DOORBELL (R293). -/
def execSqTailDoorbell (q : QRef) (value : BitVec 32) (s : State) : Host.Outcome State Fault Refusal :=
  onDev (fun d => if hostReach d && d.boot.ready then sqTailWrite q value.toNat d else d) s

/-- CQ_HEAD_DOORBELL (R293). -/
def execCqHeadDoorbell (q : QRef) (value : BitVec 32) (s : State) : Host.Outcome State Fault Refusal :=
  onMem (fun d => if hostReach d && d.boot.ready then cqHeadWrite q value.toNat d else d) s

/- Kernel queue registers (R289). -/

/-- The ring fields are in range and aligned. -/
def ringsOk (sqBase cqBase config : Nat) : Bool :=
  let n := bits config 0 5
  let m := bits config 8 5
  decide (4 ≤ n) && decide (n ≤ 16) && decide (4 ≤ m) && decide (m ≤ 16) && sqBase % 4096 == 0 && cqBase % 4096 == 0

/-- Indices zeroed, PHASE 1, IDLE, ENABLE 1 (R289, R292). -/
def enabledQueue (x : Queue) : Queue :=
  { x with sqHead := 0, sqTail := 0, cqTail := 0, cqHead := 0, phase := true, state := .idle, stalled := false,
           cqWait := false, wake := false, flush := none, cur := none, irqSeen := 0, unsignalled := false,
           sample := none, quiet := 0, seenAt := 0, config := disabledConfig x + 2 ^ 31 }

/-- The CONFIG bits that are not reserved (Table 12.1). -/
def configMask (v : Nat) : Nat :=
  bits v 0 5 + bits v 8 5 * 2 ^ 8 + bits v 16 11 * 2 ^ 16 + bits v 28 2 * 2 ^ 28 + bits v 31 1 * 2 ^ 31

/-- CONFIG without ENABLE. -/
def configOff (v : Nat) : Nat := low 31 v

/-- A write of a kernel queue's CONFIG by the owner host (R289). -/
def kernelConfigWrite (k : Fin 16) (v : Nat) (d : Dev) : Dev :=
  let q := QRef.kernel k
  let x := queueOf d q
  let c := configMask v
  if !hostOwns d then d
  else if x.state = .disabled then
    if bit v 31 then
      if ringsOk x.sqBase x.cqBase c then setQueue q (enabledQueue { x with config := c }) d
      else setQueue q { x with config := configOff c, configError := true } d
    else setQueue q { x with config := c } d
  else
    let kept := bits x.config 0 16 + bits c 16 15 * 2 ^ 16
    if bit v 31 then setQueue q { x with config := kept + 2 ^ 31 } d
    else stopQueue q stAbortedDisabled true (setQueue q { x with config := kept } d)

/-- KERNEL_QUEUE_ENABLE (R289): a CONFIG write with ENABLE = 1. -/
def execKernelQueueEnable (k : Fin 16) (config : BitVec 32) (s : State) : Host.Outcome State Fault Refusal :=
  onDev (fun d => if hostReach d && d.boot.ready && bit config.toNat 31 then kernelConfigWrite k config.toNat d else d) s

/-- KERNEL_QUEUE_DISABLE (R289, R305): a CONFIG write with ENABLE = 0. -/
def execKernelQueueDisable (k : Fin 16) (config : BitVec 32) (s : State) : Host.Outcome State Fault Refusal :=
  onMem (fun d => if hostReach d && d.boot.ready && !bit config.toNat 31 then kernelConfigWrite k config.toNat d else d) s

/-- A write of 1 to a kernel queue's ABORT (R306). -/
def kernelAbort (k : Fin 16) (d : Dev) : Dev :=
  if hostOwns d then stopQueue (.kernel k) stAborted false d else d

/-- KERNEL_QUEUE_ABORT (R306). -/
def execKernelQueueAbort (k : Fin 16) (s : State) : Host.Outcome State Fault Refusal :=
  onMem (fun d => if hostReach d && d.boot.ready then kernelAbort k d else d) s

/-- MSIX_UNMASK (R301). -/
def execMsixUnmask (vector : Fin 2048) (s : State) : Host.Outcome State Fault Refusal :=
  onDev (fun d => if hostReach d && d.boot.ready then unmask vector.val d else d) s

/- Dispatch (R295, R296, R310 to R313). -/

/-- The entry's own format (R296): the offset of the first failing field. -/
def entryBad (kernel : Bool) (b : Bytes) : Option Nat :=
  let kind := u8 b 0
  let ctx := u16 b 2
  if 2 < kind then some 0
  else if u8 b 1 / 2 ≠ 0 then some 1
  else if kernel && decide (1024 ≤ ctx) && ctx != 0xFFFF then some 2
  else if u32 b 4 ≠ 0 then some 4
  else if (kind = 0 ∧ u64 b 0x10 % 64 ≠ 0) ∨ (kind ≠ 0 ∧ u64 b 0x10 ≠ 0) then some 0x10
  else if (kind = 0 ∧ (u32 b 0x18 < 96 ∨ u32 b 0x18 > 1048576 ∨ u32 b 0x18 % 32 ≠ 0)) ∨
          (kind ≠ 0 ∧ u32 b 0x18 ≠ 0) then some 0x18
  else if u32 b 0x1C ≠ 0 then some 0x1C
  else if kind ≠ 1 then nonzeroIn b 0x20 32
  else none

/-- An INLINE record must hold EXT 0, no predecessors and no indirect word (R311). -/
def inlineBad (r : Bytes) : Option Nat :=
  if recExt r then some 0x41
  else if recPred0 r ≠ 0xFFFF then some 0x42
  else if recPred1 r ≠ 0xFFFF then some 0x44
  else if recIndirect r ≠ 0 then some 0x46
  else none

/-- R287, R295 (3): privileged ops need a kernel queue and the host as owner. -/
def privilegeBad (d : Dev) (q : QRef) (l : List (Nat × Bytes)) : Option Nat :=
  if qIsKernel q && hostOwns d then none
  else l.findIdx? (fun p => opClass (recOpcode p.2) == .privileged)

/-- What the checks of an entry find: a failure (status, detail, op index), or its OP_COUNT and parameter block. -/
structure Checked where
  early : Option (Nat × Nat × Nat)
  opCount : Nat
  paramAddr : Nat
  paramBytes : Nat
  deriving DecidableEq, Repr

def failEntry (status detail idx : Nat) : Checked := ⟨some (status, detail, idx), 0, 0, 0⟩

/-- Steps 2 to 4 of R295 over a buffer's bytes. -/
def checkBuffer (d : Dev) (q : QRef) (ctx bytes : Nat) (b : Bytes) : Checked :=
  match bufferHeaderBad b with
  | some item => failEntry stBadFormat (itemReason item rsBufferHeader) 0xFFFF
  | none =>
    if paramAddrBad b then failEntry stBadAddress (u64 b 8) 0xFFFF else
    let n := u16 b 2
    let recs := splitRecords b n 64
    if recordsBytes recs ≠ bytes - 64 then failEntry stBadFormat (itemReason 2 rsLength) 0xFFFF
    else
      match firstRecordBad n ctx (u32 b 0x10) 0 recs with
      | some (i, st, detail) => failEntry st detail i
      | none =>
        match privilegeBad d q recs with
        | some i => failEntry stPrivileged anyDetail i
        | none => ⟨none, n, u64 b 8, u32 b 0x10⟩

/-- The checks of R295 in their order; those of a buffer read its bytes. -/
def checkEntry (d : Dev) (q : QRef) (b : Bytes) : Checked × Dev :=
  let ctx := u16 b 2
  match entryBad (qIsKernel q) b with
  | some item => (failEntry stBadFormat (itemReason item rsEntry) 0xFFFF, d)
  | none =>
    if !qIsKernel q && ctx != (queueOf d q).context then (failEntry stBadContext anyDetail 0xFFFF, d)
    else if u8 b 0 = 2 then (⟨none, 0, 0, 0⟩, d)
    else if u8 b 0 = 1 then
      let r := b.drop 0x20
      match inlineBad r with
      | some item => (failEntry stBadFormat (itemReason item rsRecord) 0, d)
      | none =>
        match recordChecks 64 0 1 ctx 0 r with
        | some x => (failEntry x.1 (badDetail x r 64) 0, d)
        | none =>
          match privilegeBad d q [(64, r)] with
          | some i => (failEntry stPrivileged anyDetail i, d)
          | none => (⟨none, 1, 0, 0⟩, d)
    else
      match curatorRead (u64 b 0x10) (u32 b 0x18) d with
      | (some (st, detail), _, d) => (failEntry st detail 0xFFFF, d)
      | (none, buf, d) => (checkBuffer d q ctx (u32 b 0x18) buf, d)

/-- The submission entry a queue fetches next. -/
def nextEntry (d : Dev) (q : QRef) : Bytes :=
  let x := queueOf d q
  fetch d (x.sqBase + 64 * x.sqHead) 64

/-- The next entry of a queue in the mirror log of the secondary: its context, the entry, its buffer (R236). -/
def logDispatch (d : Dev) (q : QRef) : Option (Nat × Bytes × Bytes) :=
  if isSecondary d then
    d.chain.mirror.ctxs.findSome? (fun m =>
      m.log.findSome? (fun e =>
        match e with
        | .dispatch r b u => if r = q then some (m.ctx, b, u) else none
        | _ => none))
  else none

/-- A queue whose bound context is suppressed: it takes entries from the mirror log alone (R238, R241). -/
def logOnly (d : Dev) (q : QRef) : Bool := (queueOf d q).bound && hushed d (queueOf d q).context

/-- The fetch of the queue's next entry or of its buffer waits: for bus mastering (R337), or for a unit (R268). -/
def fetchWaits (d : Dev) (q : QRef) : Bool :=
  let x := queueOf d q
  let b := nextEntry d q
  (isHost x.sqBase && hostWaits d) || rangeWaits d (x.sqBase + 64 * x.sqHead) 64 ||
    (u8 b 0 == 0 && ((isHost (u64 b 0x10) && hostWaits d) || rangeWaits d (u64 b 0x10) (u32 b 0x18)))

/-- A queue that holds an entry whose fetch waits is ACTIVE: the curator has left its wait for a doorbell (R294). -/
def activeWait (q : QRef) (d : Dev) : Dev :=
  let x := queueOf d q
  if x.state == .idle && x.cur.isNone && !x.cqWait && !logOnly d q && x.sqTail != x.sqHead && fetchWaits d q then
    setQueue q { x with state := .active, wake := false } d
  else d

/-- The queue holds an entry that may be fetched now (R288, R295, R298, R403, R434). -/
def fetchable (d : Dev) (q : QRef) : Bool :=
  let x := queueOf d q
  (x.state == .idle || x.state == .active) && x.cur.isNone && !x.cqWait &&
    (match logDispatch d q with
     | some (c, _, _) => mirrorGoes d c
     | none =>
       !logOnly d q && x.sqTail != x.sqHead && !fetchWaits d q && !(hushed d (u16 (nextEntry d q) 2)) &&
         !logHolds d (u16 (nextEntry d q) 2))

/-- Bytes of the mirror log at their address. -/
def placeLogged (a : Nat) (bs : Bytes) (d : Dev) : Dev :=
  if isHost a then { d with host := { d.host with mem := cellsSet (low 63 a) bs d.host.mem } }
  else { d with mem := memWrite a bs d.mem }

/-- An entry of the mirror log stands where the queue fetches next, with its buffer; any other entry of an attached
context ends the replay (R242, R243). -/
def takeLogged (q : QRef) (d : Dev) : Dev :=
  let x := queueOf d q
  match logDispatch d q with
  | some (c, b, u) =>
    let d := placeLogged (u64 b 0x10) u (placeLogged (x.sqBase + 64 * x.sqHead) b d)
    let d := modMirrorCtx c (fun m => { m with log := m.log.erase (.dispatch q b u) }) d
    setQueue q { x with sqTail := (x.sqHead + 1) % sqSize x } d
  | none => modMirrorCtx (u16 (nextEntry d q) 2) (fun m => { m with replay := false }) d

/-- A queue's next entry is fetched, SQ_HEAD advances, and the entry is checked (R286, R295). The primary of a pair
forwards it (R236). -/
def dispatch (q : QRef) (d : Dev) : Dev :=
  let d := takeLogged q d
  let x := queueOf d q
  let (bad, b, d) := curatorRead (x.sqBase + 64 * x.sqHead) 64 d
  let (c, d) := match bad with
    | some (st, detail) => (failEntry st detail 0xFFFF, d)
    | none => checkEntry d q b
  let e : Entry :=
    { index := x.sqHead, tag := u64 b 8, irq := bit (u8 b 1) 0, ctx := u16 b 2
      kind := if u8 b 0 = 0 then .buffer (u64 b 0x10) (u32 b 0x18) else if u8 b 0 = 1 then .inline (b.drop 0x20) else .nop
      start := stamp d, opCount := c.opCount, paramAddr := c.paramAddr, paramBytes := c.paramBytes, next := 0,
      issues := [], failed := false, early := c.early.map (fun f => (f.1, (reported f.2.1 d).1, f.2.2)), stop := none,
      trusted := qIsKernel q && hostOwns d }
  let d := (reported anyDetail d).2
  let d := setQueue q { x with state := .active, wake := false, sqHead := (x.sqHead + 1) % sqSize x, cur := some e } d
  let d := { d with tele := { d.tele with curatorBuffers := satAdd 64 d.tele.curatorBuffers 1 } }
  let buf := if u8 b 0 = 0 ∧ c.early.isNone then fetch d (u64 b 0x10) (u32 b 0x18) else []
  forwardLog (u16 b 2) (.dispatch q b buf) d

/-- Round robin: the first of `n` numbers after `last` that satisfies a test (R295). -/
def roundRobin (n last : Nat) (p : Nat → Bool) : Option Nat :=
  ((List.range n).map (fun i => (last + 1 + i) % n)).find? p

/-- Kernel queues before user queues, each in turn (R295). The user queues considered are those with state. -/
def pickQueue (d : Dev) : Option QRef :=
  match roundRobin 16 d.cur.lastKernel (fun k => fetchable d (.kernel (Fin.ofNat 16 k))) with
  | some k => some (.kernel (Fin.ofNat 16 k))
  | none =>
    let live := d.cur.userQ.map (fun p => p.1)
    let after := live.filter (fun u => decide (d.cur.lastUser < u))
    let before := live.filter (fun u => decide (u ≤ d.cur.lastUser))
    ((after ++ before).find? (fun u => fetchable d (.user (Fin.ofNat 4096 u)))).map (fun u => .user (Fin.ofNat 4096 u))

/-- ENTRY_DISPATCH (R295). The curator dispatches nothing in the safe state (R403) and fetches nothing in D3hot
(R434). -/
def dispatchNext (d : Dev) : Dev :=
  if !d.boot.ready || d.fc.safeState || d.host.d3 then d
  else
    match pickQueue d with
    | some (.kernel k) =>
      let d := dispatch (.kernel k) d
      { d with cur := { d.cur with lastKernel := k.val } }
    | some (.user u) =>
      let d := dispatch (.user u) d
      { d with cur := { d.cur with lastUser := u.val } }
    | none => (allQueues d).foldl (fun d q => activeWait q d) d

/-- ENTRY_DISPATCH (R295). -/
def execEntryDispatch (s : State) : Host.Outcome State Fault Refusal := onDev dispatchNext s

/-- ENTRY_TERMINAL_COMPLETION (R297, R299). -/
def execEntryTerminalCompletion (q : QRef) (s : State) : Host.Outcome State Fault Refusal :=
  onMem (fun d => pumpQueue q (finishEntry q d)) s

/- QUEUE_CTL (R291, R292). -/

/-- The ACTION of a QUEUE_CTL descriptor. -/
def queueAction (d : Dev) (r : Bytes) : Nat := bits (u16 (fetch d (opnd r 0) 64) 2) 0 4

/-- The first failing field of a QUEUE_CTL descriptor by byte offset: offset and reason (R291). -/
def queueCtlBad (b : Bytes) : Option (Nat × Nat) :=
  let act := bits (u16 b 2) 0 4
  let cfg := u32 b 0x18
  let create := act == 0
  let checks : List (Bool × Nat × Nat) :=
    [ (u16 b 0 == 3, 0x00, rsHeader),
      (bits (u16 b 2) 4 12 == 0 && decide (act < 8), 0x02, rsHeader),
      (bits (u16 b 4) 12 4 == 0, 0x04, rsHeader),
      (bits (u16 b 6) 10 6 == 0, 0x06, rsHeader),
      (!create || u64 b 0x08 % 4096 == 0, 0x08, rsRing),
      (!create || u64 b 0x10 % 4096 == 0, 0x10, rsRing),
      (bits cfg 5 3 == 0 && bits cfg 13 3 == 0 && bits cfg 27 1 == 0 && bits cfg 30 2 == 0, 0x18, rsHeader),
      (!create || ringsOk 0 0 cfg, 0x18, rsRing),
      (!create || bits cfg 28 2 != 3 || u16 b 0x1C != 0, 0x1C, rsVector),
      (u16 b 0x1E == 0, 0x1E, rsHeader),
      (act != 7 || (decide (10 ≤ u32 b 0x20) && decide (u32 b 0x20 ≤ 10000)), 0x20, rsWatch),
      (act != 7 || u16 b 0x24 != 0, 0x24, rsWatch),
      ((nonzeroIn b 0x26 26).isNone, 0x26, rsHeader) ]
  (checks.find? (fun c => !c.1)).map (fun c => c.2)

/-- The context that a QUEUE_CTL descriptor names exists. -/
def ctlCtx (b : Bytes) : Act (Nat × Ctx) := do
  let d ← get
  let c := bits (u16 b 6) 0 10
  match ctxOf d c with
  | some x => pure (c, x)
  | none => failWith stBadContext anyDetail

/-- The descriptor of QUEUE_CTL, checked. -/
def queueDescr (env : OpEnv) (r : Bytes) : Act Bytes := do
  let b ← descriptor env r 64
  match queueCtlBad b with
  | some (item, reason) => badFormat item reason
  | none => pure b

def ctlQueue (b : Bytes) : QRef := .user (Fin.ofNat 4096 (u16 b 4))

/-- CREATE (Table 12.4). -/
def ctlCreate (b : Bytes) : Act OpRes := do
  let d ← get
  let q := ctlQueue b
  checkAddr (u64 b 8)
  checkAddr (u64 b 0x10)
  require (!(queueOf d q).bound) stBusy anyDetail
  let (c, _) ← ctlCtx b
  change (setQueue q { sqBase := u64 b 8, cqBase := u64 b 0x10, config := u32 b 0x18, irqCount := u16 b 0x1C,
                       context := c, bound := true })
  doneOk anyDetail

/-- DESTROY (Table 12.4). -/
def ctlDestroy (b : Bytes) : Act OpRes := do
  let d ← get
  let q := ctlQueue b
  requireFmt (queueOf d q).bound 4 rsQueue
  require ((queueOf d q).state == .disabled) stBusy anyDetail
  change (setQueue q {})
  doneOk anyDetail

/-- The context of a queue is disabled or terminated (R292, R307). -/
def ctxClosed (d : Dev) (c : Nat) : Bool :=
  match ctxOf d c with
  | some x => x.disabled || x.terminated
  | none => true

/-- ENABLE (Table 12.4). -/
def ctlEnable (b : Bytes) : Act OpRes := do
  let d ← get
  let q := ctlQueue b
  let x := queueOf d q
  requireFmt x.bound 4 rsQueue
  require (x.state == .disabled && !ctxClosed d x.context) stBusy anyDetail
  change (setQueue q { enabledQueue x with configError := false, doorbellError := false })
  doneOk anyDetail

/-- An action that has stopped queues waits until they stand as it asks. -/
def ctlWait (w : OpWait) (done : Dev → Bool) : Act OpRes := do
  let d ← get
  if done d then doneOk anyDetail else pure (.running w 0)

/-- DISABLE (R305). -/
def ctlDisable (b : Bytes) : Act OpRes := do
  let d ← get
  let q := ctlQueue b
  requireFmt (queueOf d q).bound 4 rsQueue
  change (stopQueue q stAbortedDisabled true)
  ctlWait (.queue q false) (fun d => (queueOf d q).state == .disabled)

/-- ABORT (R306). -/
def ctlAbort (b : Bytes) : Act OpRes := do
  let d ← get
  let q := ctlQueue b
  requireFmt (queueOf d q).bound 4 rsQueue
  require ((queueOf d q).state != .disabled) stBusy anyDetail
  change (stopQueue q stAborted false)
  ctlWait (.queue q true) (fun d => (queueOf d q).flush.isNone)

/-- CONTEXT_DISABLE (Table 12.4). -/
def ctlCtxDisable (b : Bytes) : Act OpRes := do
  let (c, _) ← ctlCtx b
  change (fun d => stopCtxQueues c stAbortedDisabled (modCtx c (fun x => { x with disabled := true }) d))
  ctlWait (.ctxQueues c) (fun d => (boundQueues d c).all (fun q => (queueOf d q).state == .disabled))

/-- CONTEXT_ENABLE (Table 12.4, R308). -/
def ctlCtxEnable (b : Bytes) : Act OpRes := do
  let (c, _) ← ctlCtx b
  change (modCtx c (fun x => { x with disabled := false, terminated := false }))
  doneOk anyDetail

/-- WATCH (R302). -/
def ctlWatch (b : Bytes) : Act OpRes := do
  change (fun d => { d with cur := { d.cur with watchMs := u32 b 0x20, watchCount := u16 b 0x24 } })
  doneOk anyDetail

/-- QUEUE_CTL's actions (Table 12.3). -/
def queueCtlBody : Body := fun env r => do
  let b ← queueDescr env r
  match bits (u16 b 2) 0 4 with
  | 0 => ctlCreate b
  | 1 => ctlDestroy b
  | 2 => ctlEnable b
  | 3 => ctlDisable b
  | 4 => ctlAbort b
  | 5 => ctlCtxDisable b
  | 6 => ctlCtxEnable b
  | _ => ctlWatch b

def queueCtlRow (q : QRef) (action : Nat) (s : State) : Host.Outcome State Fault Refusal :=
  actionRow q 0xC8 queueAction action [0, 1, 2, 3, 4, 5, 6, 7] queueCtlBody s

def execQueueCreate (q : QRef) (s : State) : Host.Outcome State Fault Refusal := queueCtlRow q 0 s
def execQueueDestroy (q : QRef) (s : State) : Host.Outcome State Fault Refusal := queueCtlRow q 1 s
def execQueueEnable (q : QRef) (s : State) : Host.Outcome State Fault Refusal := queueCtlRow q 2 s
def execQueueDisable (q : QRef) (s : State) : Host.Outcome State Fault Refusal := queueCtlRow q 3 s
def execQueueAbort (q : QRef) (s : State) : Host.Outcome State Fault Refusal := queueCtlRow q 4 s
def execContextDisable (q : QRef) (s : State) : Host.Outcome State Fault Refusal := queueCtlRow q 5 s
def execContextEnable (q : QRef) (s : State) : Host.Outcome State Fault Refusal := queueCtlRow q 6 s
def execWatch (q : QRef) (s : State) : Host.Outcome State Fault Refusal := queueCtlRow q 7 s

end Sys2Proof.Machine
end

