-- ==== Sys2Proof/Machine/Mailbox.lean ====
section
/-! DEFINITION. The mailbox channels, their commands' common frame, ownership and expert enables, GET_CAPS (R28, R29,
R342 to R352). -/

namespace Sys2Proof.Machine

def mbox (d : Dev) : Chan → Mailbox
  | .host => d.mbHost
  | .bmc => d.mbBmc
  | .jtag => d.mbJtag
  | .mirror => d.mbMirror

def setMbox (ch : Chan) (m : Mailbox) (d : Dev) : Dev :=
  match ch with
  | .host => { d with mbHost := m }
  | .bmc => { d with mbBmc := m }
  | .jtag => { d with mbJtag := m }
  | .mirror => { d with mbMirror := m }

/-- STATUS.OWNER codes (Table 14.4). -/
def chanCode : Chan → Nat
  | .host => 1
  | .bmc => 2
  | .jtag => 3
  | .mirror => 4

def ownerCode (o : Option Chan) : Nat :=
  match o with
  | some c => chanCode c
  | none => 0

def chanOfCode (n : Nat) : Option Chan :=
  match n with
  | 1 => some .host
  | 2 => some .bmc
  | 3 => some .jtag
  | 4 => some .mirror
  | _ => none

/-- Life-cycle codes (Table 14.4). -/
def lcBlank : Nat := 0
def lcMaker : Nat := 1
def lcSealed : Nat := 2
def lcReturn : Nat := 3

/-- The channel is open: from stage 2; in BLANK JTAG only and never in production test; JTAG never in SEALED (R354,
R368, R444, R450). -/
def chanOpen (d : Dev) (ch : Chan) : Bool :=
  decide (2 ≤ d.boot.stage) &&
    (match ch with
     | .jtag => d.trust.lifecycle != lcSealed && !(d.trust.lifecycle == lcBlank && d.boot.testEn)
     | _ => d.trust.lifecycle != lcBlank)

/- Messages (R343, R344). -/

/-- The message header of a response (Table 14.6). -/
def respHeader (command status tag len : Nat) : Bytes :=
  leBytes 2 command ++ leBytes 2 status ++ leBytes 4 tag ++ leBytes 2 len ++ leBytes 2 1 ++ leBytes 4 0

/-- A response: payload, then header with RESPONSE set; BUSY clears, DONE sets, VECTOR is signalled (R343). On the
mirror channel the response goes back as a message (R355). -/
def respond (ch : Chan) (status : Nat) (payload : Bytes) (d : Dev) : Dev :=
  let m := mbox d ch
  match m.msg with
  | none => d
  | some g =>
    let h := respHeader g.command status g.tag payload.length
    match ch with
    | .mirror =>
      let d := setMbox ch { m with msg := none, busy := false, entropy := false, march := false
                                   replies := m.replies ++ [h ++ payload] } d
      sendMirror (.mgmt (.mailbox (h ++ payload))) d
    | ch =>
      let m' := { m with buf := cellsSet 0x40 h (cellsSet 0x50 payload m.buf), msg := none, busy := false, done := true,
                         entropy := false, march := false }
      let d := setMbox ch m' d
      if ch == .host && m.irqEn then signal m.vector d else d

/-- A failing message: its status, with a detail word as payload (R344). -/
def respondFail (ch : Chan) (status detail : Nat) (d : Dev) : Dev :=
  respond ch status (leBytes 8 (reported detail d).1) (reported detail d).2

/-- Table 14.7. -/
def mailCommands : List Nat :=
  [0x01, 0x10, 0x11, 0x12, 0x13, 0x20, 0x21, 0x30, 0x31, 0x40, 0x41, 0x42, 0x50, 0x60, 0x70, 0x80, 0x90]

/-- A message is taken into service: header checks of R344 that do not depend on the command fail at once. What a request
with the RESPONSE bit set does is not stated: it is refused as a bad field, DESIGN CHOICE (log 73). -/
def takeMessage (ch : Chan) (h payload : Bytes) (d : Dev) : Dev :=
  let m := mbox d ch
  let g : MailMsg := { command := u16 h 0, tag := u32 h 4, payload := payload }
  let d := setMbox ch { m with busy := true, done := false, msg := some g, entropy := false, march := false } d
  if u16 h 8 > 4096 then respondFail ch stBadFormat (itemReason 8 0) d
  else if u16 h 10 ≠ 0 ∨ u32 h 12 ≠ 0 then respondFail ch stBadFormat (itemReason 10 0) d
  else if !mailCommands.contains (u16 h 0) then respondFail ch stBadFormat (itemReason 0 0) d
  else d

/-- GO is written (R343). -/
def goWrite (ch : Chan) (d : Dev) : Dev :=
  let m := mbox d ch
  if m.busy then setMbox ch { m with rejected := true } d
  else
    let h := cellsRead 0x40 16 m.buf
    takeMessage ch h (cellsRead 0x50 (min 4096 (u16 h 8)) m.buf) d

/-- A write to the mailbox buffer; ignored while BUSY (R343). -/
def bufferWrite (ch : Chan) (o : Nat) (bs : Bytes) (d : Dev) : Dev :=
  let m := mbox d ch
  if m.busy then d else setMbox ch { m with buf := cellsSet o bs m.buf } d

/-- One 32-bit write into a mailbox block laid out as Table 14.5. -/
def mboxWrite32 (ch : Chan) (o v : Nat) (d : Dev) : Dev :=
  let m := mbox d ch
  if o = 0 then
    let d := setMbox ch { m with irqEn := bit v 1, vector := bits v 16 11 } d
    if bit v 0 then goWrite ch d else d
  else if o = 4 then
    setMbox ch { m with done := m.done && !bit v 1, rejected := m.rejected && !bit v 2 } d
  else if 0x40 ≤ o ∧ o < 0x1050 then bufferWrite ch o (leBytes 4 v) d
  else d

/-- A byte-wise write into a mailbox block: control words take whole aligned words, the buffer any bytes. -/
def mboxWriteByte (ch : Chan) (o : Nat) (b : Byte) (d : Dev) : Dev :=
  let m := mbox d ch
  if 0x40 ≤ o ∧ o < 0x1050 then bufferWrite ch o [b] d
  else if o = 0 then
    let d := setMbox ch { m with irqEn := b.getLsbD 1 } d
    if b.getLsbD 0 then goWrite ch d else d
  else if o = 2 then setMbox ch { m with vector := m.vector / 256 * 256 + b.toNat } d
  else if o = 3 then setMbox ch { m with vector := m.vector % 256 + b.toNat % 8 * 256 } d
  else if o = 4 then setMbox ch { m with done := m.done && !b.getLsbD 1, rejected := m.rejected && !b.getLsbD 2 } d
  else d

/-- A 32-bit read of a mailbox block. The buffer reads undefined data while BUSY (R343): free bytes. -/
def mboxRead32 (d : Dev) (ch : Chan) (o : Nat) : Nat :=
  let m := mbox d ch
  if o = 0 then 2 * ofBool m.irqEn + m.vector * 2 ^ 16
  else if o = 4 then ofBool m.busy + 2 * ofBool m.done + 4 * ofBool m.rejected
  else if 0x40 ≤ o ∧ o < 0x1050 then
    if m.busy then leNat ((List.range 4).map (fun i => Config.busyByte d.free (o + i)))
    else leNat (cellsRead o 4 m.buf)
  else 0

/- The frame of a command. -/

/-- What a command's body is given: its channel, and the bytes drawn for it. -/
structure MailEnv where
  ch : Chan
  drawn : Option Bytes
  deriving DecidableEq, Repr

/-- A command: its code, the payload lengths it accepts, whether only the owner may send it, and whether it is served
before READY (R344, R345). -/
structure MailCmd where
  code : Nat
  lens : List (Nat × Nat)
  owner : Bool
  early : Bool
  deriving DecidableEq, Repr

def lenOk (c : MailCmd) (n : Nat) : Bool := c.lens.any (fun p => decide (p.1 ≤ n) && decide (n ≤ p.2))

/-- ITEM of payload byte `o`, counted from the header (R344). -/
def mailItem (o : Nat) : Nat := 16 + o

def mailBad {α : Type} (o : Nat) : Act α := badFormat (mailItem o) 0

/-- The checks before a command's own (R344, R345): length, READY, owner. -/
def mailChecks (c : MailCmd) (d : Dev) (ch : Chan) (payload : Bytes) : Option (Nat × Nat) :=
  if !lenOk c payload.length then some (stBadFormat, itemReason 8 0)
  else if !c.early && !d.boot.ready then some (stBusy, 0)
  else if c.owner && d.own.owner != some ch then some (stPrivileged, 0)
  else none

/-- The message that waits on a channel to be served: of this command, not already waiting for entropy or a march. -/
def mailDue (d : Dev) (ch : Chan) (code : Nat) : Option MailMsg :=
  let m := mbox d ch
  match m.msg with
  | some g => if g.command == code && !m.entropy && !m.march && chanOpen d ch then some g else none
  | none => none

/-- The outcome of a command's body is put into effect; `d` is the device before it. -/
def settleMail (ch : Chan) (d : Dev) (r : EStateM.Result Stop Dev (Option Bytes)) : Dev :=
  match r with
  | .ok (some p) d' => respond ch stOk p d'
  | .ok none d' => setMbox ch { mbox d' ch with march := true } d'
  | .error (.fail st detail) d' => respondFail ch st detail d'
  | .error (.entropy n) _ =>
    if d.ent.failed then respondFail ch stRngFailed anyDetail d
    else setMbox ch { mbox d ch with entropy := true } { d with ent := { d.ent with waiting := d.ent.waiting ++ [.mail ch n] } }
  | .error _ _ => d

/-- A body of a mailbox command: its payload in, its response payload out; `none`: the response comes later. -/
abbrev MailBody := MailEnv → Bytes → Act (Option Bytes)

/-- The message on a channel is served, if it is this row's: `mine` looks at the payload. -/
def serveMail (ch : Chan) (c : MailCmd) (mine : Bytes → Bool) (body : MailBody) (d : Dev) : Dev :=
  match mailDue d ch c.code with
  | none => d
  | some g =>
    if mine g.payload then
      match mailChecks c d ch g.payload with
      | some (st, detail) => respondFail ch st detail d
      | none => settleMail ch d (body { ch := ch, drawn := none } g.payload d)
    else d

def mailRow (ch : Chan) (c : MailCmd) (mine : Bytes → Bool) (body : MailBody) (s : State) :
    Host.Outcome State Fault Refusal := onMem (serveMail ch c mine body) s

/-- Every message of the command is this row's. -/
def anyMessage (_ : Bytes) : Bool := true

/-- Messages whose first field is `v`, or none of the family's values. -/
def ofAction (read : Bytes → Nat) (v : Nat) (all : List Nat) (p : Bytes) : Bool := read p == v || !all.contains (read p)

/- GET_CAPS (R28, R347). -/

def le4s (l : List Nat) : Bytes := l.flatMap (leBytes 4)

/-- The capability table (Tables 1.5, 14.8). -/
def capBytes : Bytes :=
  leBytes 2 1 ++ leBytes 2 0xB0 ++ leBytes 2 0xB0 ++ leBytes 2 0x60 ++
  le4s [4, 4, 20, 32, 8, 393216, 16, 16777216, 64, 32768, 32768] ++
  le4s [128, 32768, 64, 16, 12288, 16384, 8, 64, 16, 2, 256, 4096] ++
  le4s [256, 512, 64, 16, 32, 400, 2000, 32, 8533] ++ leBytes 8 274877906944 ++
  le4s [16, 2048, 15, 1024, 4096, 16, 2048] ++ leBytes 4 0

/-- The availability map (Table 14.8). Before READY every field reads 0. -/
def availBytes (d : Dev) : Bytes :=
  if d.boot.ready then
    let a := d.avail
    leBytes 4 a.generation ++ leBytes 2 a.halls.toNat ++ leBytes 2 a.links.toNat ++ leBytes 4 a.channels.toNat ++
    leBytes 4 a.mts ++ leBytes 8 a.lpBytes ++ leBytes 1 a.pcieGen ++ leBytes 1 a.pcieWidth ++ leBytes 6 0 ++
    (a.galleries.flatMap (fun g => leBytes 4 g.toNat))
  else List.replicate 96 0

def cmdGetCaps : MailCmd := ⟨0x01, [(0, 0)], false, true⟩

def bodyGetCaps : MailBody := fun _ _ => do
  let d ← get
  pure (some (capBytes ++ availBytes d))

/-- GET_CAPS (R347). -/
def execGetCaps (ch : Chan) (s : State) : Host.Outcome State Fault Refusal :=
  mailRow ch cmdGetCaps anyMessage bodyGetCaps s

/- Ownership (R348 to R351). -/

def ms : Nat := 1000000

/-- Whole milliseconds since the owner's last heartbeat (R349). -/
def silentMs (d : Dev) : Nat := (d.clock - d.own.lastBeat) / ms

/-- A change of owner clears EXPERT, closes sessions and logs an event (R351, R365, R383). -/
def changeOwner (o : Option Chan) (d : Dev) : Dev :=
  logOpen 0x03 5 dieNorth (ownerCode o) (ownerCode d.own.owner) 0
    { d with own := { d.own with owner := o, expert := 0#16, handover := none, silent := false }
             trust := { d.trust with fw := none, calw := none } }

/-- The owner's heartbeat (R349). -/
def beat (d : Dev) : Dev := { d with own := { d.own with lastBeat := d.clock, silent := false } }

def claimBytes (d : Dev) : Bytes := leBytes 4 (ownerCode d.own.owner + d.own.overrides * 2 ^ 16)

/-- A claim succeeds: the period is taken, and it counts as a heartbeat. -/
def claimed (period : Nat) : Act (Option Bytes) := do
  change (fun d => beat { d with own := { d.own with heartbeatMs := period } })
  let d ← get
  pure (some (claimBytes d))

/-- OWN_CLAIM (R349, R350). -/
def bodyOwnClaim : MailBody := fun env p => do
  let d ← get
  let period := u32 p 4
  if u32 p 0 / 2 ≠ 0 then mailBad 0
  else if period < 10 ∨ 60000 < period then mailBad 4
  else
    match d.own.owner with
    | none => do
      change (changeOwner (some env.ch))
      claimed period
    | some o =>
      if o = env.ch then claimed period
      else if (d.own.handover.map (fun h => h.1)) == some env.ch then do
        change (changeOwner (some env.ch))
        claimed period
      else if bit (u32 p 0) 0 && decide (d.own.heartbeatMs ≤ silentMs d) then do
        change (fun d => changeOwner (some env.ch)
          { d with own := { d.own with overrides := satAdd 16 d.own.overrides 1 } })
        claimed period
      else failWith stBusy (chanCode o + min (2 ^ 32 - 1) (silentMs d) * 2 ^ 32)

def cmdOwnClaim : MailCmd := ⟨0x10, [(8, 8)], false, true⟩

/-- OWN_CLAIM (R349). -/
def execOwnClaim (ch : Chan) (s : State) : Host.Outcome State Fault Refusal :=
  mailRow ch cmdOwnClaim anyMessage bodyOwnClaim s

/-- OWN_RELEASE (R350). -/
def bodyOwnRelease : MailBody := fun _ _ => do
  change (changeOwner none)
  pure (some [])

def execOwnRelease (ch : Chan) (s : State) : Host.Outcome State Fault Refusal :=
  mailRow ch ⟨0x11, [(0, 0)], true, true⟩ anyMessage bodyOwnRelease s

/-- OWN_HANDOVER (R350). -/
def bodyOwnHandover : MailBody := fun env p => do
  let t := bits (u32 p 0) 0 3
  if u32 p 0 / 8 ≠ 0 ∨ 4 < t ∨ t = chanCode env.ch then mailBad 0
  else do
    change (fun d => { d with own := { d.own with handover := (chanOfCode t).map (fun c => (c, d.clock)) } })
    pure (some [])

def execOwnHandover (ch : Chan) (s : State) : Host.Outcome State Fault Refusal :=
  mailRow ch ⟨0x12, [(4, 4)], true, false⟩ anyMessage bodyOwnHandover s

/-- A pending handover lapses (R350). -/
def lapseHandover (d : Dev) : Dev :=
  match d.own.handover with
  | some (c, t) =>
    logOpen 0x03 6 dieNorth (chanCode c) 0 0
      (tickTo (t + d.own.heartbeatMs * ms) { d with own := { d.own with handover := none } })
  | none => d

/-- HANDOVER_LAPSE (R350). -/
def execHandoverLapse (s : State) : Host.Outcome State Fault Refusal := onDev lapseHandover s

/-- OWNER_SILENT sets (R349). -/
def ownerSilent (d : Dev) : Dev :=
  match d.own.owner with
  | some _ =>
    if d.own.silent then d
    else
      let d := tickTo (d.own.lastBeat + d.own.heartbeatMs * ms) d
      { d with own := { d.own with silent := true } }
  | none => d

/-- OWNER_SILENT (R349). -/
def execOwnerSilent (s : State) : Host.Outcome State Fault Refusal := onDev ownerSilent s

/-- A write of STATUS.HEARTBEAT (R349). -/
def heartbeatWrite (d : Dev) : Dev := if hostOwns d then beat d else d

/-- HEARTBEAT (R349). -/
def execHeartbeat (_value : BitVec 32) (s : State) : Host.Outcome State Fault Refusal :=
  onDev (fun d => if hostReach d then heartbeatWrite d else d) s

/-- EXPERT_ENABLE (R352). -/
def bodyExpert : MailBody := fun _ p => do
  let d ← get
  let on := u16 p 0
  let off := u16 p 4
  if on / 2 ^ 7 ≠ 0 then mailBad 0
  else if u16 p 2 ≠ 0 then mailBad 2
  else if off / 2 ^ 7 ≠ 0 then mailBad 4
  else if u16 p 6 ≠ 0 then mailBad 6
  else if bit on 6 && d.trust.lifecycle == lcSealed then failWith stPrivileged anyDetail
  else do
    let e := (d.own.expert ||| BitVec.ofNat 16 on) &&& ~~~ BitVec.ofNat 16 off
    change (fun d => { d with own := { d.own with expert := e } })
    pure (some (leBytes 4 e.toNat))

def execExpertEnable (ch : Chan) (s : State) : Host.Outcome State Fault Refusal :=
  mailRow ch ⟨0x13, [(8, 8)], true, false⟩ anyMessage bodyExpert s

/- Expert functions (Table 14.10). -/
def exLoad : Nat := 0
def exAnneal : Nat := 1
def exTensor : Nat := 2
def exChain : Nat := 3
def exPower : Nat := 4
def exFault : Nat := 5
def exEntropy : Nat := 6

def expertOn (d : Dev) (b : Nat) : Bool := d.own.expert.getLsbD b

/-- R14: an expert control whose function is not enabled. -/
def needExpert (b : Nat) : Act Unit := do
  let d ← get
  require (expertOn d b) stPrivileged anyDetail

/- The management port and JTAG (R353, R354). -/

/-- Bytes of an I3C write that fall in the BMC's mailbox are written there. -/
def i3cBytes (o : Nat) : Bytes → Dev → Dev
  | [], d => { d with ports := { d.ports with i3cOffset := o } }
  | b :: bs, d =>
    i3cBytes (o + 1) bs (if 0x10000 ≤ o ∧ o < 0x12000 then mboxWriteByte .bmc (o - 0x10000) b d else d)

/-- I3C_PRIVATE_WRITE (R353): a 4-byte offset, then data at ascending offsets. -/
def i3cWrite (data : Bytes) (d : Dev) : Dev :=
  if decide (4 ≤ data.length) && chanOpen d .bmc then
    let d' := i3cBytes (u32 data 0) (data.drop 4) d
    { d' with ports := { d'.ports with i3cOffset := u32 data 0 } }
  else d

def execI3cPrivateWrite (data : Bytes) (s : State) : Host.Outcome State Fault Refusal := onDev (i3cWrite data) s

/-- I3C_DYNAMIC_ADDRESS (R353). -/
def execI3cDynamicAddress (address : BitVec 7) (s : State) : Host.Outcome State Fault Refusal :=
  onDev (fun d => { d with ports := { d.ports with i3cDynamic := some address.toNat } }) s

/-- MBOX_ACCESS (R354): data [31:0], offset [47:32], write [48]. A read leaves its value in the data register. In
SEALED the instruction acts as BYPASS. An offset of the buffer that is not aligned acts byte by byte, DESIGN CHOICE
(log 73). -/
def mboxAccess (dr : Nat) (d : Dev) : Dev :=
  let o := bits dr 32 16
  if !chanOpen d .jtag then d
  else if bit dr 48 then { mboxWrite32 .jtag o (low 32 dr) d with ports := { d.ports with jtagData := dr } }
  else { d with ports := { d.ports with jtagData := dr / 2 ^ 32 * 2 ^ 32 + mboxRead32 d .jtag o } }

def execMboxAccess (dr : BitVec 64) (s : State) : Host.Outcome State Fault Refusal := onDev (mboxAccess dr.toNat) s

end Sys2Proof.Machine
end

