-- ==== Sys2Proof/Machine/Catalogue.lean ====
section
/-! DEFINITION. The catalogue: taking events, overwriting, marked rows, drain, reload, reading and clearing (R409 to
R418). -/

namespace Sys2Proof.Machine

def setCat (c : Catalogue) (d : Dev) : Dev := { d with cat := c }

/-- Slots in rows that are in use (R414). -/
def catCapacity (c : Catalogue) : Nat := (256 - c.badRows.length) * 32

/-- The lowest slot of a usable row that holds no record. -/
def freeSlot (c : Catalogue) : Nat :=
  ((List.range 8192).find? (fun s => !c.badRows.contains (s / 32) && !c.records.any (fun r => r.slot == s))).getD 0

/-- R413: the record a new one of severity `s` overwrites: the oldest of the lowest severity present. -/
def victim (s : Nat) (l : List CatRecord) : Option CatRecord :=
  let m := l.foldl (fun m r => min m r.ev.severity) 8
  if m ≤ s then l.find? (fun r => r.ev.severity == m) else none

/-- A record for an event, with the next write index. -/
def newRecord (d : Dev) (e : Event) (slot : Nat) (emergency : Bool) : CatRecord :=
  { windex := d.cat.nextIndex, slot := slot, ev := { e with repeats := min 0xFFFF e.repeats },
    emergency := emergency, reloaded := false, opTime := opTime d, cycles := d.cat.powerCycles }

def bumpIndex (c : Catalogue) : Catalogue := { c with nextIndex := low 32 (c.nextIndex + 1) }

/-- A record goes to the spill ring; the oldest sector is erased when the ring is full (R415). -/
def flashAppend (r : CatRecord) (c : Catalogue) : Catalogue :=
  let room := (0x4000000 + Config.flashExtra - 0x3010000) / 32
  let old := if c.flash.length < room then c.flash else c.flash.drop 2048
  { c with flash := old ++ [r], flashPos := c.flashPos + 32, flashOk := true }

/-- A record is written into an emergency slot, R413 applying among 16, and at once to flash (R414). -/
def emergencyWrite (e : Event) (d : Dev) : Dev :=
  let r := newRecord d e 0 true
  let c := bumpIndex d.cat
  let put (l : List CatRecord) (c : Catalogue) : Catalogue :=
    let c := { c with emergency := l ++ [r] }
    if c.flashOk then flashAppend r c else c
  if c.emergency.length < 16 then setCat (put c.emergency c) d
  else
    match victim e.severity c.emergency with
    | some v => setCat (put (c.emergency.filter (fun x => x.windex != v.windex)) { c with overwritten := satAdd 32 c.overwritten 1 }) d
    | none => setCat { d.cat with dropped := satAdd 32 d.cat.dropped 1 } d

/-- A new record starts to be written (R412, R413). -/
def startRecord (e : Event) (d : Dev) : Dev :=
  let c := d.cat
  if catCapacity c = 0 then emergencyWrite e d
  else if c.records.length < catCapacity c then
    setCat (bumpIndex { c with writing := some (newRecord d e (freeSlot c) false, 0) }) d
  else
    match victim e.severity c.records with
    | some v =>
      setCat (bumpIndex { c with records := c.records.filter (fun r => r.windex != v.windex),
                                 overwritten := satAdd 32 c.overwritten 1,
                                 writing := some (newRecord d e v.slot false, 0) }) d
    | none => setCat { c with dropped := satAdd 32 c.dropped 1 } d

/-- An uncorrectable catalogue row leaves use (R414); its loss is recorded in an emergency slot. -/
def markRow (row : Nat) (d : Dev) : Dev :=
  let c := d.cat
  if c.badRows.contains row then d
  else
    let lost := (c.records.filter (fun r => r.slot / 32 == row)).length
    let w := match c.writing with
      | some (r, _) => if r.slot / 32 = row then some r.ev else none
      | none => none
    let c' := { c with
      badRows := c.badRows ++ [row]
      records := c.records.filter (fun r => r.slot / 32 != row)
      writing := if w.isSome then none else c.writing }
    let e : Event :=
      { code := 0x0E02, severity := 6, injected := false, die := dieNorth, p0 := row, p1 := lost,
        p2 := 255 - c.badRows.length, repeats := 0 }
    let d := emergencyWrite e (setCat c' d)
    match w with
    | some ev => emergencyWrite ev d
    | none => d

/-- A pending injection at the catalogue's memory is met by the next read of a row (R406). -/
def catalogueRead (row : Nat) (d : Dev) : Dev :=
  match d.fc.injected.find? (fun i => i.1 == 337 || i.1 == 338) with
  | some (s, kind) =>
    let d := dropInjection s d
    if kind = 1 then assertAll [{ source := 338, rail := false, injected := true, detail := row }] d
    else assertAll [{ source := 337, rail := false, injected := true, detail := row }] (markRow row d)
  | none => d

/-- The newest valid record (R412). -/
def newestRecord (c : Catalogue) : Option CatRecord := c.records.getLast?

/-- The newest record's REPEAT rises; drained already, it is drained again (R415). -/
def mergeNewest (n : Nat) (c : Catalogue) : Catalogue :=
  match c.records.getLast? with
  | some r =>
    { c with
      records := c.records.dropLast ++ [{ r with ev := { r.ev with repeats := min 0xFFFF (r.ev.repeats + n) } }]
      redrain := if decide (r.windex < c.drained) && !c.redrain.contains r.windex then c.redrain ++ [r.windex] else c.redrain }
  | none => c

/-- The catalogue takes its oldest queued event (R412). An event that is not identical to the record being written
waits until that write ends. -/
def catalogueTake (d : Dev) : Dev :=
  match d.cat.input with
  | [] => d
  | e :: rest =>
    match d.cat.writing with
    | some (r, n) =>
      if sameEvent e r.ev then
        setCat { d.cat with input := rest, writing := some (r, n + e.repeats + 1) } d
      else d
    | none =>
      let d := setCat { d.cat with input := rest } d
      match newestRecord d.cat with
      | some r =>
        if sameEvent e r.ev then catalogueRead (r.slot / 32) (setCat (mergeNewest (e.repeats + 1) d.cat) d)
        else startRecord e d
      | none => startRecord e d

/-- CATALOGUE_TAKE (R412). -/
def execCatalogueTake (s : State) : Host.Outcome State Fault Refusal := onDev catalogueTake s

/-- The record being written becomes valid, and its pending repeats are added (R410, R412). -/
def recordValid (d : Dev) : Dev :=
  match d.cat.writing with
  | some (r, n) =>
    let r := { r with ev := { r.ev with repeats := min 0xFFFF (r.ev.repeats + n) } }
    setCat { d.cat with writing := none, records := d.cat.records ++ [r] } d
  | none => d

/-- CATALOGUE_RECORD_VALID (R410, R412). -/
def execCatalogueRecordValid (s : State) : Host.Outcome State Fault Refusal := onDev recordValid s

/-- The record to drain next: the lowest write index not in flash, or drained before its REPEAT changed. -/
def toDrain (c : Catalogue) : Option CatRecord :=
  c.records.find? (fun r => decide (c.drained ≤ r.windex) || c.redrain.contains r.windex)

/-- A pending injection at a flash source is met by the next access of its kind (R406). -/
def flashInjection (s : Nat) (d : Dev) : Bool × Dev :=
  if d.fc.injected.any (fun i => i.1 == s) then
    (true, assertAll [{ source := s, rail := false, injected := true, detail := d.cat.flashPos }] (dropInjection s d))
  else (false, d)

/-- A record is programmed into the spill ring, or its program fails (R415). -/
def drainOne (ok : Bool) (d : Dev) : Dev :=
  match toDrain d.cat with
  | none => d
  | some r =>
    let (hit, d) := flashInjection 339 d
    if ok && !hit then
      let c := flashAppend r d.cat
      setCat { c with drained := max c.drained (r.windex + 1), redrain := c.redrain.filter (· != r.windex) } d
    else
      let pos := d.cat.flashPos
      let d := setCat { d.cat with flashOk := false, flashPos := (pos / 65536 + 1) * 65536 } d
      let d := if hit then d else raise 339 pos d
      logSev 0x0E03 4 dieNorth pos r.windex 0 false d

/-- CATALOGUE_DRAIN (R415). -/
def execCatalogueDrain (ok : Bool) (s : State) : Host.Outcome State Fault Refusal := onDev (drainOne ok) s

/- Power-on: row test and reload (R414, R415). -/

/-- Flash records in write order, each in its last copy, from the newest 0x0E01 on. -/
def reloadable (c : Catalogue) : List CatRecord :=
  let last := c.flash.foldl (fun l r => l.filter (fun x => x.windex != r.windex) ++ [r]) ([] : List CatRecord)
  match last.reverse.findIdx? (fun r => r.ev.code == 0x0E01) with
  | some i => last.drop (last.length - 1 - i)
  | none => last

/-- One record reloaded under R413. -/
def reloadOne (c : Catalogue) (r : CatRecord) : Catalogue :=
  let r := { r with reloaded := true, emergency := false }
  if c.records.length < catCapacity c then { c with records := c.records ++ [{ r with slot := freeSlot c }] }
  else
    match victim r.ev.severity c.records with
    | some v => { c with records := c.records.filter (fun x => x.windex != v.windex) ++ [{ r with slot := v.slot }],
                         overwritten := satAdd 32 c.overwritten 1 }
    | none => { c with dropped := satAdd 32 c.dropped 1 }

/-- The catalogue after a power-on reset: flash, operating counts and what reloads (R410, R414, R415). -/
def catalogueReload (badRows : List Nat) (readable : Bool) (c : Catalogue) : Catalogue :=
  let base : Catalogue :=
    { badRows := badRows, flash := c.flash, flashPos := c.flashPos, powerCycles := c.powerCycles,
      input := c.input, flashOk := readable }
  if readable then
    let l := reloadable c
    let next := match (c.flash.map (fun r => r.windex)).foldl (fun m w => match m with
          | some k => some (max k w)
          | none => some w) none with
      | some k => low 32 (k + 1)
      | none => 0
    let n := l.foldl reloadOne base
    enqueueEvent { code := 0x0E04, severity := 1, injected := false, die := dieNorth, p0 := n.records.length,
                   p1 := c.powerCycles, p2 := 0, repeats := 0 } { n with nextIndex := next, drained := next }
  else base

/- Reading (R416, R417). -/

/-- The 32 bytes of a record (Table 16.5). -/
def recordBytes (r : CatRecord) : Bytes :=
  let flags := r.ev.severity + 8 * ofBool r.ev.injected + 16 * ofBool r.emergency + 32 * ofBool r.reloaded
  let head (valid rep : Nat) : Bytes :=
    leBytes 1 valid ++ leBytes 1 flags ++ leBytes 2 r.ev.code ++ leBytes 4 r.opTime ++ leBytes 3 r.cycles ++
    leBytes 1 r.ev.die ++ leBytes 2 rep ++ leBytes 2 r.windex ++ leBytes 4 r.ev.p0 ++ leBytes 4 r.ev.p1 ++ leBytes 4 r.ev.p2
  head 0xA5 r.ev.repeats ++ leBytes 4 (crc32c (head 0 0))

/-- The record that CURSOR and SPACE name. -/
def shown (c : Catalogue) : Option CatRecord :=
  if c.space then c.emergency[c.cursor]? else c.records.find? (fun r => r.windex == c.cursor)

/-- A write to ADVANCE (R416). -/
def advanceCursor (c : Catalogue) : Catalogue :=
  if c.space then { c with cursor := if c.cursor + 1 < c.emergency.length then c.cursor + 1 else c.nextIndex }
  else
    match c.records.find? (fun r => decide (c.cursor < r.windex)) with
    | some r => { c with cursor := r.windex }
    | none => { c with cursor := c.nextIndex }

/-- ADVANCE (R416). -/
def execAdvance (s : State) : Host.Outcome State Fault Refusal :=
  onDev (fun d => if hostReach d then setCat (advanceCursor d.cat) d else d) s

/-- A 32-bit read of the catalogue window (Table 16.7). -/
def catReg (d : Dev) (o : Nat) : Nat :=
  let c := d.cat
  if o = 0 then c.cursor
  else if o = 4 then ofBool c.space
  else if o = 0x0C then ofBool (shown c).isSome
  else if o = 0x10 then c.nextIndex
  else if o = 0x14 then c.records.length
  else if o = 0x18 then c.dropped
  else if o = 0x1C then c.overwritten
  else if o = 0x20 then c.badRows.length + c.emergency.length * 2 ^ 16
  else if o = 0x24 then c.drained
  else if o = 0x28 then ofBool c.flashOk
  else if 0x40 ≤ o ∧ o < 0x60 then
    match shown c with
    | some r => u32 (recordBytes r) (o - 0x40)
    | none => 0
  else 0

/-- LOG_READ (R417). -/
def bodyLogRead : MailBody := fun _ p => do
  let space := u8 p 0
  let first := u32 p 4
  if 2 < space then mailBad 0
  else
    match nonzeroIn p 1 3 with
    | some o => mailBad o
    | none => do
      let d ← get
      let c := d.cat
      let l := if space = 0 then c.records.filter (fun r => decide (first ≤ r.windex))
        else if space = 1 then c.emergency.drop first
        else c.flash.filter (fun r => decide (first ≤ r.windex))
      let l := l.take 127
      if space = 0 then change (catalogueRead ((l.head?.map (fun r => r.slot / 32)).getD 0)) else pure ()
      pure (some (le4s [c.nextIndex, c.records.length, c.dropped, c.overwritten,
        c.badRows.length + c.emergency.length * 2 ^ 16, c.drained, l.length, 0] ++ l.flatMap recordBytes))

def execLogRead (ch : Chan) (s : State) : Host.Outcome State Fault Refusal :=
  mailRow ch ⟨0x30, [(8, 8)], false, true⟩ anyMessage bodyLogRead s

/- Signed tokens (R371, R372, R418). -/

/-- Numbers of the context strings of Table 15.1. -/
def ctxFw : Nat := 0
def ctxQuote : Nat := 1
def ctxReturn : Nat := 2

/-- The offset of a token's first failing field: fields, then signature (R371, R418). -/
def tokenBad (d : Dev) (magic : Nat) (scopeOk : Nat → Bool) (t : Bytes) : Option Nat :=
  if u32 t 0 ≠ magic then some 0
  else if u32 t 4 ≠ 0 then some 4
  else if u64 t 8 ≠ d.trust.uniqueId then some 8
  else if d.trust.nonce ≠ some ((t.drop 0x10).take 32) then some 0x10
  else if !scopeOk (u8 t 0x30) then some 0x30
  else
    match nonzeroIn t 0x31 15 with
    | some o => some o
    | none => if Config.mldsaVerify Config.tokenKey ctxReturn (t.take 0x40) ((t.drop 0x40).take 3309) then none else some 0x40

/-- The device nonce is consumed (R372). -/
def useNonce (d : Dev) : Dev := { d with trust := { d.trust with nonce := none } }

/-- The selected spaces are emptied; event 0x0E01 is the first taken afterwards (R418). -/
def clearSpaces (scope : Nat) (c : Catalogue) : Catalogue :=
  let e : Event :=
    { code := 0x0E01, severity := 7, injected := false, die := dieNorth, p0 := scope, p1 := c.records.length,
      p2 := c.dropped, repeats := 0 }
  { c with
    records := if bit scope 0 then [] else c.records
    writing := if bit scope 0 then none else c.writing
    emergency := if bit scope 1 then [] else c.emergency
    flash := if bit scope 2 then [] else c.flash
    redrain := if bit scope 0 then [] else c.redrain
    dropped := 0, overwritten := 0, input := e :: c.input }

/-- LOG_CLEAR (R418). -/
def bodyLogClear : MailBody := fun _ p => do
  let d ← get
  match tokenBad d 0x4C43584C (fun s => decide (1 ≤ s) && decide (s < 8)) p with
  | some o => do
    change (fun d => logEv 0x0207 dieNorth 0x31 o 0 (useNonce d))
    failWith stPrivileged anyDetail
  | none => do
    change (fun d => setCat (clearSpaces (u8 p 0x30) d.cat) (useNonce d))
    pure (some [])

def execLogClear (ch : Chan) (s : State) : Host.Outcome State Fault Refusal :=
  mailRow ch ⟨0x31, [(3373, 3373)], true, false⟩ anyMessage bodyLogClear s

end Sys2Proof.Machine
end

