-- ==== Sys2Proof/Machine/Collectors.lean ====
section
/-! DEFINITION. The fault collector's commands: assertion, acknowledgement, fallback, injection, configuration
(R394 to R408, R447). -/

namespace Sys2Proof.Machine

/-- A source asserts, on its pair or as a wire fault (R394, R396). A pending injection at the source is the check
that this assertion reports (R406). An assertion of source 337 marks its row out (R414). -/
def faultAssert (src : Nat) (rail : Bool) (detail : Nat) (d : Dev) : Dev :=
  let injected := d.fc.injected.any (fun i => i.1 == src)
  let d := dropInjection src d
  if rail then
    if (sourceInfo src).isNone then d
    else
      let d := { d with fc := { d.fc with wireFaults := satAdd 32 d.fc.wireFaults 1 } }
      assertAll [{ source := src, rail := true, injected := injected, detail := detail },
                 { source := 336, rail := false, injected := injected, detail := src }] d
  else
    let d := if src = 337 then markRow (low 8 detail) d else d
    assertAll [{ source := src, rail := false, injected := injected, detail := detail }] d

/-- FAULT_ASSERT (R396). -/
def execFaultAssert (src : Source) (rail : Bool) (detail : BitVec 64) (s : State) : Host.Outcome State Fault Refusal :=
  onMem (faultAssert src.val rail detail.toNat) s

/-- A block's reset ends (R447). A memory channel that does not train again at its rate leaves service (R261, Table
18.3). -/
def blockResetEnd (r : ResetEnd) (d : Dev) : Dev :=
  let e := { d with fc := { d.fc with resets := d.fc.resets.eraseIdx r.index } }
  match d.fc.resets[r.index]? with
  | some (.channel c) => if r.passed then e else setAvail { e.avail with channels := setBit e.avail.channels c false } e
  | _ => e

/-- BLOCK_RESET_END (R447): what waited for the block may go on. -/
def execBlockResetEnd (ended : ResetEnd) (s : State) : Host.Outcome State Fault Refusal :=
  onMem (blockResetEnd ended) s

/-- FAULT_CAUSE_CLEAR (R396): a condition ends. -/
def execFaultCauseClear (src : Source) (s : State) : Host.Outcome State Fault Refusal :=
  onDev (fun d => if isCondition src.val && !d.fc.injectedNow.contains src.val then causeEnds src.val d else d) s

/-- INJECTED_CONDITION_CLEAR (R406). -/
def execInjectedConditionClear (src : Source) (s : State) : Host.Outcome State Fault Refusal :=
  onDev (fun d =>
    if d.fc.injectedNow.contains src.val then
      causeEnds src.val { d with fc := { d.fc with injectedNow := d.fc.injectedNow.filter (· != src.val) } }
    else d) s

/-- The number of sources armed and unacknowledged, and the lowest of them. -/
def unackedCount (f : Collector) : Nat := (setBits f.unacked).length

def unackedLowest (f : Collector) : Nat := (setBits f.unacked).headD 0

/-- The safe state is forced (R403): 0x0C01 for source 341 precedes 0x0C02. -/
def forceSafe (d : Dev) : Dev :=
  if d.fc.safeState then d
  else
    let n := unackedCount d.fc
    let m := unackedLowest d.fc
    let d := aliveStop d
    let d := raise 341 n { d with fc := { d.fc with safeState := true } }
    logSev 0x0C02 7 diePackage n m 0 false d

/-- An armed source's window passes (R403). -/
def fallbackExpiry (src : Nat) (d : Dev) : Dev :=
  match d.fc.timers.find? (fun t => t.1 == src) with
  | some (_, due) =>
    let d := tickTo due d
    forceSafe { d with fc := { d.fc with timers := d.fc.timers.filter (fun t => t.1 != src) } }
  | none => d

/-- FALLBACK_EXPIRY (R403). -/
def execFallbackExpiry (src : Source) (s : State) : Host.Outcome State Fault Refusal := onDev (fallbackExpiry src.val) s

/- The register writes, effective while the host is owner (R407). -/

/-- The host writes the fault collector block. -/
def fcReach (d : Dev) : Bool := hostReach d && hostOwns d

/-- FC_ACK (R402). -/
def execFcAck (value : BitVec 32) (s : State) : Host.Outcome State Fault Refusal :=
  onDev (fun d => if fcReach d then acknowledge (low 9 value.toNat) d else d) s

/-- An injection (R406): logged; a wire fault, a condition for 2 samples, or pending at the checker. -/
def inject (src : Nat) (rail : Bool) (kind word : Nat) (d : Dev) : Dev :=
  let d := logEv 0x0C05 dieNorth word 0 0 d
  if rail then
    let d := { d with fc := { d.fc with wireFaults := satAdd 32 d.fc.wireFaults 1 } }
    assertAll [{ source := src, rail := true, injected := true, detail := 0 },
               { source := 336, rail := false, injected := true, detail := src }] d
  else if isCondition src then
    if d.fc.cause.getLsbD src then d else
    let d := assertAll [{ source := src, rail := false, injected := true, detail := 0 }] d
    { d with fc := { d.fc with injectedNow := d.fc.injectedNow ++ [src] } }
  else
    let d := dropInjection src d
    { d with fc := { d.fc with injected := d.fc.injected ++ [(src, kind)] } }

/-- CHECK_BITS is 1 or 2 where a check will compare it: at a condition source and on the wires it says nothing
(log 19). -/
def injectForm (src : Nat) (rail : Bool) (kind : Nat) : Bool := rail || isCondition src || kind == 1 || kind == 2

/-- A write to the injection word (Table 16.3). -/
def fcInject (v : Nat) (d : Dev) : Dev :=
  let src := low 9 v
  if fcReach d && expertOn d exFault && (sourceInfo src).isSome && injectForm src (bit v 9) (bits v 10 2) then
    inject src (bit v 9) (bits v 10 2) v d
  else d

/-- FC_INJECT (R406). -/
def execFcInject (value : BitVec 32) (s : State) : Host.Outcome State Fault Refusal :=
  onMem (fcInject value.toNat) s

/-- One STATUS bit is cleared where its cause is clear; the clear is logged (R397). -/
def clearStatus (src : Nat) (d : Dev) : Dev :=
  if d.fc.status.getLsbD src && !d.fc.cause.getLsbD src then
    logEv 0x0C03 dieNorth src (ownerCode d.own.owner) 0
      { d with fc := { d.fc with status := setBit d.fc.status src false } }
  else d

/-- A W1C write to word `w` of STATUS (R397). -/
def fcStatusClear (w v : Nat) (d : Dev) : Dev :=
  if fcReach d then
    (List.range 32).foldl (fun d i => if bit v i then clearStatus (32 * w + i) d else d) d
  else d

/-- FC_STATUS_CLEAR (R397). -/
def execFcStatusClear (word : Fin 16) (value : BitVec 32) (s : State) : Host.Outcome State Fault Refusal :=
  onDev (fcStatusClear word.val value.toNat) s

def fallbackRange (v : Nat) : Bool := decide (10 ≤ v) && decide (v ≤ 10000)

/-- FALLBACK_US is written (R404); a change is logged. -/
def setFallback (v : Nat) (d : Dev) : Dev :=
  if v = d.fc.fallbackUs then d
  else logEv 0x0C04 dieNorth 0x200 v d.fc.fallbackUs { d with fc := { d.fc with fallbackUs := v } }

def fcFallbackWrite (v : Nat) (d : Dev) : Dev := if fcReach d && fallbackRange v then setFallback v d else d

/-- FC_FALLBACK_WRITE (R404). -/
def execFcFallbackWrite (value : BitVec 32) (s : State) : Host.Outcome State Fault Refusal :=
  onDev (fcFallbackWrite (low 14 value.toNat)) s

/-- A configuration word is written; a change is logged (R407). Reserved sources ignore it (R395). -/
def setConfig (src v : Nat) (d : Dev) : Dev :=
  let old := sourceConfig d.fc src
  let new := cfgMask v
  if (sourceInfo src).isNone || new == old then d
  else logEv 0x0C04 dieNorth src new old { d with fc := { d.fc with config := tabSet src new d.fc.config } }

def fcConfigWrite (src v : Nat) (d : Dev) : Dev := if fcReach d then setConfig src v d else d

/-- FC_CONFIG_WRITE (R407). -/
def execFcConfigWrite (src : Source) (value : BitVec 32) (s : State) : Host.Outcome State Fault Refusal :=
  onDev (fcConfigWrite src.val value.toNat) s

/-- The highest severity among set STATUS bits. -/
def topSeverity (f : Collector) : Nat :=
  (setBits f.status).foldl (fun m s => max m (cfgSeverity (sourceConfig f s))) 0

def histWord (h : HistEntry) (k : Nat) : Nat :=
  match k with
  | 0 => h.source + h.severity * 2 ^ 9 + ofBool h.rail * 2 ^ 12 + ofBool h.injected * 2 ^ 13 + h.seq * 2 ^ 16
  | 1 => h.time
  | 2 => low 32 h.detail
  | _ => bits h.detail 32 32

/-- A 32-bit read of the fault collector block (Table 16.3). -/
def fcReg (d : Dev) (o : Nat) : Nat :=
  let f := d.fc
  if o = 0 then
    ofBool (f.status != 0#512) + 2 * ofBool (f.cause != 0#512) + 4 * ofBool f.safeState +
      8 * ofBool (!f.timers.isEmpty) + topSeverity f * 2 ^ 8
  else if o = 4 then f.fallbackUs
  else if o = 0x10 then f.histCount
  else if o = 0x14 then f.wireFaults
  else if 0x100 ≤ o ∧ o < 0x140 then bits f.status.toNat (8 * (o - 0x100)) 32
  else if 0x140 ≤ o ∧ o < 0x180 then bits f.cause.toNat (8 * (o - 0x140)) 32
  else if 0x180 ≤ o ∧ o < 0x1C0 then bits f.unacked.toNat (8 * (o - 0x180)) 32
  else if 0x200 ≤ o ∧ o < 0x300 then
    match tabGet? ((o - 0x200) / 16) f.history with
    | some h => histWord h (o % 16 / 4)
    | none => 0
  else if 0x1000 ≤ o ∧ o < 0x1800 then sourceConfig f ((o - 0x1000) / 4)
  else 0

/- FAULT_CONFIG (R408). -/

def fcAction (p : Bytes) : Nat := u8 p 0

/-- The header's checks: the payload offset of the first failing field. -/
def fcMailBad (p : Bytes) : Option Nat :=
  let act := u8 p 0
  let src := low 9 (u16 p 2)
  let arg := u32 p 4
  if 5 < act then some 0
  else if u8 p 1 ≠ 0 then some 1
  else if u16 p 2 / 512 ≠ 0 then some 2
  else if (act = 1 ∨ act = 2 ∨ act = 3 ∨ act = 5) ∧ (sourceInfo src).isNone then some 2
  else if (act = 0 ∨ act = 4) ∧ src ≠ 0 then some 2
  else if (act = 0 ∨ act = 2 ∨ act = 3) ∧ arg ≠ 0 then some 4
  else if act = 1 ∧ cfgMask arg ≠ arg then some 4
  else if act = 4 ∧ !fallbackRange arg then some 4
  else if act = 5 ∧ (8 ≤ arg ∨ !injectForm src (bit arg 0) (bits arg 1 2)) then some 4
  else none

/-- The actions of FAULT_CONFIG. -/
def bodyFaultConfig : MailBody := fun _ p => do
  match fcMailBad p with
  | some o => mailBad o
  | none =>
    let src := low 9 (u16 p 2)
    let arg := u32 p 4
    let d ← get
    match u8 p 0 with
    | 0 => pure (some (le4s ((List.range 192).map (fun i => fcReg d (4 * i)))))
    | 1 => do
      change (setConfig src arg)
      pure (some [])
    | 2 => do
      change (acknowledge src)
      pure (some [])
    | 3 => do
      change (clearStatus src)
      let d ← get
      pure (some (leBytes 4 (ofBool (d.fc.status.getLsbD src))))
    | 4 => do
      change (setFallback arg)
      pure (some [])
    | _ => do
      needExpert exFault
      change (inject src (bit arg 0) (bits arg 1 2) (src + bits arg 0 1 * 2 ^ 9 + bits arg 1 2 * 2 ^ 10))
      pure (some [])

def faultConfigRow (ch : Chan) (act : Nat) (s : State) : Host.Outcome State Fault Refusal :=
  mailRow ch ⟨0x60, [(8, 8)], true, false⟩ (ofAction fcAction act [0, 1, 2, 3, 4, 5]) bodyFaultConfig s

def execFaultConfigRead (ch : Chan) (s : State) : Host.Outcome State Fault Refusal := faultConfigRow ch 0 s
def execFaultConfigSet (ch : Chan) (s : State) : Host.Outcome State Fault Refusal := faultConfigRow ch 1 s
def execFaultConfigAck (ch : Chan) (s : State) : Host.Outcome State Fault Refusal := faultConfigRow ch 2 s
def execFaultConfigClear (ch : Chan) (s : State) : Host.Outcome State Fault Refusal := faultConfigRow ch 3 s
def execFaultConfigWindow (ch : Chan) (s : State) : Host.Outcome State Fault Refusal := faultConfigRow ch 4 s
def execFaultConfigInject (ch : Chan) (s : State) : Host.Outcome State Fault Refusal := faultConfigRow ch 5 s

end Sys2Proof.Machine
end

