-- ==== Sys2Proof/Machine/Trust.lean ====
section
/-! DEFINITION. Trust: firmware images and updates, life cycle, identity and attestation, OTP setting groups, the
calibration set, and the entropy source (chapter 15). -/

namespace Sys2Proof.Machine

/- Life cycle and OTP (R367, R373, R377, R380). -/

/-- A state counts as entered when at least 24 bits of its word read 1. -/
def wordEntered (w : BitVec 32) : Bool := decide (24 ≤ (setBits w).length)

/-- The current state is the latest state entered (R367). -/
def lifecycleOf (o : Otp) : Nat :=
  if wordEntered (o.words.getD 2 0#32) then lcReturn
  else if wordEntered (o.words.getD 1 0#32) then lcSealed
  else if wordEntered (o.words.getD 0 0#32) then lcMaker
  else lcBlank

/-- OTP bits are programmed: a transition adds bits only. -/
def programWord (i : Nat) (o : Otp) : Otp := { o with words := modAt i (fun w => w ||| BitVec.allOnes 32) o.words }

def programSeed (v : BitVec 256) (o : Otp) : Otp := { o with seedRow := o.seedRow ||| v }

/-- The identity seed, if one is held (R373). -/
def identityOf (o : Otp) : Option Bytes :=
  if o.seedRow = 0#256 ∨ o.seedRow = BitVec.allOnes 256 then none else some (leBytes 32 o.seedRow.toNat)

def genBytes (o : Otp) (group gen : Nat) : Bytes := leBytes 64 (o.gens.getD (4 * group + gen) 0#512).toNat

/-- R377: a valid generation. -/
def genValid (group gen : Nat) (b : Bytes) : Bool :=
  u8 b 0 == group && u8 b 1 == gen && u32 b 60 == crc32c (b.take 60)

/-- The current generation: the valid one with the highest number. -/
def currentGen (o : Otp) (group : Nat) : Option Nat :=
  [3, 2, 1, 0].find? (fun g => genValid group g (genBytes o group g))

/-- The 56 data bytes in force, if any. -/
def groupData (o : Otp) (group : Nat) : Option Bytes :=
  (currentGen o group).map (fun g => ((genBytes o group g).drop 4).take 56)

/-- Bytes 0 to 63 of a generation to be programmed. -/
def genImage (group gen : Nat) (data : Bytes) : Bytes :=
  let b := leBytes 1 group ++ leBytes 1 gen ++ leBytes 2 0 ++ padTo 56 data
  b ++ leBytes 4 (crc32c b)

/-- The lowest generation that reads all zeros. -/
def freeGen (o : Otp) (group : Nat) : Option Nat :=
  (List.range 4).find? (fun g => o.gens.getD (4 * group + g) 0#512 == 0#512)

/-- A generation is programmed and read back (R380): the OTP afterwards, the generation, and whether it is good. -/
def programGen (o : Otp) (group : Nat) (data : Bytes) (readBack : Option Bytes) : Option (Otp × Nat × Bool) :=
  (freeGen o group).map (fun g =>
    let img := genImage group g data
    let got := padTo 64 (readBack.getD img)
    ({ o with gens := modAt (4 * group + g) (fun v => v ||| BitVec.ofNat 512 (leNat got)) o.gens }, g, got == img))

/-- What a programming command answers (R380). -/
def programResult (o : Otp) (group : Nat) (data : Bytes) (readBack : Option Bytes) : Otp × Act (Option Bytes) :=
  match programGen o group data readBack with
  | none => (o, failWith stDoesNotFit 64)
  | some (o', g, good) =>
    (o', do
      change (logEv 0x020A dieNorth group g (ofBool (!good)))
      if good then pure (some (leBytes 8 g)) else failWith stDeviceFault anyDetail)

/-- A mailbox command that may also program OTP. -/
def serveOtp (ch : Chan) (c : MailCmd) (mine : Bytes → Bool) (body : Otp → MailEnv → Bytes → Otp × Act (Option Bytes))
    (s : State) : State :=
  match mailDue s.dev ch c.code with
  | none => s
  | some g =>
    if mine g.payload then
      match mailChecks c s.dev ch g.payload with
      | some (st, detail) => { s with dev := respondFail ch st detail s.dev }
      | none =>
        let (o, act) := body s.otp { ch := ch, drawn := none } g.payload
        { s with otp := o, dev := settleMail ch s.dev (act s.dev) }
    else s

/- Firmware images (R361 to R366). -/

/-- A key slot's kind is allowed in the life-cycle state (R362, Table 15.6). -/
def slotAllowed (lc slot : Nat) : Bool := if slot < 2 then lc != lcBlank else lc == lcMaker || lc == lcReturn

/-- Table 15.4: the failing item of the first check that an image fails. -/
def imageBad (d : Dev) (img : Bytes) : Option Nat :=
  let body := u32 img 0x14
  let slot := u8 img 8
  let key := (img.drop 0x80).take 1952
  if u32 img 0 ≠ 0x5746584C ∨ u16 img 4 ≠ 1 ∨ u8 img 9 ≥ 16 ∨ u16 img 0xA ≠ 0 ∨ u16 img 0xE ≠ 0 ∨
      (nonzeroIn img 0x18 40).isSome ∨ (nonzeroIn img 0x150D 51).isSome ∨ body = 0 ∨ 16767680 < body then some 0
  else if 4 ≤ slot ∨ Config.shake256 key ≠ Config.keySlotDigest slot ∨ bit d.trust.revoked slot ∨
      !slotAllowed d.trust.lifecycle slot then some 8
  else if !Config.mldsaVerify key ctxFw (img.take 0x80) ((img.drop 0x820).take 3309) then some 0x820
  else if u16 img 0xC < d.trust.minSv then some 0xC
  else if Config.shake256 ((img.drop 0x1540).take body) ≠ (img.drop 0x40).take 64 then some 0x1540
  else none

def slotBytes (d : Dev) (b : Bool) : Bytes := if b then d.flash.slotB else d.flash.slotA
def slotCommit (d : Dev) (b : Bool) : Option Nat := if b then d.flash.commitB else d.flash.commitA

def setSlot (b : Bool) (img : Bytes) (commit : Option Nat) (d : Dev) : Dev :=
  if b then { d with flash := { d.flash with slotB := img, commitB := commit } }
  else { d with flash := { d.flash with slotA := img, commitA := commit } }

/-- The slot checked first at start-up (R363): `true` for slot B. -/
def firstSlot (d : Dev) : Bool :=
  match d.flash.commitA, d.flash.commitB with
  | none, some _ => true
  | some a, some b => decide (a < b)
  | _, _ => false

/-- An image runs (R341, R375). -/
def runImage (b fallback : Bool) (d : Dev) : Dev :=
  let img := slotBytes d b
  { d with trust := { d.trust with
      fwRuns := true, fwLevel := u16 img 6, fwBuild := u32 img 0x10, fwSlotB := b, fwFallback := fallback,
      fwSecVersion := u16 img 0xC, fwKeySlot := u8 img 8, fwRevoke := bits (u8 img 9) 0 4,
      mFw := Config.shake256 (img.take (0x1540 + u32 img 0x14)) } }

/-- Start-up step 4 (R363): the device, with an image running if one is accepted. -/
def bootImage (d : Dev) : Dev :=
  let b := firstSlot d
  let bad (x : Bool) : Option Nat := if d.trust.flashFound then imageBad d (slotBytes d x) else some 0
  match bad b with
  | none => runImage b false d
  | some item =>
    let d := logEv 0x0201 dieNorth (ofBool b) item 0 d
    match bad (!b) with
    | none => runImage (!b) true (logEv 0x0202 dieNorth (ofBool (!b)) 0 0 d)
    | some item => logEv 0x0201 dieNorth (ofBool (!b)) item 0 d

/- FW_UPDATE (R364, R365). -/

def fwAction (p : Bytes) : Nat := u8 p 0

def cmdFw : MailCmd := ⟨0x40, [(8, 4096)], true, false⟩

/-- The header of FW_UPDATE: action, reserved bits, and the payload length the action takes. -/
def fwHeader (p : Bytes) : Act Unit := do
  if 4 < u8 p 0 then mailBad 0
  else if u16 p 1 ≠ 0 then mailBad 1
  else if u8 p 3 ≠ 0 then mailBad 3
  else if (u8 p 0 == 1) != decide (8 < p.length) then badFormat 8 0
  else pure ()

def sessionBad {α : Type} : Act α := badFormat 4 0

def needFw : Act FwSession := do
  let d ← get
  match d.trust.fw with
  | some f => pure f
  | none => sessionBad

def setFw (f : Option FwSession) (d : Dev) : Dev := { d with trust := { d.trust with fw := f } }

def fwBegin (arg : Nat) : Act (Option Bytes) := do
  if arg < 5441 ∨ 16773120 < arg then mailBad 4
  else do
    change (fun d => setFw (some { total := arg, written := 0 }) (setSlot (!d.trust.fwSlotB) [] none d))
    pure (some [])

def fwWrite (arg : Nat) (bs : Bytes) : Act (Option Bytes) := do
  let f ← needFw
  if arg ≠ f.written ∨ f.total < f.written + bs.length then sessionBad
  else do
    change (fun d =>
      let b := !d.trust.fwSlotB
      setFw (some { f with written := f.written + bs.length })
        (setSlot b (slotBytes d b ++ bs) none (flashInjection 7 d).2))
    pure (some [])

/-- COMMIT: the new commit record is one above the running slot's (R364). -/
def fwCommit (arg : Nat) : Act (Option Bytes) := do
  if arg ≠ 0 then mailBad 4
  else do
    let f ← needFw
    if f.written ≠ f.total then sessionBad
    else do
      let d ← get
      let b := !d.trust.fwSlotB
      let seq := ((slotCommit d (!b)).getD 0) + 1
      match imageBad d (slotBytes d b) with
      | some item => do
        change (setFw none)
        badFormat (0x01000000 + item) 0
      | none =>
        if 0xFFFFFFFF < seq then failWith stDoesNotFit anyDetail
        else do
          change (fun d => logEv 0x0203 dieNorth (ofBool b) seq (u16 (slotBytes d b) 0xC)
            (setFw none (setSlot b (slotBytes d b) (some seq) d)))
          pure (some [])

def fwAbort (arg : Nat) : Act (Option Bytes) := do
  if arg ≠ 0 then mailBad 4
  else do
    change (setFw none)
    pure (some [])

/-- FW_UPDATE but RAISE_FLOOR. -/
def bodyFw : MailBody := fun _ p => do
  fwHeader p
  match u8 p 0 with
  | 0 => fwBegin (u32 p 4)
  | 1 => fwWrite (u32 p 4) (p.drop 8)
  | 2 => fwCommit (u32 p 4)
  | _ => fwAbort (u32 p 4)

def fwRow (ch : Chan) (act : Nat) (s : State) : Host.Outcome State Fault Refusal :=
  mailRow ch cmdFw (ofAction fwAction act [0, 1, 2, 3, 4]) bodyFw s

def execFwUpdateBegin (ch : Chan) (s : State) : Host.Outcome State Fault Refusal := fwRow ch 0 s
def execFwUpdateWrite (ch : Chan) (s : State) : Host.Outcome State Fault Refusal := fwRow ch 1 s
def execFwUpdateCommit (ch : Chan) (s : State) : Host.Outcome State Fault Refusal := fwRow ch 2 s
def execFwUpdateAbort (ch : Chan) (s : State) : Host.Outcome State Fault Refusal := fwRow ch 3 s

/-- The FLOOR in force in OTP: MIN_SV and REVOKED (Table 15.9). -/
def floorOf (o : Otp) : Nat × Nat :=
  match groupData o 0 with
  | some b => (u16 b 0, bits (u8 b 2) 0 4)
  | none => (0, 0)

/-- RAISE_FLOOR (R366). -/
def raiseFloorBody (readBack : Option Bytes) (o : Otp) (d : Dev) (p : Bytes) : Otp × Act (Option Bytes) :=
  if u16 p 1 ≠ 0 ∨ u8 p 3 ≠ 0 then (o, mailBad 1)
  else if u32 p 4 ≠ 0 then (o, mailBad 4)
  else if p.length ≠ 8 then (o, badFormat 8 0)
  else
    let (sv, rev) := floorOf o
    let sv' := d.trust.fwSecVersion
    let own := 2 ^ d.trust.fwKeySlot
    let rev' := rev ||| (d.trust.fwRevoke &&& (15 - (own &&& 15)))
    if sv' = sv ∧ rev' = rev then (o, pure (some []))
    else
      let (o', act) := programResult o 0 (leBytes 2 sv' ++ leBytes 1 rev') readBack
      (o', do
        let r ← act
        change (logEv 0x0204 dieNorth sv' rev' ((freeGen o 0).getD 0))
        pure r)

/-- RAISE_FLOOR (R366). -/
def execRaiseFloor (ch : Chan) (readBack : Option Bytes) (s : State) : Host.Outcome State Fault Refusal :=
  .next (serveOtp ch cmdFw (fun p => fwAction p == 4) (fun o _ p => raiseFloorBody readBack o s.dev p) s)

/- Life-cycle transitions (R369 to R371). -/

/-- The certificate region: length, CRC, certificate (R374). -/
def certBytes (d : Dev) : Option Bytes :=
  let n := u32 d.flash.cert 0
  let c := (d.flash.cert.drop 16).take n
  if d.flash.cert.length < 16 then none
  else if u32 d.flash.cert 4 = crc32c c then some c else none

/-- `k` stands in `b` as a contiguous run. -/
def contains (k : Bytes) : Bytes → Bool
  | [] => k.isEmpty
  | b :: bs => k.isPrefixOf (b :: bs) || contains k bs

/-- The certificate matches the identity (R374). -/
def certMatches (d : Dev) : Bool :=
  match d.trust.seed, certBytes d with
  | some s, some c => contains (Config.mldsaPublic s) c
  | _, _ => false

/-- The device moves to a state; the running firmware continues (R370). -/
def advanceTo (target : Nat) (ch : Chan) (o : Otp) (d : Dev) : Otp × Dev :=
  let o := if target = lcReturn then programSeed (BitVec.allOnes 256) o else o
  let o := programWord (target - 1) o
  (o, logEv 0x0205 dieNorth d.trust.lifecycle target (chanCode ch)
    { d with trust := { d.trust with lifecycle := target,
                                     seed := if target = lcReturn then none else d.trust.seed } })

/-- Table 15.7: the failing bits of MAKER to SEALED. -/
def sealBad (d : Dev) : Nat :=
  ofBool d.trust.seed.isNone + 2 * ofBool (!certMatches d) + 4 * ofBool (decide (2 ≤ d.trust.fwKeySlot))

/-- LIFECYCLE_ADVANCE (R369): the OTP and device after the message is served. -/
def lifecycleServe (ch : Chan) (p : Bytes) (s : State) : State :=
  let d := s.dev
  let lc := d.trust.lifecycle
  let t := u8 p 0
  let go (st : State) : State :=
    let (o, d') := advanceTo t ch st.otp st.dev
    { st with otp := o, dev := respond ch stOk [] d' }
  let fail (st detail : Nat) (x : State) : State := { x with dev := respondFail ch st detail x.dev }
  match nonzeroIn p 1 7 with
  | some o => fail stBadFormat (itemReason (mailItem o) 0) s
  | none =>
    if lc = lcBlank ∧ t = lcMaker then
      if ch = .jtag then go s else fail stPrivileged anyDetail s
    else if lc = lcMaker ∧ t = lcSealed then
      if sealBad d = 0 then go s else fail stPrivileged (sealBad d) s
    else if (lc = lcMaker ∨ lc = lcSealed) ∧ t = lcReturn then
      match tokenBad d 0x5452584C (fun x => x == 3) (p.drop 8) with
      | none => go { s with dev := useNonce d }
      | some o => fail stPrivileged 8 { s with dev := logEv 0x0207 dieNorth 0x41 o 0 (useNonce d) }
    else fail stBadFormat (itemReason 0x10 0) s

/-- LIFECYCLE_ADVANCE (R345, R369). Before READY it is served in BLANK on JTAG for MAKER only. -/
def execLifecycleAdvance (ch : Chan) (s : State) : Host.Outcome State Fault Refusal :=
  match mailDue s.dev ch 0x41 with
  | none => .next s
  | some g =>
    let p := g.payload
    let early := s.dev.trust.lifecycle == lcBlank && ch == .jtag && u8 p 0 == lcMaker
    let c : MailCmd := ⟨0x41, [(8, 8), (3381, 3381)], true, early⟩
    match mailChecks c s.dev ch p with
    | some (st, detail) => .next { s with dev := respondFail ch st detail s.dev }
    | none =>
      if (u8 p 0 == lcReturn) == decide (p.length = 3381) then .next (lifecycleServe ch p s)
      else .next { s with dev := respondFail ch stBadFormat (itemReason 8 0) s.dev }

/- ATTEST (R372, R373, R376). -/

def attestMode (p : Bytes) : Nat := u8 p 0

def cmdAttest : MailCmd := ⟨0x42, [(8, 8), (40, 40)], true, false⟩

/-- The header of ATTEST. -/
def attestHeader (p : Bytes) : Act Unit := do
  if 4 < u8 p 0 then mailBad 0
  else if u16 p 1 ≠ 0 ∨ u8 p 3 ≠ 0 then mailBad 1
  else if (u8 p 0 == 0) != decide (p.length = 40) then badFormat 8 0
  else if u8 p 0 ≠ 2 ∧ u32 p 4 ≠ 0 then mailBad 4
  else pure ()

/-- Modes 0 to 2 need MAKER or SEALED and an identity. -/
def needIdentity : Act Bytes := do
  let d ← get
  match d.trust.seed with
  | some s => if d.trust.lifecycle = lcMaker ∨ d.trust.lifecycle = lcSealed then pure s else failWith stPrivileged anyDetail
  | none => failWith stPrivileged anyDetail

/-- Bytes of the entropy source for a mailbox command (R388). -/
def mailDraw (env : MailEnv) (n : Nat) : Act Bytes :=
  match env.drawn with
  | some b => pure b
  | none => throw (.entropy n)

/-- The quote's bytes before its signature (Table 15.8). -/
def quoteBody (d : Dev) (nonce : Bytes) : Bytes :=
  leBytes 2 1 ++ leBytes 1 d.trust.lifecycle ++ leBytes 1 (ofBool d.trust.fwSlotB) ++ leBytes 4 d.trust.fwBuild ++
  leBytes 2 d.trust.fwLevel ++ leBytes 2 d.trust.fwSecVersion ++ leBytes 4 d.trust.quotes ++
  leBytes 8 d.trust.uniqueId ++ leBytes 4 d.cat.powerCycles ++ leBytes 4 0 ++ padTo 32 nonce ++
  padTo 64 d.trust.mRom ++ padTo 64 d.trust.mFw ++ padTo 64 d.trust.mCfg

/-- The identity row as a number. -/
def seedNat (b : Bytes) : BitVec 256 := BitVec.ofNat 256 (leNat b)

/-- ATTEST, all modes; KEYGEN leaves its seed to be programmed by the caller. -/
def bodyAttest : MailBody := fun env p => do
  attestHeader p
  match u8 p 0 with
  | 0 => do
    let s ← needIdentity
    let h ← mailDraw env 32
    change (fun d => { d with trust := { d.trust with quotes := low 32 (d.trust.quotes + 1) } })
    let d ← get
    let b := quoteBody d ((p.drop 8).take 32)
    pure (some (b ++ padTo 3309 (Config.mldsaSign s ctxQuote b h)))
  | 1 => do
    let s ← needIdentity
    pure (some (padTo 1952 (Config.mldsaPublic s)))
  | 2 => do
    let _ ← needIdentity
    let d ← get
    pure (some ((((certBytes d).getD []).drop (u32 p 4)).take 4096))
  | 3 => do
    let n ← mailDraw env 32
    change (fun d => { d with trust := { d.trust with nonce := some n } })
    pure (some n)
  | _ => do
    let d ← get
    require (d.trust.lifecycle == lcMaker) stPrivileged anyDetail
    let x ← mailDraw env 32
    change (fun d => logEv 0x0206 dieNorth 0 0 0 { d with trust := { d.trust with seed := some x } })
    pure (some (padTo 1952 (Config.mldsaPublic x)))

def attestRow (ch : Chan) (mode : Nat) (s : State) : Host.Outcome State Fault Refusal :=
  mailRow ch cmdAttest (ofAction attestMode mode [0, 1, 2, 3, 4]) bodyAttest s

def execQuote (ch : Chan) (s : State) : Host.Outcome State Fault Refusal := attestRow ch 0 s
def execPublicKey (ch : Chan) (s : State) : Host.Outcome State Fault Refusal := attestRow ch 1 s
def execCertRead (ch : Chan) (s : State) : Host.Outcome State Fault Refusal := attestRow ch 2 s
def execNonce (ch : Chan) (s : State) : Host.Outcome State Fault Refusal := attestRow ch 3 s

/-- KEYGEN's own checks (R373): a row that is not all zeros gives BUSY. -/
def keygenBody (o : Otp) (env : MailEnv) (p : Bytes) : Act (Option Bytes) := do
  attestHeader p
  let d ← get
  require (d.trust.lifecycle == lcMaker) stPrivileged anyDetail
  require (o.seedRow == 0#256) stBusy anyDetail
  bodyAttest env p

/-- KEYGEN (R373): its draw waits; the row is programmed when the draw is served. -/
def execKeygen (ch : Chan) (s : State) : Host.Outcome State Fault Refusal :=
  mailRow ch cmdAttest (ofAction attestMode 4 [0, 1, 2, 3, 4]) (keygenBody s.otp) s

/-- RNG_BYTES (R390). -/
def bodyRngBytes : MailBody := fun env p => do
  let n := u32 p 0
  if n = 0 ∨ 4096 < n then mailBad 0
  else do
    let b ← mailDraw env n
    pure (some b)

def execRngBytes (ch : Chan) (s : State) : Host.Outcome State Fault Refusal :=
  mailRow ch ⟨0x50, [(4, 4)], true, false⟩ anyMessage bodyRngBytes s

/- The calibration set (R381 to R384). -/

/-- Section bounds of a calibration set. -/
def calSectionsOk (b : Bytes) : Bool :=
  (List.range (u16 b 6)).all (fun i =>
    let e := b.drop (0x40 + 16 * i)
    u16 e 2 == 0 && u32 e 12 == 0 && decide (1 ≤ u16 e 0) && decide (u16 e 0 ≤ 4) &&
      decide (u32 e 4 + u32 e 8 ≤ u32 b 8) && decide (0x40 + 16 * u16 b 6 ≤ u32 e 4))

/-- R382: the offset of the first failing header field of a set. -/
def calBad (uid : Nat) (b : Bytes) : Option Nat :=
  let n := u32 b 8
  if u32 b 0 ≠ 0x4C41434C then some 0
  else if u16 b 4 ≠ 1 then some 4
  else if n < 80 ∨ 1048576 < n ∨ b.length < n then some 8
  else if u64 b 0x10 ≠ uid then some 0x10
  else if u16 b 6 = 0 ∨ 16 < u16 b 6 ∨ !calSectionsOk b then some 6
  else if u32 b 0x3C ≠ crc32c (b.take 0x3C ++ leBytes 4 0 ++ (b.take n).drop 0x40) then some 0x3C
  else none

/-- The set as COMMIT programs it: SOURCE 1, WRITE_COUNT one higher, CRC recomputed (R383). -/
def calOwned (b : Bytes) : Bytes :=
  let n := u32 b 8
  let b := (b.take n).take 0x0C ++ leBytes 1 1 ++ ((b.take n).drop 0x0D).take 11 ++ leBytes 4 (low 32 (u32 b 0x18 + 1)) ++
    ((b.take n).drop 0x1C).take 32 ++ leBytes 4 0 ++ (b.take n).drop 0x40
  b.take 0x3C ++ leBytes 4 (crc32c b) ++ b.drop 0x40

/-- A section of a loaded set by kind. -/
def calSection (b : Bytes) (kind : Nat) : Option Bytes :=
  ((List.range (u16 b 6)).find? (fun i => u16 b (0x40 + 16 * i) == kind)).map (fun i =>
    (b.drop (u32 b (0x44 + 16 * i))).take (u32 b (0x48 + 16 * i)))

def calSpace (p : Bytes) : Nat := u8 p 0

/-- CAL_WRITE's row key: 3 for SPACE 1; otherwise ACTION, or 9 for neither. -/
def calKey (p : Bytes) : Nat :=
  if u8 p 0 = 1 then 3 else if (u8 p 0 = 0 ∨ u8 p 0 = 2) ∧ u8 p 1 < 3 then u8 p 1 else 9

def cmdCalWrite : MailCmd := ⟨0x21, [(8, 4096)], true, false⟩

/-- R379: the offset of the first failing field of a setting, or none. -/
def settingBad (p : Bytes) : Option Nat :=
  let data := p.drop 8
  let g := u8 p 1
  match nonzeroIn p 2 6 with
  | some o => some o
  | none =>
    if 4 ≤ g then some 1
    else if g = 1 then
      if u16 data 0 < 300 ∨ 1200 < u16 data 0 then some 8 else nonzeroIn p 10 54
    else if g = 2 then
      if !fallbackRange (u32 data 0) then some 8 else nonzeroIn p 12 52
    else if g = 3 then
      if 14 ≤ u8 data 0 then some 8 else nonzeroIn p 9 55
    else none

/-- CAL_WRITE SPACE 1 (R379, R380). -/
def settingBody (readBack : Option Bytes) (o : Otp) (_ : MailEnv) (p : Bytes) : Otp × Act (Option Bytes) :=
  if u8 p 0 ≠ 1 then (o, mailBad (if u8 p 0 = 0 ∨ u8 p 0 = 2 then 1 else 0))
  else if p.length ≠ 64 then (o, badFormat 8 0)
  else if u8 p 1 = 0 then (o, failWith stPrivileged anyDetail)
  else
    match settingBad p with
    | some x => (o, mailBad x)
    | none => programResult o (u8 p 1) (p.drop 8) readBack

/-- CAL_WRITE SPACE 1 (R379). -/
def execCalWriteSetting (ch : Chan) (readBack : Option Bytes) (s : State) : Host.Outcome State Fault Refusal :=
  .next (serveOtp ch cmdCalWrite (ofAction calKey 3 [0, 1, 2, 3]) (settingBody readBack) s)

def setCalw (c : Option CalSession) (d : Dev) : Dev := { d with trust := { d.trust with calw := c } }

/-- Checks of the 8-byte header for SPACE 0 and 2; a certificate is written in MAKER only (R368). -/
def calHeader (p : Bytes) : Act Unit := do
  if u16 p 2 ≠ 0 then mailBad 2
  else if (u8 p 1 == 1) != decide (8 < p.length) then badFormat 8 0
  else do
    let d ← get
    require (u8 p 0 == 0 || d.trust.lifecycle == lcMaker) stPrivileged anyDetail

def calBegin (p : Bytes) : Act (Option Bytes) := do
  let n := u32 p 4
  let top := if u8 p 0 = 0 then 1048576 else 8176
  if n = 0 ∨ top < n then sessionBad
  else do
    change (setCalw (some { space := u8 p 0, total := n, staged := [] }))
    pure (some [])

def needCalw (space : Nat) : Act CalSession := do
  let d ← get
  match d.trust.calw with
  | some c => if c.space = space then pure c else sessionBad
  | none => sessionBad

def calData (p : Bytes) : Act (Option Bytes) := do
  let c ← needCalw (u8 p 0)
  let bs := p.drop 8
  if u32 p 4 ≠ c.staged.length ∨ c.total < c.staged.length + bs.length then sessionBad
  else do
    change (setCalw (some { c with staged := c.staged ++ bs }))
    pure (some [])

/-- COMMIT: the session closes, and what passes its checks is programmed to flash (R374, R383). -/
def calCommit (p : Bytes) : Act (Option Bytes) := do
  let c ← needCalw (u8 p 0)
  if c.staged.length ≠ c.total then sessionBad
  else do
    change (setCalw none)
    let d ← get
    if c.space = 0 then
      match calBad d.trust.uniqueId c.staged with
      | some o => badFormat (0x01000000 + o) 0
      | none => do
        let b := calOwned c.staged
        change (fun d => logEv 0x0209 dieNorth (u32 b 0x18) 0 0 { d with flash := { d.flash with cal := b } })
        pure (some [])
    else
      match d.trust.seed with
      | none => badFormat 0x01000000 0
      | some s =>
        if contains (Config.mldsaPublic s) c.staged then do
          change (fun d => { d with flash := { d.flash with
            cert := leBytes 4 c.staged.length ++ leBytes 4 (crc32c c.staged) ++ leBytes 8 0 ++ c.staged } })
          pure (some [])
        else badFormat 0x01000000 0

def bodyCalWrite : MailBody := fun _ p => do
  calHeader p
  match u8 p 1 with
  | 0 => calBegin p
  | 1 => calData p
  | _ => calCommit p

def execCalWriteBegin (ch : Chan) (s : State) : Host.Outcome State Fault Refusal :=
  mailRow ch cmdCalWrite (fun p => calKey p == 0) bodyCalWrite s
def execCalWriteData (ch : Chan) (s : State) : Host.Outcome State Fault Refusal :=
  mailRow ch cmdCalWrite (fun p => calKey p == 1) bodyCalWrite s
def execCalWriteCommit (ch : Chan) (s : State) : Host.Outcome State Fault Refusal :=
  mailRow ch cmdCalWrite (fun p => calKey p == 2) bodyCalWrite s

/-- CAL_READ (R384). -/
def bodyCalRead (o : Otp) : MailBody := fun _ p => do
  if u16 p 2 ≠ 0 then mailBad 2
  else if u8 p 0 = 0 then do
    let d ← get
    let n := if (calBad d.trust.uniqueId d.flash.cal).isNone then u32 d.flash.cal 8 else 1048576
    pure (some (((padTo n d.flash.cal).drop (u32 p 4)).take 4096))
  else if u8 p 0 = 1 then
    if 8 ≤ u8 p 1 then mailBad 1
    else
      let g := u8 p 1
      pure (some ((List.range 4).flatMap (genBytes o g) ++ leBytes 4 ((currentGen o g).getD 0xFFFFFFFF)))
  else mailBad 0

def execCalRead (ch : Chan) (s : State) : Host.Outcome State Fault Refusal :=
  mailRow ch ⟨0x20, [(8, 8)], true, false⟩ anyMessage (bodyCalRead s.otp) s

/- The entropy source (R385 to R392). -/

def rawSrc (d : Dev) (i : Nat) : RawSource := d.ent.sources.getD i {}

def setRaw (i : Nat) (x : RawSource) (d : Dev) : Dev := { d with ent := { d.ent with sources := setAt i x d.ent.sources } }

/-- Blocks in the pool instantiate the DRBG, then READY sets when the pool holds 16 again (R388). -/
def settleEntropy (d : Dev) : Dev :=
  let e := d.ent
  match e.drbg, e.pool with
  | none, a :: b :: rest => { d with ent := { e with drbg := some (Config.drbgInit ((a ++ b).take 48)), pool := rest } }
  | some _, pool => if pool.length = 16 ∧ !e.failed then { d with ent := { e with ready := true } } else d
  | _, _ => d

/-- A source has completed 1,024 raw bits (R386, R392). -/
def blockDone (i : Nat) (raw : Bytes) (d : Dev) : Dev :=
  let e := d.ent
  if (rawSrc d i).inService && !(e.rawEn && e.rawSource == i) && !e.failed && decide (e.pool.length < 16) then
    settleEntropy { d with ent := { e with pool := e.pool ++ [Config.sha3 raw] } }
  else d

/-- ENTROPY_BLOCK_DONE (R386). -/
def execEntropyBlockDone (src : Fin 8) (raw : Bytes) (s : State) : Host.Outcome State Fault Refusal :=
  onDev (blockDone src.val raw) s

/-- A health test fails (R387). -/
def healthFail (i : Nat) (proportion : Bool) (d : Dev) : Dev :=
  let x := rawSrc d i
  if x.inService || x.restarting then
    let x' := { x with
      rctFails := if proportion then x.rctFails else satAdd 16 x.rctFails 1
      aptFails := if proportion then satAdd 16 x.aptFails 1 else x.aptFails
      inService := false, restarting := true }
    logEv 0x0D01 dieNorth i (ofBool proportion) 0 (setRaw i x' d)
  else d

/-- HEALTH_TEST_FAILURE (R387). -/
def execHealthTestFailure (src : Fin 8) (proportion : Bool) (s : State) : Host.Outcome State Fault Refusal :=
  onDev (healthFail src.val proportion) s

/-- A request completes with RNG_FAILED (R389). An op that waited finds the source failed when it ends. -/
def failRequest (d : Dev) (u : EntropyUser) : Dev :=
  match u with
  | .op .. => d
  | .mail ch _ => respondFail ch stRngFailed anyDetail d

/-- The entropy source fails (R389). -/
def entropyFails (d : Dev) : Dev :=
  let w := d.ent.waiting
  let d := { d with ent := { d.ent with failed := true, ready := false, pool := [], drbg := none, waiting := [] } }
  let d := w.foldl failRequest d
  raise 5 0 (logEv 0x0D04 dieNorth w.length 0 0 d)

/-- A start-up test or restart ends (R387, R389). -/
def startupTestEnd (i : Nat) (pass : Bool) (d : Dev) : Dev :=
  let x := rawSrc d i
  if !x.restarting then d
  else if pass then
    logEv 0x0D02 dieNorth i 1 0 (setRaw i { x with inService := true, restarting := false, failCount := 0 } d)
  else
    let n := x.failCount + 1
    let d := logEv 0x0D02 dieNorth i 0 n
      (setRaw i { x with failCount := n, retired := decide (3 ≤ n), restarting := decide (n < 3) } d)
    if n < 3 then d
    else
      let d := logEv 0x0D03 dieNorth i 0 0 d
      if d.ent.sources.all (fun y => y.retired) && !d.ent.failed then entropyFails d else d

/-- ENTROPY_STARTUP_TEST_END (R387). -/
def execEntropyStartupTestEnd (src : Fin 8) (pass : Bool) (s : State) : Host.Outcome State Fault Refusal :=
  onDev (startupTestEnd src.val pass) s

/-- RAW_DATA_READ (R392). -/
def rawRead (d : Dev) : Dev :=
  if hostReach d && decide (32 ≤ d.ent.rawFifo.length) then { d with ent := { d.ent with rawFifo := d.ent.rawFifo.drop 32 } }
  else d

def execRawDataRead (s : State) : Host.Outcome State Fault Refusal := onDev rawRead s

/-- ENTROPY_RAW_BIT (R392). -/
def rawBit (v : Bool) (d : Dev) : Dev :=
  if !d.ent.rawEn then d
  else if d.ent.rawFifo.length < 4096 then { d with ent := { d.ent with rawFifo := d.ent.rawFifo ++ [v] } }
  else { d with ent := { d.ent with rawOverrun := true } }

def execEntropyRawBit (value : Bool) (s : State) : Host.Outcome State Fault Refusal := onDev (rawBit value) s

/-- The pool gives two blocks and the DRBG bytes (R388). -/
def generate (n : Nat) (d : Dev) : Option (Bytes × Dev) :=
  match d.ent.drbg, d.ent.pool with
  | some g, a :: b :: rest =>
    if d.ent.ready then
      let g := Config.drbgReseed g ((a ++ b).take 48)
      some (padTo n (Config.drbgBytes g n),
        { d with ent := { d.ent with drbg := some (Config.drbgNext g n), pool := rest, served := satAdd 64 d.ent.served 1 } })
    else none
  | _, _ => none

end Sys2Proof.Machine
end

