-- ==== Sys2Proof/Machine/Startup.lean ====
section
/-! DEFINITION. Start-up stages and reset commands (R439 to R448, R450, R451, R456). -/

namespace Sys2Proof.Machine

def setStage (n : Nat) (d : Dev) : Dev := { d with boot := { d.boot with stage := n } }

/-- Start-up stops (R443): cause, and whether BOOT_FAILED sets. -/
def stopBoot (cause : Nat) (failed : Bool) (d : Dev) : Dev :=
  logEv 0x0104 dieNorth d.boot.stage cause 0 { d with boot := { d.boot with stopped := some cause, failed := failed } }

/-- A stage that continues with a loss logs it (Table 18.4). -/
def stageLoss (stage lost : Nat) (d : Dev) : Dev := if lost = 0 then d else logEv 0x0102 dieNorth stage lost 0 d

/-- Stage 3: OTP is read (R367, R373, R377, R378). -/
def readOtp (o : Otp) (d : Dev) : Dev :=
  let power := match groupData o 1 with
    | some b => u16 b 0
    | none => 1200
  let fault := match groupData o 2 with
    | some b => u32 b 0
    | none => 1000
  let boot := match groupData o 3 with
    | some b => u8 b 0
    | none => 0
  let gen := bits boot 1 3
  { d with
    trust := { d.trust with
      lifecycle := lifecycleOf o, uniqueId := o.uniqueId.toNat, seed := identityOf o, minSv := (floorOf o).1,
      revoked := (floorOf o).2, bootCap := power, fallbackUs := fault, skipMarch := bit boot 0,
      pcieMaxGen := if gen = 0 then 6 else gen }
    fc := { d.fc with fallbackUs := fault }
    power := { d.power with cap := power, capNext := power } }

/-- M_CFG (R375). -/
def cfgMeasure (o : Otp) (d : Dev) : Bytes :=
  Config.shake256 (leBytes 1 d.trust.lifecycle ++
    (List.range 8).flatMap (fun g => match currentGen o g with
      | some n => genBytes o g n
      | none => List.replicate 64 0) ++ d.trust.calLoaded.getD [])

/-- A failing unit leaves service (R269): its gallery, its hall or its channel. -/
def unitOut (u : MarchUnit) (a : Avail) : Avail :=
  match u with
  | .scratch h t => { a with galleries := modAt h.val (fun m => setBit m (t.val / 32) false) a.galleries }
  | .shared h => { a with halls := setBit a.halls h.val false }
  | .channel c => { a with channels := setBit a.channels c.val false }

/-- The event of a failing unit (R269). -/
def logUnit (f : MarchFinding) (d : Dev) : Dev :=
  match f.unit with
  | .scratch h t => logOpen 0x07 7 h.val t.val f.words 0 d
  | .shared h => logOpen 0x07 7 h.val 0xFFFF f.words 0 d
  | .channel c => logOpen 0x07 7 dieSouth c.val f.words 0 d

/-- Stage 8: the destructive march leaves zeros; failing units leave service (R262, R441). -/
def marchStage (failing : List MarchFinding) (d : Dev) : Dev :=
  let d := zeroMark .onChip d
  let d := if d.boot.cause == .powerOn && !d.trust.skipMarch then zeroMark .lpddr d else d
  let d := failing.foldl (fun d f => logUnit f (setAvail (unitOut f.unit d.avail) d)) d
  stageLoss 8 failing.length d

/-- The rates of Table 10.3 in MT/s, highest first. -/
def lpRates : List Nat := [8533, 7500, 6400, 5500, 4267, 3200]

/-- R259: the channels in service after training, and the rate: the highest at which every channel passes; with none, the
channels that fail at 3,200 MT/s are excluded and the rate is the highest at which every other channel passed. -/
def trainedAt (passes : List Nat) : BitVec 32 × Nat :=
  let at' (i : Nat) : BitVec 32 := BitVec.ofNat 32 (passes.getD i 0)
  let first (m : BitVec 32) : Option Nat := (List.range 6).find? (fun i => m &&& at' i == m)
  match first 0xFFFFFFFF#32 with
  | some i => (0xFFFFFFFF#32, lpRates.getD i 0)
  | none =>
    let m := at' 5
    if m = 0#32 then (0#32, 0) else (m, lpRates.getD ((first m).getD 5) 0)

/-- R256: the smallest capacity found among the channels in service, in GiB. -/
def channelGib (capacities : List (Fin 4)) (ch : List Nat) : Nat :=
  2 ^ (ch.foldl (fun m c => min m (capacities.getD c 0).val) 3)

/-- Stage 7: the trained channels form the mapping (R256, R257, R259). -/
def trainChannels (capacities : List (Fin 4)) (passes : List Nat) (d : Dev) : Dev :=
  let (m, rate) := trainedAt passes
  let ch := setBits m
  let d := { d with mem := { d.mem with mapping := ch, channelBytes := channelGib capacities ch * 2 ^ 30 } }
  let d := setAvail { d.avail with channels := m, lpBytes := lpBytes d.mem, mts := rate } d
  stageLoss 7 (32 - ch.length) d

/-- Stage 9: the calibration set is loaded or refused (R382). -/
def loadCal (o : Otp) (d : Dev) : Dev :=
  let n := u32 d.flash.cal 8
  let d := match calBad d.trust.uniqueId d.flash.cal with
    | some x => logEv 0x0208 dieNorth x 0 0 { d with trust := { d.trust with calLoaded := none } }
    | none => { d with trust := { d.trust with calLoaded := some (d.flash.cal.take n) } }
  { d with trust := { d.trust with mCfg := cfgMeasure o d } }

/-- Stage 10: halls refused leave service, with their routers, which stage 10 has not started (R277, R442). -/
def bringUp (refused : Nat) (d : Dev) : Dev :=
  let out := setBits (BitVec.ofNat 16 refused)
  let d := { d with avail := { d.avail with routersOut := BitVec.ofNat 16 refused } }
  let d := out.foldl (fun d h => setAvail { d.avail with halls := setBit d.avail.halls h false } d) d
  stageLoss 10 out.length d

/-- Stage 11: the actions of R445. -/
def becomeReady (d : Dev) : Dev :=
  let d := { d with
    avail := { d.avail with generation := 0, pcieGen := d.host.lkGen, pcieWidth := d.host.lkWidth }
    boot := { d.boot with ready := true, stage := 11, aliveRunning := !d.host.quiesced, faultResets := 0 } }
  let d := logEv 0x0103 dieNorth ((d.clock - d.boot.startTime) / 1000000) d.avail.halls.toNat d.avail.channels.toNat d
  if d.host.kept && !(msixOf d 0).masked && d.host.busMaster then signal 0 d else d

/-- Sources start their start-up tests at stage 5 (R387). -/
def startSources (d : Dev) : Dev :=
  { d with ent := { d.ent with sources := List.replicate 8 { restarting := true } } }

/-- Start-up stands in a stage and may move on. -/
def bootRuns (d : Dev) : Bool :=
  !d.boot.ready && d.boot.stopped.isNone && !(d.boot.stage == 1 && (d.boot.perstLow || d.boot.thermtrip))

/-- A start-up stage ends, with what the hardware found (Table 18.1). -/
def stageEnd (r : StageReport) (o : Otp) (d : Dev) : Dev :=
  if !bootRuns d then d
  else
    match d.boot.stage with
    | 1 =>
      let d := if d.boot.cause == .powerOn then
          stageLoss 1 r.badRows.length (setCat (catalogueReload r.badRows r.ok d.cat) d)
        else d
      setStage 2 d
    | 2 => setStage 3 { d with trust := { d.trust with mRom := Config.shake256 Config.bootRom, flashFound := r.ok } }
    | 3 =>
      if !r.ok then stopBoot 1 true d
      else
        let d := readOtp o d
        if d.trust.lifecycle = lcBlank then stopBoot 0 false d else setStage 4 d
    | 4 =>
      let d := bootImage d
      if d.trust.fwRuns then startSources (setStage 5 d) else stopBoot 2 true d
    | 5 => if d.ent.sources.all (fun x => x.inService || x.retired) then setStage 6 d else d
    | 6 =>
      if d.host.linkUp then setStage 7 d
      else if r.ok && decide (1 ≤ r.pcieGen) && decide (r.pcieGen ≤ d.trust.pcieMaxGen) then
        setStage 7 { d with host := { d.host with linkUp := true, lkGen := r.pcieGen, lkWidth := r.pcieWidth } }
      else d
    | 7 => setStage 8 (trainChannels r.capacities r.passes d)
    | 8 => setStage 9 (marchStage r.failing d)
    | 9 => setStage 10 (loadCal o d)
    | 10 => becomeReady (bringUp r.hallsRefused d)
    | _ => d

/-- PCIE_TRAINING_TIMEOUT (R439): 100 ms have passed in stage 6. -/
def pcieTimeout (d : Dev) : Dev := if bootRuns d && d.boot.stage == 6 then setStage 7 d else d

def execPcieTrainingTimeout (s : State) : Host.Outcome State Fault Refusal := onDev pcieTimeout s

/- Resets. -/

/-- POR_N low, and high again (R446, R451, R456): everything but OTP, flash, OP_TIME and POWER_CYCLES. -/
def powerOnReset (mgmtAddr : Nat) (testEn : Bool) (o : Otp) (d : Dev) : Dev :=
  let n : Dev :=
    { flash := d.flash
      clock := d.clock
      free := d.free
      tele := { since := d.clock }
      cat := { flash := d.cat.flash, flashPos := d.cat.flashPos, powerCycles := low 24 (d.cat.powerCycles + 1) }
      host := { mem := d.host.mem, sent := d.host.sent }
      trust := { lifecycle := lifecycleOf o, uniqueId := o.uniqueId.toNat }
      boot := { startTime := d.clock, mgmtAddr := mgmtAddr, testEn := testEn, perstLow := d.boot.perstLow } }
  logEv 0x0101 dieNorth 0 0 0 (freshMark .lpddr (freshMark .onChip n))

/-- POWER_ON_RESET (R446). -/
def execPowerOnReset (mgmtAddr : BitVec 3) (testEn : Bool) (s : State) : Host.Outcome State Fault Refusal :=
  .next { s with dev := powerOnReset mgmtAddr.toNat testEn s.otp s.dev }

/-- PERST_N changes (R440, R456): low is a chip reset and holds start-up before stage 2. -/
def perst (level : Bool) (d : Dev) : Dev :=
  if level then
    if d.boot.perstLow then
      let d := { d with boot := { d.boot with perstLow := false, startTime := d.clock } }
      if d.boot.thermtrip || d.boot.cause != .perst then d else setStage 2 d
    else d
  else if d.boot.perstLow then d
  else
    let d := { d with boot := { d.boot with perstLow := true } }
    if d.boot.stage = 1 ∧ d.boot.cause = .powerOn then d else chipReset .perst d

/-- PERST_N (R446). -/
def execPerstN (level : Bool) (s : State) : Host.Outcome State Fault Refusal := onDev (perst level) s

/-- FUNCTION_LEVEL_RESET (R336): a configuration request, answered from READY on. -/
def execFunctionLevelReset (s : State) : Host.Outcome State Fault Refusal :=
  onDev (fun d => if d.boot.ready then chipReset .flr d else d) s

/-- A reset of the link while it is up and start-up is not stopped (R336, R443). -/
def linkReset (c : StartCause) (d : Dev) : Dev :=
  if d.host.linkUp && d.boot.stopped.isNone then chipReset c d else d

/-- HOT_RESET (R336). -/
def execHotReset (s : State) : Host.Outcome State Fault Refusal := onDev (linkReset .hotReset) s

/-- DL_DOWN (R336). -/
def execDlDown (s : State) : Host.Outcome State Fault Refusal := onDev (linkReset .dlDown) s

end Sys2Proof.Machine
end

