-- ==== Sys2Proof/Machine/HostCmds.lean ====
section
/-! DEFINITION. Host accesses: BAR4, configuration requests, link changes, power states, and foyer registers (R335 to
R341, R434, R438). -/

namespace Sys2Proof.Machine

/- BAR4 (R338, R339). -/

/-- A host access through BAR4: each uses the bases as they stand when it arrives, and they are handled in that order. -/
def bar4 (o : Nat) (op : Bar4Op) (d : Dev) : Dev :=
  if !hostReach d || decide (bar4Size d ≤ o) then d
  else serveHeld (holdAccess { addr := bar4Addr d o, op := op } d)

/-- BAR4_ACCESS (R339). -/
def execBar4Access (offset : BitVec 39) (access : Bar4Op) (s : State) : Host.Outcome State Fault Refusal :=
  onMem (bar4 offset.toNat access) s

/- Configuration requests (R336, R338). -/

/-- Vectors with a pending bit and no mask send their message. -/
def sendPending (d : Dev) : Dev :=
  if d.host.msixMaskAll || !d.host.msixEnable then d
  else d.host.msix.foldl
    (fun d p => if p.2.pending && !p.2.masked then emitMsi p.1 (setMsix p.1 { p.2 with pending := false } d) else d) d

/-- What a configuration read returns of Table 14.1: speeds and widths as masks of the generations and of the numbers of
lanes, sizes in bytes, capabilities as 1 or 0, and the controls as they stand. -/
def cfgItem (h : HostSide) (i : CfgItem) : Nat :=
  match i with
  | .vendorId => Config.vendorId
  | .deviceId => Config.deviceId
  | .classCode => 0x120000
  | .revisionId => Config.siliconRev
  | .speeds => 0x7E
  | .widths => 0x10116
  | .laneReversal | .aspmL1 | .d3hot | .noSoftReset | .aer | .resizableBar4 | .functionReset => 1
  | .maxPayload => 512
  | .maxReadRequest => 4096
  | .tagBits => 10
  | .msixVectors => Config.vectors
  | .aspmL0s | .l1Substates | .msi | .intx | .atomicCompleter | .sriov | .ats | .pasid => 0
  | .atomicRequester => ofBool h.atomicReq
  | .memSpace => ofBool h.memSpace
  | .busMaster => ofBool h.busMaster
  | .msixEnable => ofBool h.msixEnable
  | .msixMaskAll => ofBool h.msixMaskAll
  | .bar4Size => h.bar4Index
  | .powerState => ofBool h.d3

/-- The control that a configuration write changes. -/
def cfgWrite (r : CfgReq) (d : Dev) : Dev :=
  match r with
  | .read _ => d
  | .memSpace on => { d with host := { d.host with memSpace := on } }
  | .busMaster on => flushMsi { d with host := { d.host with busMaster := on } }
  | .atomicRequester on => { d with host := { d.host with atomicReq := on } }
  | .msixEnable on => sendPending { d with host := { d.host with msixEnable := on } }
  | .msixMaskAll on => sendPending { d with host := { d.host with msixMaskAll := on } }
  | .bar4Size i => if d.host.memSpace then d else { d with host := { d.host with bar4Index := i.val } }

/-- CONFIG_REQUEST (R336): Request Retry Status before READY, else the item's value, or the control changes. -/
def configRequest (r : CfgReq) (d : Dev) : Dev :=
  let answer (v : CfgAnswer) (d : Dev) : Dev := { d with host := { d.host with cfgAnswer := some v } }
  if !d.boot.ready then answer .retry d
  else
    match r with
    | .read i => answer (.value (cfgItem d.host i)) d
    | r => answer (.value 0) (cfgWrite r d)

def execConfigRequest (request : CfgReq) (s : State) : Host.Outcome State Fault Refusal := onDev (configRequest request) s

/-- PCIE_RETRAIN (R336): a change of speed or width. -/
def pcieRetrain (gen width : Nat) (d : Dev) : Dev :=
  if gen = 0 ∨ 6 < gen ∨ width = 0 then d
  else
    let d := { d with host := { d.host with linkUp := true, lkGen := gen, lkWidth := width } }
    if d.boot.ready then setAvail { d.avail with pcieGen := gen, pcieWidth := width } d else d

def execPcieRetrain (gen width : Fin 17) (s : State) : Host.Outcome State Fault Refusal :=
  onDev (pcieRetrain gen.val width.val) s

/-- D3HOT_ENTER (R434). -/
def execD3hotEnter (s : State) : Host.Outcome State Fault Refusal :=
  onDev (fun d => if d.boot.ready then { d with host := { d.host with d3 := true } } else d) s

/-- D0_RETURN (R434). -/
def execD0Return (s : State) : Host.Outcome State Fault Refusal :=
  onDev (fun d => if d.boot.ready then flushMsi { d with host := { d.host with d3 := false } } else d) s

/- Foyer registers (R10, R13, R340, R341). -/

/-- One half of a 64-bit register replaced. -/
def withHalf (old : Nat) (high : Bool) (v : Nat) : Nat := if high then low 32 old + v * 2 ^ 32 else old / 2 ^ 32 * 2 ^ 32 + v

/-- WINDOW (R338, R341): ignored from a non-owner host and with bits [63:48] nonzero. -/
def windowWrite (i v : Nat) (d : Dev) : Dev :=
  if hostOwns d && bits v 48 16 == 0 then { d with host := { d.host with windows := setAt i v d.host.windows } } else d

/-- The ring base of a kernel queue (R289). -/
def kernelBaseWrite (k : Fin 16) (cq : Bool) (v : Nat) (d : Dev) : Dev :=
  let q := QRef.kernel k
  let x := queueOf d q
  if hostOwns d && x.state == .disabled then
    setQueue q (if cq then { x with cqBase := v } else { x with sqBase := v }) d
  else d

/-- A 32-bit write in a kernel queue block (Table 12.1). -/
def kernelWrite32 (k : Fin 16) (o v : Nat) (d : Dev) : Dev :=
  let q := QRef.kernel k
  let x := queueOf d q
  if o = 0 then sqTailWrite q v d
  else if o = 8 then cqHeadWrite q v d
  else if o = 0x10 then kernelBaseWrite k false (withHalf x.sqBase false v) d
  else if o = 0x14 then kernelBaseWrite k false (withHalf x.sqBase true v) d
  else if o = 0x18 then kernelBaseWrite k true (withHalf x.cqBase false v) d
  else if o = 0x1C then kernelBaseWrite k true (withHalf x.cqBase true v) d
  else if o = 0x20 then kernelConfigWrite k v d
  else if o = 0x24 then if hostOwns d then setQueue q { x with irqCount := low 16 v } d else d
  else if o = 0x28 then
    if hostOwns d then
      setQueue q { x with configError := x.configError && !bit v 4, doorbellError := x.doorbellError && !bit v 5 } d
    else d
  else if o = 0x48 then if bit v 0 then kernelAbort k d else d
  else d

/-- RAW_SOURCE, RAW_EN and RAW_OVERRUN (R391): RWL in MAKER and RETURN with expert bit 6. -/
def rawWrite (v : Nat) (d : Dev) : Dev :=
  if !hostOwns d then d
  else
    let d := { d with ent := { d.ent with rawOverrun := d.ent.rawOverrun && !bit v 9 } }
    if (d.trust.lifecycle = lcMaker ∨ d.trust.lifecycle = lcReturn) ∧ expertOn d exEntropy then
      { d with ent := { d.ent with rawSource := bits v 0 3, rawEn := bit v 8 } }
    else d

/-- A 32-bit write to the MSI-X table. -/
def msixWrite32 (o v : Nat) (d : Dev) : Dev :=
  let n := o / 16
  let m := msixOf d n
  match o % 16 with
  | 0 => setMsix n { m with addr := withHalf m.addr false v } d
  | 4 => setMsix n { m with addr := withHalf m.addr true v } d
  | 8 => setMsix n { m with data := v } d
  | _ => if bit v 0 then setMsix n { m with masked := true } d else unmask n d

/-- A 32-bit write in the fault collector block. -/
def fcWrite32 (o v : Nat) (d : Dev) : Dev :=
  if o = 4 then fcFallbackWrite (low 14 v) d
  else if o = 8 then if fcReach d then acknowledge (low 9 v) d else d
  else if o = 0xC then fcInject v d
  else if 0x100 ≤ o ∧ o < 0x140 then fcStatusClear ((o - 0x100) / 4) v d
  else if 0x1000 ≤ o ∧ o < 0x1800 then fcConfigWrite ((o - 0x1000) / 4) v d
  else d

/-- Foyer offsets usable before READY on a kept configuration (Table 18.2). -/
def earlyFoyer (o : Nat) : Bool :=
  decide (o < 0x2000) || (decide (0x10000 ≤ o) && decide (o < 0x12000)) ||
    (decide (0x30000 ≤ o) && decide (o < 0x50000)) || (decide (0x60000 ≤ o) && decide (o < 0x70000))

/-- A 32-bit register write at an aligned foyer offset (Table 14.3). What no block defines ignores it (R10). -/
def foyerWrite32 (o v : Nat) (d : Dev) : Dev :=
  if !hostReach d || (!d.boot.ready && !earlyFoyer o) then d
  else if o = 0x1010 then heartbeatWrite d
  else if 0x2000 ≤ o ∧ o < 0x2020 then
    let i := (o - 0x2000) / 8
    windowWrite i (withHalf (d.host.windows.getD i 0) (o % 8 == 4) v) d
  else if 0x10000 ≤ o ∧ o < 0x12000 then mboxWrite32 .host (o - 0x10000) v d
  else if 0x20000 ≤ o ∧ o < 0x21000 then kernelWrite32 (Fin.ofNat 16 ((o - 0x20000) / 256)) (o % 256) v d
  else if 0x30000 ≤ o ∧ o < 0x40000 then fcWrite32 (o - 0x30000) v d
  else if o = 0x40000 then setCat { d.cat with cursor := v } d
  else if o = 0x40004 then setCat { d.cat with space := bit v 0 } d
  else if o = 0x40008 then setCat (advanceCursor d.cat) d
  else if o = 0x50060 then rawWrite v d
  else if 0x80000 ≤ o ∧ o < 0x88000 then msixWrite32 (o - 0x80000) v d
  else d

/-- A write of 8 bytes: 64-bit registers whole, anything else as two words. -/
def foyerWrite64 (o v : Nat) (d : Dev) : Dev :=
  if !hostReach d || (!d.boot.ready && !earlyFoyer o) then d
  else if 0x2000 ≤ o ∧ o < 0x2020 then windowWrite ((o - 0x2000) / 8) v d
  else if 0x20000 ≤ o ∧ o < 0x21000 ∧ o % 256 = 0x10 then kernelBaseWrite (Fin.ofNat 16 ((o - 0x20000) / 256)) false v d
  else if 0x20000 ≤ o ∧ o < 0x21000 ∧ o % 256 = 0x18 then kernelBaseWrite (Fin.ofNat 16 ((o - 0x20000) / 256)) true v d
  else foyerWrite32 (o + 4) (bits v 32 32) (foyerWrite32 o (low 32 v) d)

/-- REGISTER_WRITE (R10, R13): aligned writes of 4 and 8 bytes; narrower writes reach the mailbox block only. -/
def registerWrite (o : Nat) (size : WSize) (v : Nat) (d : Dev) : Dev :=
  match size with
  | .b8 => if o % 8 = 0 then foyerWrite64 o v d else d
  | .b4 => if o % 4 = 0 then foyerWrite32 o (low 32 v) d else d
  | .b2 =>
    if hostReach d ∧ 0x10000 ≤ o ∧ o < 0x12000 ∧ o % 2 = 0 then
      mboxWriteByte .host (o + 1 - 0x10000) (BitVec.ofNat 8 (v / 256)) (mboxWriteByte .host (o - 0x10000) (BitVec.ofNat 8 v) d)
    else d
  | .b1 =>
    if hostReach d ∧ 0x10000 ≤ o ∧ o < 0x12000 then mboxWriteByte .host (o - 0x10000) (BitVec.ofNat 8 v) d else d

/-- REGISTER_WRITE. -/
def execRegisterWrite (offset : BitVec 26) (size : WSize) (value : BitVec 64) (s : State) : Host.Outcome State Fault Refusal :=
  onMem (registerWrite offset.toNat size value.toNat) s

end Sys2Proof.Machine
end

