-- ==== Sys2Proof/Machine/Hooks.lean ====
section
/-! DEFINITION. Questions that power, memories and placement ask about the work on a unit. -/

namespace Sys2Proof.Machine

/-- Rows of span tread `t` of a dense block (R35). -/
def rowsHeld (n treads t : Nat) : Nat := if t < n % treads then n / treads + 1 else n / treads

/-- Slots used by span tread `t` of a sparse block (R36). -/
def slotsHeld (x : PBlock) (t : Nat) : Nat := min 128 (x.n - 128 * t)

/-- Span tread `t` of a block holds dense rows or spin slots of it. -/
def treadHolds (x : PBlock) (t : Nat) : Bool :=
  decide (t < x.treads) && decide (0 < if x.dense then rowsHeld x.n x.treads t else slotsHeld x t)

/-- An island holds rows or slots of a block: one of its 16 treads does (R279). A tread of the western half of gallery g is
tread 32g + k, of the eastern half 32g + 16 + k. -/
def spanOnIsland (b : PBlock) (i : Nat) : Bool :=
  b.hall == i / 40 &&
    (List.range 16).any (fun k => decide (b.tread ≤ 16 * (i % 40) + k) && treadHolds b (16 * (i % 40) + k - b.tread))

/-- The island has an attached flip-bus tap: it holds spins of a context whose run is active (R279). -/
def tapAttached (d : Dev) (i : Nat) : Bool :=
  d.ctxs.any (fun p =>
    match p.2.run, p.2.problem with
    | some _, some q => q.blocks.any (fun b => spanOnIsland b i)
    | _, _ => false)

/-- A stage at which a run has ended an epoch and not started the next (R268). -/
def quietStage (s : Stage) : Bool :=
  match s with
  | .march | .frames | .lastUpdates | .flush | .lastSnapshots | .finish => true
  | _ => false

/-- The run of a context stands between two epochs. -/
def runQuiet (x : Ctx) : Bool :=
  match x.run with
  | none => true
  | some g =>
    !g.inSweep &&
      (match g.todo with
       | s :: _ => quietStage s
       | [] => g.sweep % g.desc.epochSweeps == 0)

/-- A context is quiet on the galleries of a unit (R268): its run stands between epochs, and no op with treads and no
COMPUTE firing of it is in progress there. -/
def ctxQuiet (d : Dev) (c : Nat) (on : Nat → Nat → Bool) : Bool :=
  match ctxOf d c with
  | none => true
  | some x =>
    let stepOn (s : FStep) : Bool := s.ranges.any (fun r => (List.range r.2.2).any (fun k => on r.1 (r.2.1 + k)))
    let opOn : Bool := (allQueues d).any (fun q =>
      match (queueOf d q).cur with
      | some e => e.ctx == c && e.issues.any (fun i => issueOpen i && opHasTreads i.record &&
          (List.range 320).any (fun k => on (k / 20) (k % 20) && usesGallery x (k / 20) (k % 20)))
      | none => false)
    runQuiet x && !opOn && x.flights.all (fun f => f.2.steps.all (fun s => s.firing.isNone || !stepOn s)) &&
      x.tiles.all (fun t => t.endReq.isNone || !on t.hall (t.tread / 32))

/-- The context has a unit in its placement (R265). -/
def ctxHasUnit (x : Ctx) (u : MarchUnit) : Bool :=
  match u with
  | .scratch h t => usesGallery x h.val (t.val / 32)
  | .shared h =>
    match placeOfHall x h.val with
    | some p => p.sharedCount != 0
    | none => false
  | .channel _ => true

/-- The contexts a unit is placed to. -/
def unitCtxs (d : Dev) (u : MarchUnit) : List Nat :=
  (d.ctxs.filter (fun p => ctxHasUnit p.2 u)).map (fun p => p.1)

/-- R265: the unit is placed. -/
def unitPlaced (d : Dev) (u : MarchUnit) : Bool := !(unitCtxs d u).isEmpty

/-- The galleries whose work a unit's test concerns. -/
def unitGalleries (u : MarchUnit) (h g : Nat) : Bool :=
  match u with
  | .scratch k t => k.val == h && t.val / 32 == g
  | .shared k => k.val == h
  | .channel _ => true

/-- R268: every context placed on the unit is quiet. -/
def unitQuiet (d : Dev) (u : MarchUnit) : Bool := (unitCtxs d u).all (fun c => ctxQuiet d c (unitGalleries u))

/-- The run holds for march tests of its context's units (R268). -/
def marchHolds (d : Dev) (x : Ctx) : Bool :=
  d.march.reqs.any (fun r => (r.running ++ r.deferred).any (ctxHasUnit x))

/-- The start of a context's next epoch is held. -/
def epochHeld (d : Dev) (c : Nat) (g : Run) : Bool :=
  g.sweep % g.desc.epochSweeps == 0 && (ctxOf d c).any (marchHolds d)

end Sys2Proof.Machine
end

