-- ==== Sys2Proof/Machine/Variates.lean ====
section
/-! DEFINITION. The tread generator (R108 to R110), the threshold tables (R72) and the acceptance rules (R71, R73,
R105). -/

namespace Sys2Proof.Machine

/- The tread generator. -/

def u32mod (n : Nat) : Nat := n % 4294967296

def rotl32 (x n : Nat) : Nat := u32mod (x * 2 ^ n) + u32mod x / 2 ^ (32 - n)

/-- The four words of a generator state. -/
structure Gen where
  x0 : Nat
  x1 : Nat
  x2 : Nat
  x3 : Nat
  deriving DecidableEq, Repr

/-- One round of R110 with key word `k` and round number `r`. -/
def genRound (k r : Nat) (g : Gen) : Gen :=
  let x0 := u32mod (g.x0 + g.x1 + k + r)
  let x3 := rotl32 (g.x3 ^^^ x0) 16
  let x2 := u32mod (g.x2 + x3)
  let x1 := rotl32 (g.x1 ^^^ x2) 12
  let x0 := u32mod (x0 + x1)
  let x3 := rotl32 (x3 ^^^ x0) 8
  let x2 := u32mod (x2 + x3)
  let x1 := rotl32 (x1 ^^^ x2) 20
  { x0 := x0, x1 := x1, x2 := x2, x3 := x3 }

/-- The fields of a generator counter (Table 4.5). -/
structure Counter where
  domain : Nat
  part : Nat := 0
  block : Nat := 0
  replica : Nat := 0
  sweep : Nat := 0
  spin : Nat := 0
  draw : Nat := 0
  deriving DecidableEq, Repr

/-- The first generator state of a counter. -/
def genStart (c : Counter) : Gen :=
  { x0 := u32mod c.sweep
    x1 := u32mod (u32mod (c.sweep / 4294967296) ||| (c.replica * 2 ^ 16) ||| (c.domain * 2 ^ 22))
    x2 := u32mod (c.block ||| (c.spin * 2 ^ 12) ||| (c.draw % 8 * 2 ^ 29))
    x3 := u32mod (c.draw / 8 ||| (c.part * 2 ^ 12)) }

def seedKey0 (seed : Nat) : Nat := u32mod seed ^^^ 0xB5A31C47
def seedKey1 (seed : Nat) : Nat := u32mod (seed / 4294967296) ^^^ 0x4E2D97F8

/-- R110: the 16-bit variate of a seed and a counter. -/
def treadVariate (seed : Nat) (c : Counter) : Nat :=
  let k0 := seedKey0 seed
  let k1 := seedKey1 seed
  let g := genRound k1 5 (genRound k0 4 (genRound k1 3 (genRound k0 2 (genRound k1 1 (genRound k0 0 (genStart c))))))
  (g.x0 ^^^ g.x1 ^^^ g.x2 ^^^ g.x3) / 65536 % 65536

/- The threshold tables. Logarithms are fixed-point integers with 96 fractional bits, from the series of the inverse
hyperbolic tangent; the error stays below 2^-80, and no entry of R72 lies so close to an integer. -/

def fixOne : Nat := 2 ^ 96

/-- The sum of t·z2^i/(2i + 1) over `n` terms. -/
def atanhSum (z2 : Nat) : Nat → Nat → Nat → Nat
  | 0, _, _ => 0
  | n + 1, i, t => t / (2 * i + 1) + atanhSum z2 n (i + 1) (t * z2 / fixOne)

/-- 2·atanh(z), z at most 1/3. -/
def twoAtanh (z : Nat) : Nat := 2 * atanhSum (z * z / fixOne) 32 0 z

def fixLn2 : Nat := twoAtanh (fixOne / 3)

/-- ln m for m ≥ 1. -/
def fixLn (m : Nat) : Nat :=
  let k := Nat.log2 m
  k * fixLn2 + twoAtanh ((m - 2 ^ k) * fixOne / (m + 2 ^ k))

/-- L[u] (R72). -/
def tableL (u : Nat) : Nat := 65536 * (17 * fixLn2 - fixLn (2 * u + 1)) / fixOne

/-- H[u] (R72). -/
def tableH (u : Nat) : Int :=
  65536 * ((fixLn (131072 - (2 * u + 1)) : Int) - fixLn (2 * u + 1)) / (fixOne : Int)

/- Acceptance. -/

/-- The Metropolis rule of R73. -/
def metropolis (dE : Int) (tfix u : Nat) (logq : Int) : Bool :=
  decide (16777216 * dE ≤ (tfix : Int) * ((tableL u : Int) + logq))

/-- The heat-bath rule of R73. -/
def heatBath (dE : Int) (tfix u : Nat) : Bool := decide (16777216 * dE < (tfix : Int) * tableH u)

/-- The rule of a move's schedule entry. -/
def accepts (hb : Bool) (dE : Int) (tfix u : Nat) : Bool := if hb then heatBath dE tfix u else metropolis dE tfix u 0

/-- R105: whether rungs with temperatures `a`, `b` and energies `e0`, `e1` are swapped. -/
def exchangeRule (a b : Nat) (e0 e1 : Int) (u : Nat) : Bool :=
  decide (16777216 * ((b : Int) - a) * (e1 - e0) ≤ (a : Int) * b * tableL u)

/-- R103. -/
def ladderT (tfix ratio : Nat) : Nat := min 16777215 (tfix * ratio / 4096)

end Sys2Proof.Machine
end

