-- ==== Sys2Proof/Machine/Spins.lean ====
section
/-! DEFINITION. A loaded problem's spins, fields and energies (R31 to R47, R70, R75, R76, R79, R80, R89, R100). -/

namespace Sys2Proof.Machine

/-- The spin value: +1 for true. -/
def sgn (b : Bool) : Int := if b then 1 else -1

def intAt (l : List Int) (i : Nat) : Int := l.getD i 0

def sumInt (l : List Int) : Int := l.foldl (· + ·) 0

/- Numbering (R34). -/

/-- Block and number within the block of a device spin index. -/
def locate (bs : List PBlock) (i : Nat) : Nat × Nat :=
  let b := (bs.findIdx? (fun x => decide (x.first ≤ i) && decide (i < x.first + x.n))).getD 0
  match bs[b]? with
  | some x => (b, i - x.first)
  | none => (0, i)

def blockAt (p : Problem) (b : Nat) : Option PBlock := p.blocks[b]?

def repAt (x : PBlock) (r : Nat) : Replica := x.reps.getD r { spins := [], fields := [], energy := 0, bestSpins := [], best := 0 }

/-- The hall tread of a spin: sparse spins by slot (R36), dense spins by row (R35). -/
def spinTread (x : PBlock) (k : Nat) : Nat :=
  if x.dense then
    let a := x.n / x.treads
    let b := x.n % x.treads
    x.tread + (if k < b * (a + 1) then k / (a + 1) else b + (k - b * (a + 1)) / a)
  else x.tread + k / 128

/- Assignments of values to device spins. -/

/-- Every block at its lead replica (R79). -/
def leadSpins (p : Problem) : List (List Bool) := p.blocks.map (fun x => (repAt x 0).spins)

/-- An assignment with one block's spins replaced. -/
def withBlock (a : List (List Bool)) (b : Nat) (s : List Bool) : List (List Bool) := a.set b s

/-- The value that an assignment gives a device spin. -/
def valueOf (p : Problem) (a : List (List Bool)) (i : Nat) : Int :=
  let (b, k) := locate p.blocks i
  sgn ((a.getD b []).getD k false)

def importOf (p : Problem) (i : Nat) : Int := sgn (p.imports.getD i false)

/-- The value at the other end of an edge seen from its spin `i`. -/
def farValue (p : Problem) (a : List (List Bool)) (e : Edge) (i : Nat) : Int :=
  if e.imp then importOf p e.b else valueOf p a (if e.a = i then e.b else e.a)

/-- The edges of a device spin. -/
def edgesOf (p : Problem) (i : Nat) : List Edge := p.edges.filter (fun e => e.a == i || (!e.imp && e.b == i))

/-- The part of a spin's field from its own dense row. -/
def rowField (x : PBlock) (own : List Bool) (k : Nat) : Int :=
  sumInt ((List.range x.n).map (fun j => if j = k then 0 else intAt (x.rows.getD k []) j * sgn (own.getD j false)))

/-- R31, R79: the field of spin `k` of block `b`, whose own spins are `own` and whose outside spins `out` gives. -/
def fieldIn (p : Problem) (b : Nat) (x : PBlock) (own : List Bool) (out : List (List Bool)) (k : Nat) : Int :=
  let a := withBlock out b own
  intAt x.biases k + (if x.dense then rowField x own k else 0) +
    sumInt ((edgesOf p (x.first + k)).map (fun e => e.val * farValue p a e (x.first + k)))

/-- −Σ J s s − Σ h s within one block. -/
def blockEnergy (x : PBlock) (own : List Bool) : Int :=
  let s (k : Nat) : Int := sgn (own.getD k false)
  let h := sumInt ((List.range x.n).map (fun k => intAt x.biases k * s k))
  let j := if x.dense then
      sumInt ((List.range x.n).map (fun i =>
        sumInt ((List.range i).map (fun k => intAt (x.rows.getD i []) k * s k)) * s i))
    else 0
  0 - h - j

/-- R31: the energy of an assignment. -/
def energyOf (p : Problem) (a : List (List Bool)) : Int :=
  p.constant + sumInt (p.blocks.zipIdx.map (fun y => blockEnergy y.1 (a.getD y.2 []))) -
    sumInt (p.edges.map (fun e => e.val * valueOf p a e.a * farValue p a e e.a))

/-- R79: the system energy, and replica energies. -/
def systemEnergy (p : Problem) : Int := energyOf p (leadSpins p)

def replicaEnergy (p : Problem) (b : Nat) (own : List Bool) : Int := energyOf p (withBlock (leadSpins p) b own)

def modBlock (b : Nat) (f : PBlock → PBlock) (p : Problem) : Problem := { p with blocks := modAt b f p.blocks }

def modRep (b r : Nat) (f : Replica → Replica) (p : Problem) : Problem :=
  modBlock b (fun x => { x with reps := modAt r f x.reps }) p

/-- One spin of one replica takes a value. -/
def setSpin (b r k : Nat) (v : Bool) (p : Problem) : Problem :=
  modRep b r (fun s => { s with spins := s.spins.set k v }) p

/-- Fields and energies as the present spins, imports and coefficients give them (R45, R89). -/
def refresh (p : Problem) : Problem :=
  let lead := leadSpins p
  { p with
    energy := systemEnergy p
    blocks := p.blocks.zipIdx.map (fun y =>
      { y.1 with reps := y.1.reps.map (fun r =>
          { r with fields := (List.range y.1.n).map (fieldIn p y.2 y.1 r.spins lead)
                   energy := replicaEnergy p y.2 r.spins }) }) }

/-- The problem as it stands where some accepted flips have not yet arrived: those spins still have their old values. -/
def undoFlips (fs : List Flip) (p : Problem) : Problem :=
  fs.foldr (fun f p => setSpin f.block f.rep f.spin (!f.value) p) p

/-- The problem as the treads of hall `h` know it: flips that its bus has not carried are not applied there (R77, R88). -/
def hallView (h : Nat) (fs : List Flip) (p : Problem) : Problem := undoFlips (fs.filter (fun f => f.halls.contains h)) p

/-- The problem with the moves applied whose flips their own hall's bus has carried (R89). -/
def ownView (fs : List Flip) (p : Problem) : Problem :=
  undoFlips (fs.filter (fun f =>
    match p.blocks[f.block]? with
    | some x => f.halls.contains x.hall
    | none => false)) p

/-- Fields as each hall's treads hold them, and energies, while the flips `fs` are on their way (R88, R89). -/
def refreshFlips (fs : List Flip) (p : Problem) : Problem :=
  let own := ownView fs p
  { p with
    energy := systemEnergy own
    blocks := p.blocks.zipIdx.map (fun y =>
      let v := hallView y.1.hall fs p
      let lead := leadSpins v
      let mine (q : Problem) (r : Nat) : List Bool :=
        match q.blocks[y.2]? with
        | some x => (repAt x r).spins
        | none => []
      { y.1 with reps := y.1.reps.zipIdx.map (fun r =>
          { r.1 with fields := (List.range y.1.n).map (fieldIn v y.2 y.1 (mine v r.2) lead)
                     energy := replicaEnergy own y.2 (mine own r.2) }) }) }

/-- The best system state (R89). -/
def bestState (p : Problem) : List (List Bool) := p.blocks.map (fun x => (repAt x 0).bestSpins)

/-- R100, R211: coefficients or imports have changed from `old` to `new`; every best energy changes by the exact change
of its own state. -/
def rescore (old new : Problem) : Problem :=
  let n := refresh new
  let dBest := energyOf n (bestState old) - energyOf old (bestState old)
  let lead := leadSpins old
  { n with
    best := old.best + dBest
    blocks := n.blocks.zipIdx.map (fun y =>
      { y.1 with reps := y.1.reps.zipIdx.map (fun r =>
          let st := if r.2 = 0 then bestState old else withBlock lead y.2 r.1.bestSpins
          { r.1 with best := r.1.best + energyOf n st - energyOf old st }) }) }

/-- Bests as the starting state gives them (R89, R107). -/
def startBests (p : Problem) : Problem :=
  let p := refresh p
  { p with
    best := p.energy
    blocks := p.blocks.map (fun x => { x with reps := x.reps.map (fun r => { r with bestSpins := r.spins, best := r.energy }) }) }

/-- R89: energies are compared with their bests at the end of a sweep. -/
def compareBests (p : Problem) : Problem :=
  let newSys := decide (p.energy < p.best)
  { p with
    best := if newSys then p.energy else p.best
    blocks := p.blocks.map (fun x =>
      { x with reps := x.reps.zipIdx.map (fun y =>
          if y.2 = 0 then (if newSys then { y.1 with bestSpins := y.1.spins, best := p.energy } else { y.1 with best := p.best })
          else if y.1.energy < y.1.best then { y.1 with bestSpins := y.1.spins, best := y.1.energy } else y.1) }) }

def modCount (b : Nat) (f : BlockCounters → BlockCounters) (p : Problem) : Problem :=
  modBlock b (fun x => { x with count := f x.count }) p

/- Couplings within a block (R70). -/

/-- The stored coupling of two spins of one block. -/
def coupling (p : Problem) (x : PBlock) (i j : Nat) : Int :=
  if i = j then 0
  else if x.dense then intAt (x.rows.getD i []) j
  else
    let u := x.first + min i j
    let v := x.first + max i j
    match p.edges.find? (fun e => !e.imp && e.a == u && e.b == v) with
    | some e => e.val
    | none => 0

/- Groups (R38, R39). -/

/-- The group of a device spin. -/
def groupOf (p : Problem) (i : Nat) : Option (List Nat) := p.groups.find? (fun g => g.contains i)

def groupLowest (g : List Nat) : Nat := g.foldl min (g.headD 0)

/-- R39: exactly one hot member. -/
def fixGroup (first : Nat) (s : List Bool) (g : List Nat) : List Bool × Bool :=
  let hot := g.filter (fun i => s.getD (i - first) false)
  if hot.length = 1 then (s, false)
  else (g.foldl (fun s i => s.set (i - first) (i == groupLowest g)) s, true)

/-- The groups of a block fixed in one spin list: the list and the groups changed. -/
def fixGroups (x : PBlock) (gs : List (List Nat)) (s : List Bool) : List Bool × Nat :=
  (gs.filter (fun g => decide (x.first ≤ groupLowest g) && decide (groupLowest g < x.first + x.n))).foldl
    (fun a g => let r := fixGroup x.first a.1 g; (r.1, a.2 + ofBool r.2)) (s, 0)

/- Phases (R76). -/

inductive Phase where
  | dense (tier : Nat)
  | sparse (colour tier : Nat)
  deriving DecidableEq, Repr

def maxOf (l : List Nat) : Nat := l.foldl max 0

/-- The phases of a strict sweep in order. -/
def phasesOf (bs : List PBlock) : List Phase :=
  let tiers := (bs.filter (fun x => x.dense)).map (fun x => x.tier)
  let pairs := (bs.filter (fun x => !x.dense)).flatMap (fun x => x.colours.zip x.spinTiers)
  ((List.range (maxOf tiers + 1)).filter (fun t => tiers.contains t)).map .dense ++
  (List.range 16).flatMap (fun c =>
    let ts := (pairs.filter (fun q => q.1 == c)).map (fun q => q.2)
    ((List.range (maxOf ts + 1)).filter (fun t => ts.contains t)).map (fun t => .sparse c t))

/-- The galleries of a block's span: hall and gallery. -/
def spanGalleries (x : PBlock) : List (Nat × Nat) :=
  let g0 := x.tread / 32
  let g1 := (x.tread + x.treads - 1) / 32
  (List.range (g1 + 1 - g0)).map (fun i => (x.hall, g0 + i))

/-- Every gallery that holds a span. -/
def problemGalleries (p : Problem) : List (Nat × Nat) := (p.blocks.flatMap spanGalleries).eraseDups

/-- Halls whose spins are coupled to a spin, its own hall first (R88). -/
def flipHalls (p : Problem) (x : PBlock) (k : Nat) : List Nat :=
  let i := x.first + k
  let far := (edgesOf p i).filterMap (fun e =>
    if e.imp then none
    else (blockAt p (locate p.blocks (if e.a = i then e.b else e.a)).1).map (fun y => y.hall))
  (x.hall :: far).eraseDups

end Sys2Proof.Machine
end

