-- ==== Sys2Proof/Machine/LoadForm.lean ====
section
/-! DEFINITION. LOAD_PROBLEM, stage 1: the header, block table, edge list, group table and colours as they are read
and checked (R33 to R39, R51, R53, R56 to R59), and the tiers of R75. -/

namespace Sys2Proof.Machine

/- Reason codes of Table 2.9. -/
def rsSpan : Nat := 0x01
def rsBlock : Nat := 0x02
def rsDenseSize : Nat := 0x03
def rsDenseRows : Nat := 0x04
def rsSpinSlots : Nat := 0x05
def rsEdges : Nat := 0x06
def rsHallShared : Nat := 0x07
def rsColours : Nat := 0x08
def rsSpillArea : Nat := 0x09
def rsUpdateEntry : Nat := 0x0A
def rsUpdateConflict : Nat := 0x0B
def rsEdgeForm : Nat := 0x10
def rsGroupForm : Nat := 0x11
def rsColourForm : Nat := 0x12
def rsCoeffRange : Nat := 0x13
def rsFieldBound : Nat := 0x14
def rsConstantRange : Nat := 0x15
def rsLoadHeader : Nat := 0x16

/-- Table 2.8: ITEM, ITEM_KIND and REASON. -/
def itemDetail (item kind reason : Nat) : Nat := low 32 item + low 3 kind * 2 ^ 32 + low 8 reason * 2 ^ 48

/-- Table 2.8: the deficit of a load that does not fit. -/
def fitDetail (bytes galleries reason hall : Nat) : Nat :=
  min bytes (2 ^ 40 - 1) + low 8 galleries * 2 ^ 40 + low 8 reason * 2 ^ 48 + low 8 hall * 2 ^ 56

/-- What the load report says of a problem (Table 2.7). -/
structure LoadRep where
  id : Nat := 0
  quantum : Nat := 0
  rel : Nat := 0
  fixups : Nat := 0
  zeros : Nat := 0
  constant : Int := 0
  bound : Nat := 0
  spilled : Nat := 0
  colours : Nat := 0
  deriving DecidableEq, Repr

/-- A check of a load that fails: status, detail word, the failing block, and what the report already holds. -/
structure LoadFail where
  status : Nat
  detail : Nat
  block : Nat := 0xFFFF
  rep : LoadRep := {}
  deriving DecidableEq, Repr

/-- The checks of a load: reads of memory may end the op, and a check may fail. -/
abbrev Ld (α : Type) := ExceptT LoadFail Act α

def ldBad {α : Type} (f : LoadFail) : Ld α := ExceptT.mk (pure (.error f))

def ldFmt {α : Type} (item kind reason : Nat) (block : Nat := 0xFFFF) : Ld α :=
  ldBad { status := stBadFormat, detail := itemDetail item kind reason, block := block }

def ldRequire (b : Bool) (item kind reason : Nat) (block : Nat := 0xFFFF) : Ld Unit :=
  if b then pure () else ldFmt item kind reason block

/- The header (Table 2.4). -/
def hQubo (h : Bytes) : Bool := bit (u16 h 2) 0
def hAutoQ (h : Bytes) : Bool := bit (u16 h 2) 1
def hStoch (h : Bytes) : Bool := bit (u16 h 2) 2
def hSpill (h : Bytes) : Bool := bit (u16 h 2) 3
def hGreedy (h : Bytes) : Bool := bit (u16 h 2) 4
def hFmt (h : Bytes) : Nat := bits (u16 h 2) 5 2
def hBlocks (h : Bytes) : Nat := u16 h 0xC
def hEdges (h : Bytes) : Nat := u64 h 0x20
def hGroups (h : Bytes) : Nat := u32 h 0x30

/-- FP32 codes of positive normal values. -/
def normalF32 (c : Nat) : Bool := decide (0x00800000 ≤ c) && decide (c < 0x7F800000)

/-- The first failing field of the header, by its byte offset. The spill area, where it is permitted, lies in the
installed LPDDR5X; an address that breaks R11 is another failure. -/
def headerBad (m : Memory) (h : Bytes) : Option Nat :=
  let fmt := hFmt h
  let base := u64 h 0x48
  ([(0x00, u16 h 0 == 3),
    (0x02, bits (u16 h 2) 7 9 == 0 && fmt != 3 && !(fmt == 2 && (hQubo h || hAutoQ h))),
    (0x08, if hAutoQ h then u32 h 8 == 0 else normalF32 (u32 h 8)),
    (0x0C, decide (1 ≤ hBlocks h) && decide (hBlocks h ≤ 2560)),
    (0x0E, u16 h 0xE == 0),
    (0x18, hEdges h != 0 || u64 h 0x18 == 0),
    (0x28, hGroups h != 0 || u64 h 0x28 == 0),
    (0x30, decide (hGroups h ≤ 8388608)),
    (0x34, u32 h 0x34 == 0),
    (0x48, !hSpill h || !addrForm base || (base % 64 == 0 && decide (base < lpBytes m || (base == 0 && u64 h 0x50 == 0)))),
    (0x50, !hSpill h || !addrForm base || decide (base + u64 h 0x50 ≤ lpBytes m))].find? (fun p => !p.2)).map (fun p => p.1)
  |>.orElse (fun _ => nonzeroIn h 0x60 32)

/- Block descriptors (Table 2.5). -/

/-- The span's first hall tread and its number of treads. -/
def descTread (b : Bytes) : Nat := 32 * u8 b 3 + (if u8 b 4 = 0 then 4 * u8 b 5 else 0)
def descTreads (b : Bytes) : Nat := if u8 b 4 = 0 then 4 * u8 b 6 else 32 * u8 b 4

/-- The cases of reason BLOCK that concern one descriptor (R57). -/
def descBad (greedy : Bool) (b : Bytes) : Bool :=
  let kind := u8 b 0
  let dense := kind == 0
  decide (1 < kind) ||
    !(if dense then u8 b 1 == 8 || u8 b 1 == 4 else u8 b 1 == 0) ||
    !(if dense then decide (1 ≤ u8 b 7) && decide (u8 b 7 ≤ 64) else u8 b 7 == 1) ||
    (if dense then u64 b 0x10 == 0 else u64 b 0x10 != 0) ||
    (if dense || greedy then u64 b 0x28 != 0 else u64 b 0x28 == 0) ||
    (nonzeroIn b 0x30 16).isSome || (!dense && u32 b 8 == 0)

/-- R35. -/
def denseSizeOk (bits n : Nat) : Bool :=
  decide (64 ≤ n) && decide (n ≤ if bits = 8 then Config.dense8Max else Config.dense4Max)

/-- A block as its descriptor shapes it, before its coefficients. -/
def shapeOf (first : Nat) (b : Bytes) : PBlock :=
  { dense := u8 b 0 == 0, bits := u8 b 1, hall := u8 b 2, tread := descTread b, treads := descTreads b, n := u32 b 8,
    first := first, tag := u32 b 0xC, rows := [], shifts := [], biases := [], colours := [], spinTiers := [], tier := 0,
    reps := [] }

/-- The block table: each descriptor checked in turn, spins numbered consecutively (R34). -/
def blocksFrom (greedy : Bool) : Nat → Nat → List Bytes → Ld (List PBlock)
  | _, _, [] => pure []
  | i, first, b :: t => do
    ldRequire (!descBad greedy b) i 1 rsBlock i
    ldRequire (u8 b 0 != 0 || denseSizeOk (u8 b 1) (u32 b 8)) i 1 rsDenseSize i
    ldRequire (decide (first + u32 b 8 ≤ Config.spinsMax)) i 1 rsBlock i
    let rest ← blocksFrom greedy (i + 1) (first + u32 b 8) t
    pure (shapeOf first b :: rest)

/-- A run of bytes cut into records of `k` bytes. -/
def chunks (k : Nat) : Nat → Bytes → List Bytes
  | 0, _ => []
  | n + 1, bs => bs.take k :: chunks k n (bs.drop k)

/-- Spins loaded. -/
def spinCount (bs : List PBlock) : Nat := bs.foldl (fun n b => n + b.n) 0

/- Edge-list records (Table 2.6). -/

/-- One coupling of the edge list: its pair, the exact sum of its records and the first of them (R58). -/
structure EdgeIn where
  pair : Edge
  sum : FV
  first : Nat
  deriving DecidableEq, Repr

/-- The value that a field in COEFF_FORMAT holds. -/
def coeffOf (fmt v : Nat) : FV :=
  if fmt = 0 then decodeF fp32 v else if fmt = 1 then decodeF fp16 v else FV.ofInt (toInt 32 v)

def coeffBytes (fmt : Nat) : Nat := if fmt = 1 then 2 else 4

/-- The pair that a record's SPIN_A and SPIN_B name, the lower device spin first. -/
def pairOf (a b : Nat) : Edge :=
  if bit b 23 then { a := a, b := bits b 0 23, imp := true, val := 0 }
  else { a := min a b, b := max a b, imp := false, val := 0 }

def samePair (e f : Edge) : Bool := e.a == f.a && e.b == f.b && e.imp == f.imp

/-- R58, R200: whether a record names a pair that the problem can store. -/
def pairFits (bs : List PBlock) (imports a b : Nat) : Bool :=
  let n := spinCount bs
  decide (a < n) &&
    (if bit b 23 then decide (bits b 0 23 < imports)
     else
       decide (b < n) && a != b &&
         !((locate bs a).1 == (locate bs b).1 &&
           (match bs[(locate bs a).1]? with
            | some x => x.dense
            | none => false)))

/-- A record is added to the couplings read so far. -/
def addRecord (i : Nat) (p : Edge) (v : FV) : List EdgeIn → List EdgeIn
  | [] => [{ pair := p, sum := v, first := i }]
  | e :: t => if samePair e.pair p then { e with sum := addV e.sum v } :: t else e :: addRecord i p v t

def edgesFrom (bs : List PBlock) (fmt imports : Nat) : Nat → List EdgeIn → List Bytes → Ld (List EdgeIn)
  | _, acc, [] => pure acc
  | i, acc, r :: t => do
    let a := u32 r 0
    let b := bits (u32 r 4) 0 24
    let v := u32 r 8
    ldRequire (u8 r 7 == 0 && u32 r 0xC == 0 && (fmt != 1 || v / 65536 == 0) && pairFits bs imports a b) i 2 rsEdgeForm
    edgesFrom bs fmt imports (i + 1) (addRecord i (pairOf a b) (coeffOf fmt v) acc) t

/- Groups (R38, R59). -/

/-- Hall and gallery of a device spin. -/
def galleryOf (bs : List PBlock) (i : Nat) : Nat × Nat × Nat :=
  let (b, k) := locate bs i
  match bs[b]? with
  | some x => (b, x.hall, spinTread x k / 32)
  | none => (b, 0, 0)

/-- R38 over the members of one group, given the groups before it. -/
def groupOk (bs : List PBlock) (before : List (List Nat)) (g : List Nat) : Bool :=
  g.all (fun i => decide (i < spinCount bs) && !(before.any (fun h => h.contains i)) &&
    galleryOf bs i == galleryOf bs (g.headD 0)) && decide (g.eraseDups.length = g.length)

def u32sOf : Nat → Bytes → List Nat
  | 0, _ => []
  | n + 1, bs => u32 bs 0 :: u32sOf n (bs.drop 4)

def groupsFrom (env : OpEnv) (bs : List PBlock) : Nat → List (List Nat) → List Bytes → Ld (List (List Nat))
  | _, acc, [] => pure acc
  | i, acc, r :: t => do
    let n := u16 r 8
    ldRequire ((nonzeroIn r 0xA 6).isNone && decide (2 ≤ n) && decide (n ≤ 256)) i 3 rsGroupForm
    let raw ← rd env (u64 r 0) (4 * n)
    let g := u32sOf n raw
    ldRequire (groupOk bs acc g) i 3 rsGroupForm
    groupsFrom env bs (i + 1) (acc ++ [g]) t

/- Colours (R53). -/

/-- The vertex of a device spin: its group, or itself. -/
def vertexOf (gs : List (List Nat)) (i : Nat) : List Nat := (gs.find? (fun g => g.contains i)).getD [i]

/-- Device spins coupled to a spin. -/
def coupledTo (es : List EdgeIn) (i : Nat) : List Nat :=
  es.filterMap (fun e =>
    if e.pair.imp then none else if e.pair.a = i then some e.pair.b else if e.pair.b = i then some e.pair.a else none)

def isSparse (bs : List PBlock) (i : Nat) : Bool :=
  match bs[(locate bs i).1]? with
  | some x => !x.dense
  | none => false

/-- Colours held by coupled spins of the same gallery outside a vertex. -/
def coloursNear (bs : List PBlock) (es : List EdgeIn) (col : List (Nat × Nat)) (v : List Nat) : List Nat :=
  (v.flatMap (fun i => (coupledTo es i).filter (fun j =>
    !v.contains j && (galleryOf bs j).2 == (galleryOf bs i).2))).filterMap (fun j => tabGet? j col)

/-- The lowest number a list does not hold. -/
def lowestFree (l : List Nat) : Nat := ((List.range (l.length + 1)).find? (fun c => !l.contains c)).getD 0

/-- Greedy colouring in device-spin-index order. -/
def greedyColours (bs : List PBlock) (es : List EdgeIn) (gs : List (List Nat)) : List (Nat × Nat) :=
  (List.range (spinCount bs)).foldl
    (fun col i =>
      if isSparse bs i && (tabGet? i col).isNone then
        let v := vertexOf gs i
        let c := lowestFree (coloursNear bs es col v)
        v.foldl (fun col j => tabSet j c col) col
      else col) []

/-- The checks of R53 at spin `i`, given the colours read. -/
def colourOk (bs : List PBlock) (es : List EdgeIn) (gs : List (List Nat)) (col : List (Nat × Nat)) (i : Nat) : Bool :=
  let c := tabGet 0 i col
  let v := vertexOf gs i
  decide (c ≤ 15) && c == tabGet 0 (groupLowest v) col &&
    !((coupledTo es i).any (fun j =>
      decide (j < i) && !v.contains j && (galleryOf bs j).2 == (galleryOf bs i).2 && tabGet? j col == some c))

/-- The colour bytes of the sparse blocks. -/
def coloursRead (env : OpEnv) : List (PBlock × Bytes) → Ld (List (Nat × Nat))
  | [] => pure []
  | (x, b) :: t => do
    let here ← if x.dense then pure [] else rd env (u64 b 0x28) x.n
    let rest ← coloursRead env t
    pure (here.zipIdx.map (fun p => (x.first + p.2, p.1.toNat)) ++ rest)

/-- The largest number of colours in a gallery. -/
def coloursMax (bs : List PBlock) (col : List (Nat × Nat)) : Nat :=
  let at' (p : Nat × Nat) : Nat × Nat := (galleryOf bs p.1).2
  maxOf ((col.map at').eraseDups.map (fun g => ((col.filter (fun p => at' p == g)).map (fun p => p.2)).eraseDups.length))

/- Tiers (R75). -/

/-- Block tiers, in block order. -/
def blockTiers (bs : List PBlock) (es : List EdgeIn) : List Nat :=
  let joins (b c : Nat) : Bool := es.any (fun e => !e.pair.imp &&
    ((locate bs e.pair.a).1 == b && (locate bs e.pair.b).1 == c ||
     (locate bs e.pair.a).1 == c && (locate bs e.pair.b).1 == b))
  (List.range bs.length).foldl
    (fun ts b =>
      let below := (List.range b).filter (fun c => joins b c)
      ts ++ [if below.isEmpty then 0 else 1 + maxOf (below.map (fun c => ts.getD c 0))]) []

/-- Spin tiers by device spin, from the colours. -/
def spinTierTable (bs : List PBlock) (es : List EdgeIn) (gs : List (List Nat)) (col : List (Nat × Nat)) :
    List (Nat × Nat) :=
  (List.range (spinCount bs)).foldl
    (fun ts i =>
      let v := vertexOf gs i
      if isSparse bs i && groupLowest v == i then
        let near := v.flatMap (fun m => (coupledTo es m).filter (fun j =>
          isSparse bs j && tabGet? j col == tabGet? m col && (galleryOf bs j).2 != (galleryOf bs m).2 &&
            decide (groupLowest (vertexOf gs j) < i)))
        let t := if near.isEmpty then 0 else 1 + maxOf (near.map (fun j => tabGet 0 j ts))
        v.foldl (fun ts j => tabSet j t ts) ts
      else ts) []

/-- What stage 1 gives. -/
structure LoadForm where
  hdr : Bytes
  descs : List Bytes
  shapes : List PBlock
  edges : List EdgeIn
  groups : List (List Nat)
  colours : List (Nat × Nat)
  deriving DecidableEq, Repr

/-- Stage 1 of R51. -/
def loadForm (env : OpEnv) (imports : Nat) (h : Bytes) : Ld LoadForm := do
  let d ← (get : Act Dev)
  match headerBad d.mem h with
  | some o => ldFmt o 0 rsLoadHeader
  | none => if hSpill h then checkAddr (u64 h 0x48) else pure ()
  let table ← rd env (u64 h 0x10) (64 * hBlocks h)
  let descs := chunks 64 (hBlocks h) table
  let bs ← blocksFrom (hGreedy h) 0 0 descs
  let edgeBytes ← if hEdges h = 0 then pure [] else rd env (u64 h 0x18) (16 * hEdges h)
  let es ← edgesFrom bs (hFmt h) imports 0 [] (chunks 16 (hEdges h) edgeBytes)
  let groupBytes ← if hGroups h = 0 then pure [] else rd env (u64 h 0x28) (16 * hGroups h)
  let gs ← groupsFrom env bs 0 [] (chunks 16 (hGroups h) groupBytes)
  let col ← if hGreedy h then pure (greedyColours bs es gs) else coloursRead env (bs.zip descs)
  let bad := if hGreedy h then none
    else (List.range (spinCount bs)).find? (fun i => isSparse bs i && !colourOk bs es gs col i)
  match bad with
  | some i => ldFmt i 4 rsColourForm
  | none => pure { hdr := h, descs := descs, shapes := bs, edges := es, groups := gs, colours := col }

end Sys2Proof.Machine
end

