-- ==== Sys2Proof/Machine/LoadValues.lean ====
section
/-! DEFINITION. LOAD_PROBLEM, stage 3: the coefficients as they are read, converted, quantised and bounded (R32, R40
to R48, R57, R58). -/

namespace Sys2Proof.Machine

/-- Dyadic factors. -/
def fvPow2 (e : Int) : FV := .num false 1 e

def fvAbs (v : FV) : FV :=
  match v with
  | .num _ m e => .num false m e
  | .inf _ => .inf false
  | .nan => .nan

def sumFV (l : List FV) : FV := l.foldl addV FV.zero

/-- The input values of a problem: for each block the upper triangle's rows and the biases; for each edge its sum,
rounded once to binary64; the constant. -/
structure LoadVals where
  upper : List (List (List FV))
  biases : List (List FV)
  edges : List FV
  constant : FV
  deriving DecidableEq, Repr

def elemsOf (fmt : Nat) : Nat → Bytes → List FV
  | 0, _ => []
  | n + 1, bs => coeffOf fmt (fld bs 0 (coeffBytes fmt)) :: elemsOf fmt n (bs.drop (coeffBytes fmt))

/-- Row `i` of the upper triangle, from position i + 1; row by row (R57: positions i < j only are read). -/
def upperFrom (env : OpEnv) (fmt addr n : Nat) : Nat → Nat → Act (List (List FV))
  | 0, _ => pure []
  | k + 1, i => do
    let len := n - 1 - i
    let bs ← if len = 0 then pure [] else rd env (addr + (i * n + i + 1) * coeffBytes fmt) (len * coeffBytes fmt)
    let rest ← upperFrom env fmt addr n k (i + 1)
    pure (elemsOf fmt len bs :: rest)

def valuesFrom (env : OpEnv) (fmt : Nat) : List (PBlock × Bytes) → Act (List (List (List FV)) × List (List FV))
  | [] => pure ([], [])
  | (x, b) :: t => do
    if x.dense then checkAddr (u64 b 0x10) else pure ()
    let u ← if x.dense then upperFrom env fmt (u64 b 0x10) x.n x.n 0 else pure []
    let raw ← if u64 b 0x18 = 0 then pure [] else rd env (u64 b 0x18) (x.n * coeffBytes fmt)
    let h := if u64 b 0x18 = 0 then List.replicate x.n FV.zero else elemsOf fmt x.n raw
    let (us, hs) ← valuesFrom env fmt t
    pure (u :: us, h :: hs)

/-- The constant: binary64, or an integer in quanta. -/
def constantOf (h : Bytes) : FV :=
  if hFmt h = 2 then FV.ofInt (toInt 64 (u64 h 0x38)) else decodeF fp64 (u64 h 0x38)

def loadValues (env : OpEnv) (f : LoadForm) : Act LoadVals := do
  let (us, hs) ← valuesFrom env (hFmt f.hdr) (f.shapes.zip f.descs)
  pure { upper := us, biases := hs, edges := f.edges.map (fun e => roundF fp64 e.sum), constant := constantOf f.hdr }

/-- Position (i, j), i < j, of an upper triangle. -/
def upperAt (u : List (List FV)) (i j : Nat) : FV := (u.getD i []).getD (j - i - 1) FV.zero

/-- The value of a pair, from the upper triangle; 0 on the diagonal. -/
def pairAt (u : List (List FV)) (i j : Nat) : FV :=
  if i = j then FV.zero else if i < j then upperAt u i j else upperAt u j i

/- R32. -/

/-- The Q values of the pairs that hold a device spin. -/
def qubosOf (f : LoadForm) (v : LoadVals) (b k : Nat) : List FV :=
  match f.shapes[b]? with
  | none => []
  | some x =>
    let i := x.first + k
    (if x.dense then ((List.range x.n).filter (· != k)).map (pairAt (v.upper.getD b []) k) else []) ++
    (f.edges.zip v.edges).filterMap (fun p =>
      if p.1.pair.a = i ∨ (!p.1.pair.imp ∧ p.1.pair.b = i) then some p.2 else none)

def fvQuarter (v : FV) : FV := mulV v (fvPow2 (-2))
def fvHalf (v : FV) : FV := mulV v (fvPow2 (-1))

/-- The substitution of R32: exact sums, each rounded once to binary64. -/
def convertQubo (f : LoadForm) (v : LoadVals) : LoadVals :=
  let r (x : FV) : FV := roundF fp64 x
  let j (q : FV) : FV := r (negV (fvQuarter q))
  let all := v.upper.flatMap (fun u => u.flatMap id) ++ v.edges
  { upper := v.upper.map (fun u => u.map (fun row => row.map j))
    biases := v.biases.zipIdx.map (fun p => p.1.zipIdx.map (fun q =>
      r (addV (negV (fvHalf q.1)) (negV (fvQuarter (sumFV (qubosOf f v p.2 q.2)))))))
    edges := v.edges.map j
    constant := r (addV v.constant (addV (fvHalf (sumFV (v.biases.flatMap id))) (fvQuarter (sumFV all)))) }

/- Values that are not finite (R42). -/

/-- The first item of the coefficients that is not finite: dense pairs and biases block by block, then edges. -/
def notFinite (f : LoadForm) (v : LoadVals) : Option (Nat × Nat) :=
  let blockBad (p : PBlock × List (List FV) × List FV) : Option Nat :=
    let (x, u, h) := p
    match u.findIdx? (fun row => row.any (fun c => !c.isFinite)) with
    | some i => some (x.first + i)
    | none => (h.findIdx? (fun c => !c.isFinite)).map (x.first + ·)
  match (f.shapes.zip (v.upper.zip v.biases)).findSome? blockBad with
  | some i => some (i, 4)
  | none => ((f.edges.zip v.edges).find? (fun p => !p.2.isFinite)).map (fun p => (p.1.first, 2))

/- Quanta (R40 to R43). -/

def maxFV (l : List FV) : FV := l.foldl (fun m v => if ltV m (fvAbs v) then fvAbs v else m) FV.zero

/-- The FP32 code of the smallest normal value not below a positive one. -/
def f32Above (need : FV) : Nat :=
  let c := encodeF fp32 false need
  let c := if ltV (decodeF fp32 c) need then c + 1 else c
  max c 0x00800000

/-- `choose_quantum` of R41: the FP32 code of q; none where no normal q exists. -/
def chooseQuantum (f : LoadForm) (v : LoadVals) : Option Nat :=
  let dense (w : Nat) : List FV :=
    (f.shapes.zip v.upper).flatMap (fun p => if p.1.dense && p.1.bits == w then p.2.flatMap id else [])
  let ratio (l : List FV) (range : Int) : FV := roundF fp64 (divV (maxFV l) (FV.ofInt range))
  let need := maxFV [ratio (dense 8) 16256, ratio (dense 4) 896, ratio v.edges 32767, ratio (v.biases.flatMap id) 8388607]
  if need.isZero then some 0x3F800000
  else if ltV (decodeF fp32 (maxCode fp32)) need then none
  else some (f32Above need)

/-- A value in units, rounded to the nearest integer or, with a variate, stochastically (R43). -/
def roundUnits (u : Option Nat) (x : FV) : Int :=
  match u with
  | none => intOf x
  | some u =>
    let (n, d) := fracOf x
    let fl := n / (d : Int)
    if (u : Int) * d < (n - fl * d) * 65536 then fl + 1 else fl

/-- c in units of q·2^e, as binary64. -/
def inUnits (c q : FV) (e : Nat) : FV := roundF fp64 (divV c (mulV q (fvPow2 e)))

/-- The largest mantissa. -/
def mantMax (w : Nat) : Nat := if w = 8 then 127 else 7

/-- `choose_shift` of R41. -/
def chooseShift (q : FV) (mmax : Nat) (tile : List FV) : Nat :=
  ((List.range 7).find? (fun e => decide (intOf (inUnits (maxFV tile) q e) ≤ mmax))).getD 7

/-- The values that tile `t` of row `i` will hold. -/
def tileVals (u : List (List FV)) (n i t : Nat) : List FV :=
  ((List.range 64).filter (fun k => decide (64 * t + k < n))).map (fun k => pairAt u i (64 * t + k))

def shiftAt (s : List (List Nat)) (i t : Nat) : Nat := (s.getD i []).getD t 0

def setShift (s : List (List Nat)) (i t e : Nat) : List (List Nat) := modAt i (fun r => setAt t e r) s

/-- The shift a tile must rise to for a value. -/
def risen (mmax : Nat) (v : Int) (e : Nat) : Nat :=
  ((List.range 8).find? (fun k => decide (e ≤ k) && (k == 7 || decide (v.natAbs ≤ mmax * 2 ^ k)))).getD 7

/-- A dense block's quantisation: its triangle, unit, key and number. -/
structure DenseJob where
  u : List (List FV)
  n : Nat
  mmax : Nat
  unit : FV
  key : Option Nat
  block : Nat
  deriving DecidableEq, Repr

/-- The load-domain variate of a pair, a bias or an edge (Table 4.6). -/
def loadVariate (key : Option Nat) (block spin sweep draw : Nat) : Option Nat :=
  key.map (fun k => treadVariate k { domain := 1, block := block, spin := spin, sweep := sweep, draw := draw })

/-- The larger shift of the two tiles that hold a pair. -/
def pairShift (s : List (List Nat)) (i j : Nat) : Nat := max (shiftAt s i (j / 64)) (shiftAt s j (i / 64))

/-- The pair's value in quanta at shift `ep`. -/
def pairQuanta (g : DenseJob) (i j ep : Nat) : Int :=
  roundUnits (loadVariate g.key g.block i j 0) (inUnits (upperAt g.u i j) g.unit ep) * 2 ^ ep

def trianglePairs (n : Nat) : List (Nat × Nat) :=
  (List.range n).flatMap (fun i => (List.range (n - 1 - i)).map (fun k => (i, i + 1 + k)))

/-- One pass of R41's routine. -/
def shiftPass (g : DenseJob) (s : List (List Nat)) : List (List Nat) :=
  (trianglePairs g.n).foldl
    (fun s p =>
      let (i, j) := p
      let v := pairQuanta g i j (pairShift s i j)
      let s := setShift s i (j / 64) (risen g.mmax v (shiftAt s i (j / 64)))
      setShift s j (i / 64) (risen g.mmax v (shiftAt s j (i / 64)))) s

/-- Passes until none changes a shift; each changing pass raises one, so the fuel suffices. -/
def shiftLoop (g : DenseJob) : Nat → List (List Nat) → List (List Nat)
  | 0, s => s
  | k + 1, s =>
    let s' := shiftPass g s
    if s' = s then s else shiftLoop g k s'

def denseShifts (g : DenseJob) : List (List Nat) :=
  let tiles := ceilDiv g.n 64
  let s := (List.range g.n).map (fun i => (List.range tiles).map (fun t => chooseShift g.unit g.mmax (tileVals g.u g.n i t)))
  shiftLoop g (7 * g.n * tiles + 1) s

/-- A stored pair: the values and whether they are in range (R41, R42). -/
def densePairs (g : DenseJob) (s : List (List Nat)) : List ((Nat × Nat) × Int) :=
  (trianglePairs g.n).map (fun p => (p, pairQuanta g p.1 p.2 (pairShift s p.1 p.2)))

def denseRange (g : DenseJob) (s : List (List Nat)) (p : (Nat × Nat) × Int) : Bool :=
  decide (p.2.natAbs ≤ g.mmax * 2 ^ pairShift s p.1.1 p.1.2)

/-- The full symmetric matrix of stored couplings. -/
def denseRows (g : DenseJob) (s : List (List Nat)) : List (List Int) :=
  (List.range g.n).map (fun i => (List.range g.n).map (fun j =>
    if i = j then 0 else pairQuanta g (min i j) (max i j) (pairShift s i j)))

/- Errors (R44). -/

/-- The largest relative error so far, as numerator and denominator, and the zeros. -/
structure RelErr where
  num : FV := FV.zero
  den : FV := fvPow2 0
  zeros : Nat := 0
  deriving DecidableEq, Repr

def noteErr (q : FV) (r : RelErr) (p : FV × Int) : RelErr :=
  let (c, v) := p
  if c.isZero then r
  else if v = 0 then { r with zeros := r.zeros + 1 }
  else
    let num := fvAbs (addV (mulV (FV.ofInt v) q) (negV c))
    let den := fvAbs c
    if ltV (mulV r.num den) (mulV num r.den) then { r with num := num, den := den } else r

/- Stage 3. -/

/-- The coefficients as they will be stored. -/
structure LoadStored where
  rows : List (List (List Int))
  shifts : List (List (List Nat))
  biases : List (List Int)
  edges : List Int
  rep : LoadRep
  deriving DecidableEq, Repr

/-- Field bounds by device spin (R46). -/
def fieldBounds (f : LoadForm) (rows : List (List (List Int))) (biases : List (List Int)) (edges : List Int) : List Nat :=
  f.shapes.zipIdx.flatMap (fun p => (List.range p.1.n).map (fun k =>
    let i := p.1.first + k
    (intAt (biases.getD p.2 []) k).natAbs +
    (((rows.getD p.2 []).getD k []).foldl (fun n j => n + j.natAbs) 0) +
    ((f.edges.zip edges).foldl (fun n e =>
      if e.1.pair.a = i ∨ (!e.1.pair.imp ∧ e.1.pair.b = i) then n + e.2.natAbs else n) 0)))

def fieldLimit : Nat := 1073741823

/-- The constant in quanta, ties to even (R41). -/
def constantQuanta (h : Bytes) (c q : FV) : Option Int :=
  let v := if hFmt h = 2 then c else divV c q
  if !v.isFinite then none
  else if (intOf v).natAbs ≤ 2 ^ 62 then some (intOf v) else none

/-- Range and bound checks, and what they store. `key` is the seed of STOCH_ROUND. MAX_REL_ERROR is rounded to the nearest
FP32, ties to even (log 65). -/
def quantise (f : LoadForm) (v : LoadVals) (key : Option Nat) : Except LoadFail LoadStored := do
  let fail {α : Type} (item kind reason : Nat) : Except LoadFail α :=
    .error { status := stBadFormat, detail := itemDetail item kind reason }
  match notFinite f v with
  | some (i, k) => fail i k rsCoeffRange
  | none => pure ()
  if v.constant.isFinite then pure () else fail 0x38 0 rsConstantRange
  let v := if hQubo f.hdr then convertQubo f v else v
  match notFinite f v with
  | some (i, k) => fail i k rsCoeffRange
  | none => pure ()
  if v.constant.isFinite then pure () else fail 0x38 0 rsCoeffRange
  let code ← if hAutoQ f.hdr then
      match chooseQuantum f v with
      | some c => pure c
      | none => fail 8 0 rsCoeffRange
    else pure (u32 f.hdr 8)
  let quanta := hFmt f.hdr == 2
  let q := if quanta then fvPow2 0 else decodeF fp32 code
  let jobs := f.shapes.zipIdx.map (fun p =>
    ({ u := v.upper.getD p.2 [], n := if p.1.dense then p.1.n else 0, mmax := mantMax p.1.bits, unit := q, key := key,
       block := p.2 } : DenseJob))
  let shifts := jobs.map denseShifts
  let rounded (c : FV) (spin block sweep draw : Nat) : Int :=
    if quanta then intOf c else roundUnits (loadVariate key block spin sweep draw) (inUnits c q 0)
  let biases := v.biases.zipIdx.map (fun p => p.1.zipIdx.map (fun c => rounded c.1 c.2 p.2 0 1))
  let blockBad (b : Nat) : Option Nat :=
    match jobs[b]?, f.shapes[b]? with
    | some g, some x =>
      let s := shifts.getD b []
      match (densePairs g s).find? (fun p => !denseRange g s p) with
      | some p => some (x.first + p.1.1)
      | none => ((biases.getD b []).findIdx? (fun h => decide (8388607 < h.natAbs))).map (x.first + ·)
    | _, _ => none
  match (List.range jobs.length).findSome? blockBad with
  | some i => fail i 4 rsCoeffRange
  | none => pure ()
  let edges := (f.edges.zip v.edges).map (fun p =>
    let (b, k) := locate f.shapes p.1.pair.a
    rounded p.2 k b (if p.1.pair.imp then 2 ^ 47 + p.1.pair.b else p.1.pair.b) 2)
  match (f.edges.zip edges).find? (fun p => decide (32767 < p.2.natAbs)) with
  | some p => fail p.1.first 2 rsCoeffRange
  | none => pure ()
  let rows := (jobs.zip shifts).map (fun p => denseRows p.1 p.2)
  let fb := fieldBounds f rows biases edges
  match fb.findIdx? (fun n => decide (fieldLimit < n)) with
  | some i => fail i 4 rsFieldBound
  | none => pure ()
  let c ← match constantQuanta f.hdr v.constant q with
    | some c => pure c
    | none => fail 0x38 0 rsConstantRange
  let pairs := (jobs.zip shifts).flatMap (fun p =>
    (densePairs p.1 p.2).map (fun x => (upperAt p.1.u x.1.1 x.1.2, x.2)))
  let err := (pairs ++ (v.biases.flatMap id).zip (biases.flatMap id) ++ v.edges.zip edges).foldl (noteErr q) {}
  pure
    { rows := rows, shifts := shifts, biases := biases, edges := edges
      rep := { quantum := code, rel := encodeF fp32 false (divV err.num err.den), zeros := err.zeros, constant := c,
               bound := min (fb.foldl (· + ·) 0) (2 ^ 64 - 1) } }

end Sys2Proof.Machine
end

