-- ==== Sys2Proof/Machine/Load.lean ====
section
/-! DEFINITION. LOAD_PROBLEM: span checks, fit checks, spill, the placement of block storage, the load report and the
load itself (R33, R39, R48 to R55, R60 to R62, R79, R89, R334, R471). -/

namespace Sys2Proof.Machine

/- Spans (R33, stage 2). -/

/-- The span fields of a descriptor. -/
def spanOk (b : Bytes) : Bool :=
  decide (u8 b 2 ≤ 15) &&
    (if u8 b 4 = 0 then
       decide (u8 b 3 ≤ 19) && decide (1 ≤ u8 b 6) && decide (u8 b 6 ≤ 8) && decide (u8 b 5 + u8 b 6 ≤ 8)
     else decide (u8 b 3 + u8 b 4 ≤ 20) && u8 b 5 == 0 && u8 b 6 == 0)

def spansMeet (x y : PBlock) : Bool :=
  x.hall == y.hall && decide (x.tread < y.tread + y.treads) && decide (y.tread < x.tread + x.treads)

def spanPlaced (c : Ctx) (x : PBlock) : Bool := (spanGalleries x).all (fun g => usesGallery c g.1 g.2)

def spanChecks (c : Ctx) : Nat → List PBlock → List (PBlock × Bytes) → Ld Unit
  | _, _, [] => pure ()
  | i, before, (x, b) :: t => do
    ldRequire (spanOk b && !(before.any (spansMeet x))) i 1 rsSpan i
    if spanPlaced c x then spanChecks c (i + 1) (before ++ [x]) t
    else ldBad { status := stBadContext, detail := itemDetail i 1 rsSpan, block := i }

/-- R334: the lowest hall and gallery of the spans that another context's placement holds too. -/
def sharedGallery (d : Dev) (c : Nat) (gs : List (Nat × Nat)) : Option (Nat × Nat × Nat) :=
  let sorted := (List.range 320).filterMap (fun k => if gs.contains (k / 20, k % 20) then some (k / 20, k % 20) else none)
  sorted.findSome? (fun g =>
    (d.ctxs.find? (fun p => p.1 != c && usesGallery p.2 g.1 g.2)).map (fun p => (g.1, g.2, p.1)))

/-- The first gallery of a list that is out of service. -/
def deadGallery (d : Dev) (gs : List (Nat × Nat)) : Option (Nat × Nat) :=
  gs.find? (fun g => !(d.avail.halls.getLsbD g.1 && (d.avail.galleries.getD g.1 0#20).getLsbD g.2))

/- Storage (R49, R50, R471). -/

/-- Bytes of a built flight's stream buffers in a scratchpad, and in a hall's shared memory (R174). -/
def bufferRanges (x : Ctx) (home hall tread : Nat) : List ByteRange :=
  x.flights.flatMap (fun f => f.2.streams.filterMap (fun s =>
    if s.home = home ∧ s.hall = hall ∧ (home = 1 ∨ s.tread = tread) ∧ 0 < s.depth * s.slotBytes then
      some { first := s.offset, bytes := s.depth * s.slotBytes }
    else none))

def insertRange (r : ByteRange) : List ByteRange → List ByteRange
  | [] => [r]
  | q :: t => if r.first ≤ q.first then r :: q :: t else q :: insertRange r t

def sortRanges (l : List ByteRange) : List ByteRange := l.foldr insertRange []

/-- The free bytes of [lo, hi) that `need` bytes fill in ascending offset, past the used ranges. -/
def fillFree (hi : Nat) : Nat → Nat → List ByteRange → List ByteRange
  | lo, need, [] => if min need (hi - lo) = 0 then [] else [{ first := lo, bytes := min need (hi - lo) }]
  | lo, need, r :: t =>
    let free := min need (min hi r.first - lo)
    (if free = 0 then [] else [{ first := lo, bytes := free }]) ++
      fillFree hi (max lo (r.first + r.bytes)) (need - free) t

def rangeBytes (l : List ByteRange) : Nat := l.foldl (fun n r => n + r.bytes) 0

/-- Bytes of [lo, hi) that no used range holds. -/
def freeBytes (lo hi : Nat) (used : List ByteRange) : Nat := rangeBytes (fillFree hi lo (hi - lo) (sortRanges used))

/-- Hall shared memory of a context in a hall (Table 13.8): first byte and end. -/
def sharedRange (x : Ctx) (h : Nat) : Nat × Nat :=
  match placeOfHall x h with
  | some p => (65536 * p.sharedFirst, 65536 * (p.sharedFirst + p.sharedCount))
  | none => (0, 0)

def rowBytes (x : PBlock) : Nat := ceilDiv x.n 64 * 64 * x.bits / 8

/-- Edges held by span tread `t` of a sparse block. -/
def edgesHeld (es : List Edge) (x : PBlock) (t : Nat) : Nat :=
  ((List.range (slotsHeld x t)).map (fun k => (es.filter (fun e =>
    let i := x.first + 128 * t + k
    e.a == i || (!e.imp && e.b == i))).length)).foldl (· + ·) 0

/-- Edges from a block's spins to spins outside it. -/
def outsideEdges (es : List Edge) (x : PBlock) : Nat :=
  let own (i : Nat) : Bool := decide (x.first ≤ i) && decide (i < x.first + x.n)
  (es.filter (fun e => if e.imp then own e.a else own e.a != own e.b)).length

/-- Table 2.2: hall shared-memory bytes of a dense block with `r` replicas. -/
def denseShared (es : List Edge) (x : PBlock) (r : Nat) : Nat :=
  ceilDiv (x.n * ceilDiv x.n 64) 2 + 4 * x.n + 4 * x.n * r + 2 * ceilDiv (x.n * r) 8 + 8 * outsideEdges es x + 4096

/-- Scratchpad bytes left by stream buffers in a tread. -/
def scratchFree (c : Ctx) (h t : Nat) : Nat := freeBytes 0 Config.scratchBytes (bufferRanges c 0 h t)

/-- Edges that fit in a tread's scratchpad beside its slots. -/
def edgeRoom (free slots : Nat) : Nat := min Config.edgesPerTread ((free - 4096 - 16 * slots) / 8 * 8 / 5)

/-- A block's use of one tread: bytes on chip, and bytes spilled (R54). Beside built stream buffers a tread keeps the rows
or edges that its remaining bytes hold (log 65). -/
def treadUse (c : Ctx) (es : List Edge) (x : PBlock) (t : Nat) : Nat × Nat :=
  let free := scratchFree c x.hall (x.tread + t)
  if x.dense then
    let rows := rowsHeld x.n x.treads t
    let keep := min rows (min (Config.scratchBytes / rowBytes x) (free / rowBytes x))
    (keep * rowBytes x, (rows - keep) * rowBytes x)
  else
    let e := edgesHeld es x t
    let keep := min e (edgeRoom free (slotsHeld x t))
    (4096 + 16 * slotsHeld x t + 8 * ceilDiv (5 * keep) 8, 8 * ceilDiv (5 * (e - keep)) 8)

/-- Missing bytes of DENSE_ROWS (R50, R471): the bytes of the rows each tread holds, less its free bytes, over the treads
that are short (log 65). -/
def denseMissing (c : Ctx) (x : PBlock) : Nat :=
  ((List.range x.treads).map (fun t =>
    rowsHeld x.n x.treads t * rowBytes x - scratchFree c x.hall (x.tread + t))).foldl (· + ·) 0

/-- Slots of a tread that its free bytes hold beside the 4,096 of Table 2.2. -/
def slotRoom (c : Ctx) (x : PBlock) (t : Nat) : Nat := (scratchFree c x.hall (x.tread + t) - 4096) / 16

/-- Missing bytes of SPIN_SLOTS, at 16 per missing slot (R52). -/
def slotsMissing (c : Ctx) (x : PBlock) : Nat :=
  16 * ((x.n - 128 * x.treads) +
    ((List.range x.treads).map (fun t => slotsHeld x t - slotRoom c x t)).foldl (· + ·) 0)

/-- Missing bytes of EDGES, at 5 per missing edge (R52). -/
def edgesMissing (c : Ctx) (es : List Edge) (x : PBlock) : Nat :=
  ((List.range x.treads).map (fun t =>
    5 * (edgesHeld es x t - edgeRoom (scratchFree c x.hall (x.tread + t)) (slotsHeld x t)))).foldl (· + ·) 0

/-- The wider spans of a block with `k` galleries more: those that contain its span; of a section span, the spans of `k`
whole galleries that contain its gallery (R33, log 65). -/
def widerSpans (x : PBlock) (k : Nat) : List PBlock :=
  let g := x.tread / 32
  let own := if x.treads % 32 = 0 then x.treads / 32 else 1
  let all := if x.treads % 32 = 0 then own + k else k
  ((List.range (g + 1)).filter (fun f => decide (g + own ≤ f + all) && decide (f + all ≤ 20))).map (fun f =>
    { x with tread := 32 * f, treads := 32 * all })

/-- A span holds a block on chip (R50): `room` says that its hall shared memory fits. -/
def spanFits (c : Ctx) (es : List Edge) (room : Bool) (x : PBlock) : Bool :=
  if x.dense then denseMissing c x == 0 && room else slotsMissing c x == 0 && edgesMissing c es x == 0

/-- DEFICIT_GALLERIES: the smallest number of galleries that, added to the span, would make the block fit; 0 when no such
span does (R52). -/
def moreGalleries (c : Ctx) (es : List Edge) (room : Bool) (x : PBlock) : Nat :=
  ((List.range 20).map (· + 1)).find? (fun k => (widerSpans x k).any (spanFits c es room)) |>.getD 0

/-- What the fit checks carry from block to block: hall shared bytes taken, bytes spilled. -/
structure FitSoFar where
  shared : List (Nat × Nat) := []
  spilled : Nat := 0
  deriving DecidableEq, Repr

/-- Stage 4 for one block, in the order of R51: the failure, or what is taken. -/
def fitBlock (c : Ctx) (spill : Bool) (area : Nat) (es : List Edge) (col : List (Nat × Nat)) (b r : Nat) (x : PBlock)
    (s : FitSoFar) : Except LoadFail FitSoFar := do
  let fail (bytes gals reason : Nat) : Except LoadFail Unit :=
    .error { status := stDoesNotFit, detail := fitDetail bytes gals reason x.hall, block := b }
  let need := if x.dense then denseShared es x r else 0
  let (lo, hi) := sharedRange c x.hall
  let have' := freeBytes lo hi (bufferRanges c 1 x.hall 0) - tabGet 0 x.hall s.shared
  let more := moreGalleries c es (decide (need ≤ have')) x
  if x.dense then
    if !spill && denseMissing c x != 0 then fail (denseMissing c x) more rsDenseRows else pure ()
  else do
    if slotsMissing c x != 0 then fail (slotsMissing c x) more rsSpinSlots else pure ()
    if !spill && edgesMissing c es x != 0 then fail (edgesMissing c es x) more rsEdges else pure ()
  if have' < need then fail (need - have') 0 rsHallShared else pure ()
  if !x.dense && (col.any (fun p => decide (x.first ≤ p.1) && decide (p.1 < x.first + x.n) && decide (15 < p.2))) then
    fail 0 0 rsColours
  else pure ()
  let out := s.spilled + ((List.range x.treads).map (fun t => (treadUse c es x t).2)).foldl (· + ·) 0
  if area < out then fail (out - area) 0 rsSpillArea else pure ()
  pure { shared := tabSet x.hall (tabGet 0 x.hall s.shared + need) s.shared, spilled := out }

def fitBlocks (c : Ctx) (spill : Bool) (area : Nat) (es : List Edge) (col : List (Nat × Nat)) :
    Nat → FitSoFar → List (PBlock × Bytes) → Except LoadFail FitSoFar
  | _, s, [] => pure s
  | b, s, (x, desc) :: t => do
    let s ← fitBlock c spill area es col b (u8 desc 7) x s
    fitBlocks c spill area es col (b + 1) s t

/-- R471: the bytes that each block's storage fills, block by block. -/
def placeStorage (c : Ctx) (es : List Edge) : List PBlock → List (PBlock × Bytes) → List PBlock
  | done, [] => done
  | done, (x, desc) :: t =>
    let (lo, hi) := sharedRange c x.hall
    let taken := (done.filter (fun y => y.hall == x.hall)).flatMap (fun y => y.shared) ++ bufferRanges c 1 x.hall 0
    let need := if x.dense then denseShared es x (u8 desc 7) else 0
    let sc := (List.range x.treads).map (fun k =>
      (x.tread + k, fillFree Config.scratchBytes 0 (treadUse c es x k).1 (sortRanges (bufferRanges c 0 x.hall (x.tread + k)))))
    placeStorage c es (done ++ [{ x with shared := fillFree hi lo need (sortRanges taken), scratch := sc }]) t

/-- The device address ranges of a block's storage. -/
def storageRanges (x : PBlock) : List (Nat × Nat) :=
  x.shared.map (fun r => (sharedAddr x.hall + r.first, r.bytes)) ++
  x.scratch.flatMap (fun t => t.2.map (fun r => (scratchAddr x.hall t.1 + r.first, r.bytes)))

/-- Block storage is written, on chip and in the spill area from its base up (R54, log 65): what its bytes read as is not
part of the interface (R471). -/
def markStorage (bs : List PBlock) (base spilled : Nat) (d : Dev) : Dev :=
  (bs.flatMap storageRanges ++ if spilled = 0 then [] else [(base, spilled)]).foldl
    (fun d r => freshMark (.span r.1 r.2) d) d

/- The load. -/

/-- The starting spins of a block (R39). -/
def initSpins (env : OpEnv) (n : Nat) (desc : Bytes) : Act (List Bool) :=
  if u64 desc 0x20 = 0 then pure (List.replicate n false)
  else do
    let bs ← rd env (u64 desc 0x20) (ceilDiv n 8)
    pure ((List.range n).map (fun k => (bs.getD (k / 8) 0).getLsbD (k % 8)))

def initAll (env : OpEnv) : List (PBlock × Bytes) → Act (List (List Bool))
  | [] => pure []
  | (x, b) :: t => do
    let s ← initSpins env x.n b
    let rest ← initAll env t
    pure (s :: rest)

/-- The problem as loaded: groups fixed, then fields and energies (R39, R89). -/
def buildProblem (f : LoadForm) (w : LoadStored) (imports spilled : Nat) (placed : List PBlock)
    (inits : List (List Bool)) : Problem × Nat :=
  let es := (f.edges.zip w.edges).map (fun p => { p.1.pair with val := p.2 })
  let tiers := blockTiers f.shapes f.edges
  let st := spinTierTable f.shapes f.edges f.groups f.colours
  let spinsOf (x : PBlock) (t : List (Nat × Nat)) : List Nat := (List.range x.n).map (fun k => tabGet 0 (x.first + k) t)
  let mk (y : (PBlock × Bytes) × Nat) : PBlock × Nat :=
    let ((x, desc), b) := y
    let (s, k) := fixGroups x f.groups (inits.getD b [])
    let r : Replica := { spins := s, fields := [], energy := 0, bestSpins := s, best := 0 }
    ({ x with
       rows := w.rows.getD b [], shifts := w.shifts.getD b [], biases := w.biases.getD b []
       colours := if x.dense then [] else spinsOf x f.colours
       spinTiers := if x.dense then [] else spinsOf x st
       tier := tiers.getD b 0, reps := List.replicate (u8 desc 7) r }, k)
  let made := ((placed.zip f.descs).zipIdx).map mk
  let bs := made.map (fun p => p.1)
  (startBests
    { id := u32 f.hdr 4, quantum := w.rep.quantum, constant := w.rep.constant, blocks := bs, edges := es,
      groups := f.groups, imports := List.replicate imports false, energy := 0, best := 0,
      phases := (phasesOf bs).length, spilled := spilled
      spillArea := if spilled = 0 then none else some (u64 f.hdr 0x48, u64 f.hdr 0x50) },
   made.foldl (fun n p => n + p.2) 0)

/-- The 64 bytes of the load report (Table 2.7). -/
def loadReport (r : LoadRep) (block reason : Nat) : Bytes :=
  leBytes 4 r.id ++ leBytes 4 r.quantum ++ leBytes 4 r.rel ++ leBytes 4 (min r.fixups (2 ^ 32 - 1)) ++ leBytes 8 r.zeros ++
  leBytes 8 (ofInt 64 r.constant) ++ leBytes 8 r.bound ++ leBytes 8 r.spilled ++ leBytes 2 r.colours ++ leBytes 2 block ++
  leBytes 1 reason ++ List.replicate 11 0

/-- The import count of the context's boundary map, 0 without one. -/
def importCount (x : Ctx) : Nat :=
  match x.boundary with
  | some b => b.imports
  | none => 0

/-- R43: the key of STOCH_ROUND, and whether it was drawn. The check of the expert level follows stage 3 (R51). -/
def roundKey (env : OpEnv) (h : Bytes) : Act (Option Nat × Bool) := do
  if hStoch h then do
    let (s, drawn) ← seedOf env (u64 h 0x40)
    pure (some s, drawn)
  else pure (none, false)

/-- What a load ends with: its report, status, detail word, and the check stages and blocks done. -/
structure LoadEnd where
  rep : LoadRep
  block : Nat
  out : OpOut
  steps : Nat
  deriving DecidableEq, Repr

/-- A failed check as the end of the load: `key` is the seed of STOCH_ROUND and whether it was drawn (R112). -/
def loadFailed (id steps : Nat) (key : Option Nat × Bool) (f : LoadFail) : LoadEnd :=
  { rep := { f.rep with id := id }, block := f.block
    out := { status := f.status, detail := f.detail, seed := key.1.getD 0, seedDrawn := key.2 }, steps := steps }

/-- A load whose reads fail ends with what is known of it (R60, R302). -/
def endOnFail (id steps : Nat) (key : Option Nat × Bool) (rep : LoadRep) (x : Act LoadEnd) : Act LoadEnd :=
  tryCatch x (fun e =>
    match e with
    | .fail st detail => pure (loadFailed id steps key { status := st, detail := detail, rep := rep })
    | e => throw e)

/-- R62: a load that fails with DEVICE_FAULT after the checks leaves no problem, and discards its registered updates. -/
def dropOnFault {α : Type} (c : Nat) (x : Act α) : Act α :=
  tryCatch x (fun e =>
    match e with
    | .fail st detail => do
      if st = stDeviceFault then do
        change (discardUpdates c)
        change (modCtx c (fun x => { x with problem := none }))
      else pure ()
      failWith st detail
    | e => throw e)

/-- Stage 4: what stands in the way of a load that has passed stages 1 to 3 (R14, R51, R62, R334), or what it takes. -/
def loadFit (d : Dev) (c : Ctx) (ctx : Nat) (f : LoadForm) : Except LoadFail FitSoFar :=
  let h := f.hdr
  let spans := (f.shapes.flatMap spanGalleries).eraseDups
  let stop (status detail : Nat) : Except LoadFail FitSoFar := .error { status := status, detail := detail }
  if (hStoch h || hSpill h) && !expertOn d exLoad then stop stPrivileged anyDetail
  else if c.run.isSome then stop stBusy anyDetail
  else
    match sharedGallery d ctx spans, deadGallery d spans with
    | some (hall, g, other), _ => stop stBusy (detailBusyPlace hall g (some other))
    | none, some (hall, g) => stop stDeviceFault (scratchAddr hall (32 * g))
    | none, none =>
      fitBlocks c (hSpill h) (if hSpill h then u64 h 0x50 else 0) (f.edges.map (fun e => e.pair)) f.colours 0 {}
        (f.shapes.zip f.descs)

/-- The load after the checks. -/
def loadPlace (env : OpEnv) (c : Ctx) (f : LoadForm) (w : LoadStored) (rep : LoadRep) (key : Option Nat × Bool)
    (fit : FitSoFar) : Act LoadEnd := do
  let inits ← dropOnFault env.ctx (initAll env (f.shapes.zip f.descs))
  let placed := placeStorage c (f.edges.map (fun e => e.pair)) [] (f.shapes.zip f.descs)
  let (p, fixups) := buildProblem f w (importCount c) fit.spilled placed inits
  change (discardUpdates env.ctx)
  change (modCtx env.ctx (fun x => { x with problem := some p }))
  change (markStorage placed (u64 f.hdr 0x48) fit.spilled)
  pure
    { rep := { rep with fixups := fixups, spilled := fit.spilled }, block := 0xFFFF
      out := { status := stOk, detail := w.rep.rel + min w.rep.zeros (2 ^ 32 - 1) * 2 ^ 32,
               seed := key.1.getD 0, spilled := fit.spilled != 0, seedDrawn := key.2 }
      steps := 4 + f.shapes.length }

/-- Stages 3 and 4 and the load. -/
def loadRest (env : OpEnv) (c : Ctx) (f : LoadForm) : Act LoadEnd := do
  let id := u32 f.hdr 4
  let key ← roundKey env f.hdr
  endOnFail id 2 key {} do
    let v ← loadValues env f
    match quantise f v key.1 with
    | .error e => pure (loadFailed id 2 key e)
    | .ok w => do
      let rep := { w.rep with id := id, colours := coloursMax f.shapes f.colours }
      let d ← get
      match loadFit d c env.ctx f with
      | .error e => pure (loadFailed id 3 key { e with rep := rep })
      | .ok fit => endOnFail id 4 key rep (loadPlace env c f w rep key fit)

/-- Stages 1 to 4 and the load. -/
def loadRun (env : OpEnv) (h : Bytes) : Act LoadEnd := do
  let id := u32 h 4
  let c ← needCtx env
  match ← (loadForm env (importCount c) h).run with
  | .error f => pure (loadFailed id 0 (none, false) f)
  | .ok f => do
    match ← (spanChecks c 0 [] (f.shapes.zip f.descs)).run with
    | .error e => pure (loadFailed id 1 (none, false) e)
    | .ok _ => endOnFail id 2 (none, false) {} (loadRest env c f)

/-- The reason that the report carries: that of the detail word, for a failed check (Table 2.8). -/
def loadReason (o : OpOut) : Nat :=
  if o.status = stBadFormat ∨ o.status = stBadContext ∨ o.status = stDoesNotFit then bits o.detail 48 8 else 0

/-- LOAD_PROBLEM: the header, the load, and the report of every outcome (R60). REPORT_ADDR is checked before anything
else of the load (log 65). -/
def bodyLoad : Body := fun env r => do
  let h ← descriptor env r 128
  let a := u64 h 0x58
  if a = 0 then pure () else checkDest a 64
  let done ← endOnFail (u32 h 4) 0 (none, false) {} (loadRun env h)
  if a = 0 then pure () else wr a (loadReport done.rep done.block (loadReason done.out))
  pure (.done done.out done.steps)

/-- LOAD_PROBLEM (R51, R56, R62). -/
def execLoadProblem (q : QRef) (s : State) : Host.Outcome State Fault Refusal := opRow q 0x40 bodyLoad s

end Sys2Proof.Machine
end

