-- ==== Sys2Proof/Machine/Updates.lean ====
section
/-! DEFINITION. UPDATE_COEFFS: entries, their rounding and effect, the report, and the updates due at a boundary
(R63 to R68, R100). -/

namespace Sys2Proof.Machine

/-- An update entry (R64). -/
structure UpdEntry where
  a : Nat
  b : Nat
  v : Nat
  deriving DecidableEq, Repr

/-- What an entry names. -/
inductive Target where
  | bias (b k : Nat)
  | pair (b i j : Nat)
  | edge (e : Nat)
  deriving DecidableEq, Repr

/-- The stored coefficient that SPIN_A and SPIN_B name (R64). -/
def targetOf (p : Problem) (a b : Nat) : Option Target :=
  let n := spinCount p.blocks
  if n ≤ a then none
  else
    let (x, i) := locate p.blocks a
    if bit b 23 then (p.edges.findIdx? (fun e => e.imp && e.a == a && e.b == bits b 0 23)).map .edge
    else if n ≤ b then none
    else if a = b then some (.bias x i)
    else
      let (y, j) := locate p.blocks b
      if x == y && (match p.blocks[x]? with | some z => z.dense | none => false) then some (.pair x (min i j) (max i j))
      else (p.edges.findIdx? (fun e => !e.imp && e.a == min a b && e.b == max a b)).map .edge

/-- The field bound of a device spin under the stored coefficients (R46). -/
def boundOf (p : Problem) (i : Nat) : Nat :=
  let (b, k) := locate p.blocks i
  match p.blocks[b]? with
  | none => 0
  | some x =>
    (intAt x.biases k).natAbs + (if x.dense then (x.rows.getD k []).foldl (fun n v => n + v.natAbs) 0 else 0) +
      (edgesOf p i).foldl (fun n e => n + e.val.natAbs) 0

/-- A stored coefficient's value, its unit 2^ep, its largest magnitude, and the device spins it bears on. -/
def targetInfo (p : Problem) (t : Target) : Int × Nat × Nat × List Nat :=
  match t with
  | .bias b k =>
    match p.blocks[b]? with
    | some x => (intAt x.biases k, 1, 8388607, [x.first + k])
    | none => (0, 1, 0, [])
  | .pair b i j =>
    match p.blocks[b]? with
    | some x =>
      let e := shiftAt x.shifts i (j / 64)
      let f := shiftAt x.shifts j (i / 64)
      let unit := 2 ^ max e f
      (intAt (x.rows.getD i []) j, unit, mantMax x.bits * 2 ^ min e f / unit * unit, [x.first + i, x.first + j])
    | none => (0, 1, 0, [])
  | .edge n =>
    match p.edges[n]? with
    | some e => (e.val, 1, 32767, if e.imp then [e.a] else [e.a, e.b])
    | none => (0, 1, 0, [])

/-- A stored coefficient replaced; both positions of a dense pair. -/
def putTarget (t : Target) (v : Int) (p : Problem) : Problem :=
  match t with
  | .bias b k => modBlock b (fun x => { x with biases := x.biases.set k v }) p
  | .pair b i j =>
    modBlock b (fun x => { x with rows := modAt j (fun r => r.set i v) (modAt i (fun r => r.set j v) x.rows) }) p
  | .edge n => { p with edges := modAt n (fun e => { e with val := v }) p.edges }

/-- A fraction rounded to a multiple of `unit`: to nearest even, or with a variate (R43). -/
def roundTo (u : Option Nat) (num : Int) (den unit : Nat) : Int :=
  match u with
  | none => rneInt num (den * unit) * unit
  | some u =>
    let dd : Int := den * unit
    let fl := num / dd
    (if (u : Int) * dd < (num - fl * dd) * 65536 then fl + 1 else fl) * unit

/-- The new value that an entry gives a coefficient, and whether it saturates; none for a NaN (R65). -/
def newValue (p : Problem) (add : Bool) (u : Option Nat) (old : Int) (unit big : Nat) (fmt v : Nat) : Option (Int × Bool) :=
  let clamp (x : Int) : Int × Bool :=
    if (big : Int) < x then (big, true) else if x < -(big : Int) then (-(big : Int), true) else (x, false)
  match coeffOf fmt v with
  | .nan => none
  | .inf neg => some (if neg then -(big : Int) else big, true)
  | c =>
    let (n, m) := fracOf c
    let (qn, qm) := if fmt = 2 then ((1 : Int), 1) else fracOf (decodeF fp32 p.quantum)
    let den := m * qn.toNat
    some (clamp (roundTo u (n * qm + (if add then old * den else 0)) den unit))

/-- Counts of R65. -/
structure UpdCount where
  applied : Nat := 0
  missing : Nat := 0
  saturated : Nat := 0
  refused : Nat := 0
  deriving DecidableEq, Repr

/-- One entry applied to the stored coefficients. -/
def applyEntry (add : Bool) (fmt : Nat) (u : Option Nat) (s : Problem × UpdCount) (t : Option Target) (v : Nat) :
    Problem × UpdCount :=
  let (p, c) := s
  match t with
  | none => (p, { c with missing := c.missing + 1 })
  | some t =>
    let (old, unit, big, spins) := targetInfo p t
    match newValue p add u old unit big fmt v with
    | none => (p, { c with refused := c.refused + 1 })
    | some (new, sat) =>
      if spins.any (fun i => decide (fieldLimit < boundOf p i - old.natAbs + new.natAbs) && decide (old.natAbs < new.natAbs)) then
        (p, { c with refused := c.refused + 1 })
      else
        (putTarget t new p, { c with applied := c.applied + 1, saturated := c.saturated + ofBool sat })

/-- The entries of one update in list order; then fields, energies and bests change by the exact differences. -/
def applyEntries (p : Problem) (add : Bool) (fmt : Nat) (key : Option Nat) (es : List UpdEntry) : Problem × UpdCount :=
  let r := es.zipIdx.foldl
    (fun s e =>
      applyEntry add fmt (key.map (fun k => treadVariate k { domain := 2, sweep := e.2 })) s (targetOf s.1 e.1.a e.1.b) e.1.v)
    (p, {})
  if r.2.applied = 0 then (p, r.2) else (rescore p r.1, r.2)

/-- The entries of an update, or the index of one with a reserved bit set. -/
def entriesFrom : Nat → List Bytes → Except Nat (List UpdEntry)
  | _, [] => .ok []
  | i, r :: t =>
    if u8 r 7 ≠ 0 ∨ u32 r 12 ≠ 0 then .error i
    else
      match entriesFrom (i + 1) t with
      | .ok l => .ok ({ a := u32 r 0, b := bits (u32 r 4) 0 24, v := u32 r 8 } :: l)
      | .error k => .error k

def updCountOf (h : Bytes) : Nat := u32 h 0x14
def updFmt (h : Bytes) : Nat := bits (u16 h 2) 1 2
def updStoch (h : Bytes) : Bool := bit (u16 h 2) 3
def updAdd (h : Bytes) : Bool := bit (u16 h 2) 0

def readEntries (env : OpEnv) (h : Bytes) : Act (List UpdEntry) := do
  let bs ← rd env (u64 h 0x18) (16 * updCountOf h)
  match entriesFrom 0 (chunks 16 (updCountOf h) bs) with
  | .ok l => pure l
  | .error i => failWith stBadFormat (itemDetail i 5 rsUpdateEntry)

/-- The detail word of R65. -/
def updDetail (c : UpdCount) : Nat :=
  min c.applied (2 ^ 32 - 1) + min c.missing 65535 * 2 ^ 32 + min c.saturated 255 * 2 ^ 48 + min c.refused 255 * 2 ^ 56

/-- Entries that cannot be read, or hold a reserved bit, when a registered or waiting update applies. -/
def entryFailure (u : Update) (d : Dev) : Dev := logOpen 0x05 11 dieNorth (u32 u.header 4) u.seq 0 d

/-- An update applies to the loaded problem of context `c`: at the boundary of epoch `epoch`, or outside a run
(`noEpoch`). The result is its op's outcome and the op steps. -/
def applyUpdate (env : OpEnv) (c : Nat) (u : Update) (epoch : Nat) (late first : Bool) : Act (OpOut × Nat) := do
  let out : OpOut := { seed := u.seed, seedDrawn := u.drawn }
  let deferred := u.op.isNone && !first
  let es ← if first then (readEntries env u.header).map some
    else tryCatch ((readEntries env u.header).map some) (fun e =>
      match e with
      | .fail .. => pure none
      | e => throw e)
  let a := reportAddr u
  match es with
  | none => do
    change (entryFailure u)
    change (writeReport a (updateReport 0 0 0 0 epoch late false deferred true))
    pure ({ out with status := stPartial }, 1)
  | some es => do
    let d ← get
    match (ctxOf d c).bind (fun x => x.problem) with
    | none => pure (out, 1)
    | some p => do
      let (p', n) := applyEntries p (updAdd u.header) (updFmt u.header)
        (if updStoch u.header then some u.seed else none) es
      change (modCtx c (fun x => { x with problem := some p' }))
      let rep := updateReport n.applied n.missing n.saturated n.refused epoch late false deferred false
      if a = 0 then pure () else if first then wr a rep else change (writeReport a rep)
      pure ({ out with detail := updDetail n }, n.applied / 4096 + 1)

/-- The first failing field of an update header (Table 2.10); `id` is the loaded problem's. -/
def updHeaderBad (id : Option Nat) (h : Bytes) : Option Nat :=
  ([(0x00, u16 h 0 == 3), (0x02, updFmt h != 3 && bits (u16 h 2) 5 11 == 0), (0x04, id.all (· == u32 h 4)),
    (0x08, u16 h 0xE == 0),
    (0x14, decide (1 ≤ updCountOf h) && decide (updCountOf h ≤ 1048576))].find? (fun p => !p.2)).map (fun p => p.1)
  |>.orElse (fun _ => nonzeroIn h 0x30 16)

/-- UPDATE_COEFFS: checked; applied at once, left waiting for a boundary, or registered (R63, R66 to R68). It conflicts
with updates that wait or are registered, not with one that has applied (R67, log 65). -/
def bodyUpdate : Body := fun env r => do
  let x ← needCtx env
  let h ← descriptor env r 64
  match updHeaderBad (x.problem.map (fun p => p.id)) h with
  | some o => failWith stBadFormat (itemDetail o 0 rsLoadHeader)
  | none => pure ()
  match x.problem with
  | none => failWith stBadContext anyDetail
  | some _ => do
    let explicit := bit (u16 h 2) 4
    let epoch := bits (u64 h 8) 0 48
    let seq := u32 h 0x10
    require (!(explicit && x.updates.any (fun u => u.explicit && u.epoch == epoch && u.seq == seq)))
      stBadFormat (itemDetail 0x10 0 rsUpdateConflict)
    let register := explicit && x.run.isNone
    if register then pure () else (readEntries env h).map (fun _ => ())
    if updStoch h then needExpert exLoad else pure ()
    if u64 h 0x20 = 0 then pure () else checkDest (u64 h 0x20) 32
    let (seed, drawn) ← if updStoch h then seedOf env (u64 h 0x28) else pure (0, false)
    let u : Update :=
      { header := h, explicit := explicit, epoch := epoch, seq := seq, order := x.updateOrder, late := false,
        seed := seed, drawn := drawn, op := if register then none else some (env.q, env.idx) }
    if register then do
      change (modCtx env.ctx (fun x => { x with updates := x.updates ++ [u], updateOrder := x.updateOrder + 1 }))
      pure (.done { status := stPartial, detail := 0, seed := seed, seedDrawn := drawn } 1)
    else if x.run.isNone then do
      let (o, n) ← applyUpdate env env.ctx u noEpoch false true
      pure (.done o n)
    else do
      change (modCtx env.ctx (fun x => { x with updates := x.updates ++ [u], updateOrder := x.updateOrder + 1 }))
      pure (.running .update 0)

/-- UPDATE_COEFFS (R63 to R68). -/
def execUpdateCoeffs (q : QRef) (s : State) : Host.Outcome State Fault Refusal := opRow q 0x41 bodyUpdate s

/- Updates due at a boundary (R66, R67). -/

/-- The order of R67 at the boundary before epoch `k`. -/
def updBefore (k : Nat) (u v : Update) : Bool :=
  let ep (u : Update) : Nat := if u.explicit then u.epoch else k
  if ep u ≠ ep v then decide (ep u < ep v)
  else if u.explicit ≠ v.explicit then u.explicit
  else if u.seq ≠ v.seq then decide (u.seq < v.seq)
  else decide (u.order ≤ v.order)

def insertUpd (k : Nat) (u : Update) : List Update → List Update
  | [] => [u]
  | v :: t => if updBefore k u v then u :: v :: t else v :: insertUpd k u t

def sortUpdates (k : Nat) (l : List Update) : List Update := l.foldr (insertUpd k) []

/-- The environment in which an update that is due runs: its op's, or none. -/
def updEnv (c : Nat) (u : Update) : OpEnv :=
  let (q, i) := u.op.getD (.kernel 0, 0)
  { q := q, idx := i, off := 0, ctx := c, drawn := none, hostOk := true }

/-- One due update applies; its op, if it waits, has its outcome. `none`: an access of it must wait. -/
def applyDue (c epoch : Nat) (late : Bool) (u : Update) (d : Dev) : Option Dev :=
  match applyUpdate (updEnv c u) c u epoch late false d with
  | .ok (o, n) d' =>
    let d' := modCtx c (fun x => { x with updates := x.updates.filter (fun v => v.order != u.order) }) d'
    match u.op with
    | some (q, i) => some (opOutcome q i o (opSteps q n d'))
    | none => some d'
  | .error (.fail st detail) d' =>
    let d' := modCtx c (fun x => { x with updates := x.updates.filter (fun v => v.order != u.order) }) d'
    match u.op with
    | some (q, i) => some (opOutcome q i { status := st, detail := detail } d')
    | none => some d'
  | .error _ _ => none

/-- A list of due updates in order, as far as none waits; true when all have applied. -/
def applyDues (c epoch : Nat) (lateBelow : Nat) : List Update → Dev → Bool × Dev
  | [], d => (true, d)
  | u :: t, d =>
    match applyDue c epoch (u.explicit && decide (u.epoch < lateBelow)) u d with
    | some d => applyDues c epoch lateBelow t d
    | none => (false, d)

/-- The updates due before the first sweep of epoch `k`. -/
def dueUpdates (x : Ctx) (k : Nat) : List Update :=
  sortUpdates k (x.updates.filter (fun u => if u.explicit then decide (u.epoch ≤ k) else true))

/-- A waiting update whose run ended before its epoch is registered, and its op completes (R66, R68). -/
def registerUpdate (c : Nat) (u : Update) (d : Dev) : Dev :=
  match u.op with
  | none => d
  | some (q, i) =>
    let d := modCtx c (fun x => { x with updates := x.updates.map (fun v => if v.order = u.order then { v with op := none } else v) }) d
    opSteps q 1 (opOutcome q i { status := stPartial, detail := 0, seed := u.seed, seedDrawn := u.drawn } d)

end Sys2Proof.Machine
end

