-- ==== Sys2Proof/Machine/Results.lean ====
section
/-! DEFINITION. State images, READ_STATE, READ_TRACE and RNG_FILL (R114 to R119, R329). -/

namespace Sys2Proof.Machine

/- State images (R118). -/

/-- Which sections an image holds. -/
structure ImageForm where
  cur : Bool
  best : Bool
  fields : Bool
  mask : Nat
  deriving DecidableEq, Repr

def sectionBytes (n : Nat) : Nat := 64 * ceilDiv n 512
def fieldBytes (n : Nat) : Nat := 64 * ceilDiv n 16

/-- Eight values as a byte, the first in bit 0. -/
def packByte (l : List Bool) : Byte :=
  BitVec.ofNat 8 (((l.take 8).zipIdx.map (fun p => if p.1 then 2 ^ p.2 else 0)).foldl (· + ·) 0)

/-- Values packed little-endian into `k` bytes. -/
def packBits : Nat → List Bool → Bytes
  | 0, _ => []
  | k + 1, l => packByte l :: packBits k (l.drop 8)

def spinSection (n : Nat) (s : List Bool) : Bytes := packBits (sectionBytes n) s

def fieldSection (n : Nat) (f : List Int) : Bytes :=
  padTo (fieldBytes n) ((f.take n).flatMap (fun v => leBytes 4 (ofInt 32 v)))

/-- The replicas of a block that an image includes. -/
def includedReps (x : PBlock) (mask : Nat) : List Nat := (List.range x.reps.length).filter (fun r => bit mask r)

def blockImageBytes (m : ImageForm) (x : PBlock) : Nat :=
  128 + (includedReps x m.mask).length *
    (64 + (ofBool m.cur + ofBool m.best) * sectionBytes x.n + ofBool m.fields * fieldBytes x.n)

/-- The block result record (Table 4.11). -/
def blockRecord (p : Problem) (m : ImageForm) (b : Nat) (x : PBlock) : Bytes :=
  let c := x.count
  let reps := includedReps x m.mask
  padTo 128
    (leBytes 4 x.tag ++ leBytes 2 b ++ leBytes 1 reps.length ++ leBytes 1 (if x.dense then 0 else 1) ++ leBytes 4 x.n ++
     leBytes 4 (sectionBytes x.n) ++ leBytes 8 (low 48 p.sweeps) ++ leBytes 8 (ofInt 64 p.energy) ++
     leBytes 8 (ofInt 64 p.best) ++ leBytes 8 c.proposals ++ leBytes 8 c.accepts ++ leBytes 8 c.pairAccepts ++
     leBytes 8 c.conflicts ++ leBytes 4 c.clusterProposals ++ leBytes 4 c.clusterAccepts ++ leBytes 4 c.clusterInvalid ++
     leBytes 4 (low 16 p.phases) ++ leBytes 4 c.exchangeTries ++ leBytes 4 c.exchangeAccepts ++
     leBytes 8 ((reps.map (fun r => 2 ^ r)).foldl (· + ·) 0) ++
     leBytes 1 (ofBool m.cur + 2 * ofBool m.best + 4 * ofBool m.fields))

/-- The replica line and sections of rung `r`. -/
def replicaImage (p : Problem) (m : ImageForm) (b : Nat) (x : PBlock) (r : Nat) : Bytes :=
  let s := repAt x r
  padTo 64 (leBytes 8 (ofInt 64 s.energy) ++ leBytes 8 (ofInt 64 (if r = 0 then p.best else s.best)) ++ leBytes 8 s.accepts ++
    leBytes 4 ((p.temps.getD b []).getD r 0) ++ leBytes 1 r) ++
  (if m.cur then spinSection x.n s.spins else []) ++ (if m.best then spinSection x.n s.bestSpins else []) ++
  (if m.fields then fieldSection x.n s.fields else [])

def blockImage (p : Problem) (m : ImageForm) (b : Nat) (x : PBlock) : Bytes :=
  blockRecord p m b x ++ (includedReps x m.mask).flatMap (replicaImage p m b x)

/-- The blocks of an image with their numbers. -/
def imageBlocks (p : Problem) (first count : Nat) : List (PBlock × Nat) :=
  (p.blocks.zipIdx.drop first).take count

def imageBytes (p : Problem) (m : ImageForm) (first count : Nat) : Nat :=
  (imageBlocks p first count).foldl (fun n y => n + blockImageBytes m y.1) 0

def stateImage (p : Problem) (m : ImageForm) (first count : Nat) : Bytes :=
  (imageBlocks p first count).flatMap (fun y => blockImage p m y.2 y.1)

/- READ_STATE (R117, Table 4.10). -/

def rsRunHeader : Nat := 0x20

def readForm (h : Bytes) : ImageForm :=
  { cur := bit (u16 h 2) 0, best := bit (u16 h 2) 1, fields := bit (u16 h 2) 2, mask := u64 h 8 }

def readStateBad (p : Problem) (h : Bytes) : Option Nat :=
  ([(0x00, u16 h 0 == 3), (0x02, u16 h 2 / 8 == 0), (0x04, decide (u16 h 4 < p.blocks.length)),
    (0x06, decide (1 ≤ u16 h 6) && decide (u16 h 6 ≤ 2560) && decide (u16 h 4 + u16 h 6 ≤ p.blocks.length)),
    (0x10, u64 h 0x10 % 64 == 0)].find? (fun p => !p.2)).map (fun p => p.1)
  |>.orElse (fun _ => nonzeroIn h 0x20 32)

/-- The image of a descriptor, written now. -/
def writeState (p : Problem) (h : Bytes) : Act OpRes := do
  let m := readForm h
  let n := imageBytes p m (u16 h 4) (u16 h 6)
  require (decide (n ≤ u64 h 0x18)) stDoesNotFit (min (n - u64 h 0x18) (2 ^ 40 - 1))
  checkDest (u64 h 0x10) n
  wr (u64 h 0x10) (stateImage p m (u16 h 4) (u16 h 6))
  pure (.done { detail := n } (u16 h 6))

def bodyReadState : Body := fun env r => do
  let x ← needCtx env
  let h ← descriptor env r 64
  match x.problem with
  | none => failWith stBadContext anyDetail
  | some p => do
    match readStateBad p h with
    | some o => badFormat o rsRunHeader
    | none => pure ()
    if x.run.isNone then writeState p h
    else do
      change (modCtx env.ctx (fun x => { x with snapshots := x.snapshots ++ [{ q := env.q, idx := env.idx, desc := h }] }))
      pure (.running .snapshot 0)

/-- READ_STATE (R117). -/
def execReadState (q : QRef) (s : State) : Host.Outcome State Fault Refusal := opRow q 0x45 bodyReadState s

/-- One pending snapshot is taken, as a step of its context (R237, R239); `none`: its write must wait. -/
def takeSnapshot (c : Nat) (p : Problem) (s : Snapshot) (d : Dev) : Option Dev :=
  let drop (d : Dev) : Dev := modCtx c (fun x => { x with snapshots := x.snapshots.filter (· != s) }) d
  let back (e : Dev) : Dev := drop { e with actor := d.actor }
  match writeState p s.desc { d with actor := some c } with
  | .ok (.done o n) d' => some (opOutcome s.q s.idx o (opSteps s.q n (back d')))
  | .ok _ d' => some (back d')
  | .error (.fail st detail) d' => some (opOutcome s.q s.idx { status := st, detail := detail } (back d'))
  | .error _ _ => none

/-- Pending snapshots in order, as far as none must wait; true when all are taken. -/
def takeSnapshots (c : Nat) : List Snapshot → Dev → Bool × Dev
  | [], d => (true, d)
  | s :: t, d =>
    match (ctxOf d c).bind (fun x => x.problem) with
    | none => (true, d)
    | some p =>
      match takeSnapshot c p s d with
      | some d => takeSnapshots c t d
      | none => (false, d)

/- Start images (R119). -/

/-- The spins of the included replicas of one block of an image, and the bytes the block takes. -/
def startBlock (env : OpEnv) (addr b : Nat) (x : PBlock) : Act (List (List Bool) × Nat) := do
  let rec' ← rd env addr 128
  let secs := u8 rec' 0x68
  require (u32 rec' 0 == x.tag && u32 rec' 8 == x.n && u8 rec' 7 == (if x.dense then 0 else 1) &&
    u8 rec' 6 == (if x.dense then x.reps.length else 1) && bit secs 0) stBadFormat (itemReason b 0x24)
  let step := 64 + (ofBool (bit secs 0) + ofBool (bit secs 1)) * sectionBytes x.n + ofBool (bit secs 2) * fieldBytes x.n
  let spins ← (List.range x.reps.length).mapM (fun r => do
    let bs ← rd env (addr + 128 + r * step + 64) (ceilDiv x.n 8)
    pure ((List.range x.n).map (fun k => (bs.getD (k / 8) 0).getLsbD (k % 8))))
  pure (spins, 128 + x.reps.length * step)

/-- The spins of every block of a start image, in block order. -/
def startSpins (env : OpEnv) : Nat → Nat → List PBlock → Act (List (List (List Bool)))
  | _, _, [] => pure []
  | addr, b, x :: t => do
    let (s, n) ← startBlock env addr b x
    let rest ← startSpins env (addr + n) (b + 1) t
    pure (s :: rest)

/-- A problem with every replica's spins replaced, groups fixed (R39, R119). -/
def putSpins (img : List (List (List Bool))) (p : Problem) : Problem :=
  { p with blocks := p.blocks.zipIdx.map (fun y =>
      { y.1 with reps := y.1.reps.zipIdx.map (fun r =>
          { r.1 with spins := (fixGroups y.1 p.groups ((img.getD y.2 []).getD r.2 r.1.spins)).1 }) }) }

/- READ_TRACE (R116). -/

/-- READ_TRACE: entries still present in a ring, as the context's latest run that traced into it numbered them. The manual
gives no layout for its descriptor; the command carries the fields. -/
def bodyReadTrace (ring entries first count dest : Nat) : Body := fun env _ => do
  let x ← needCtx env
  requireFmt (ring % 64 == 0 && !isHost ring && decide (64 ≤ entries) && decide (entries ≤ 16777216) &&
    isPow2 entries) 0 rsRunHeader
  let written := ((x.traceRings.find? (fun r => r.1 == ring && r.2.1 == entries)).map (fun r => r.2.2)).getD 0
  let lo := max first (written - entries)
  let hi := min (first + count) written
  let n := hi - lo
  checkDest dest (32 * n)
  let bs ← (List.range n).mapM (fun i => devRead (ring + 32 * ((lo + i) % entries)) 32)
  wr dest (bs.flatMap id)
  pure (.done { status := if n < count then stPartial else stOk
                detail := low 48 (if n = 0 then first else lo) + min n 65535 * 2 ^ 48 } (transferSteps (32 * n)))

/-- The areas of a READ_TRACE in progress stay with its record, for a placement to see (R333): destination and ring. -/
def keepTraceAreas (q : QRef) (dest n ring entries : Nat) (d d' : Dev) : Dev :=
  match (queueOf d q).cur with
  | some e =>
    if d' = d then d'
    else modIssue q e.next (fun i =>
      { i with record := withOpnd (withOpnd (withOpnd (withOpnd i.record 1 dest) 2 (32 * n)) 3 ring) 4 (32 * entries) }) d'
  | none => d'

/-- READ_TRACE (R116). -/
def execReadTrace (q : QRef) (ringAddr ringEntries first count destAddr : BitVec 64) (s : State) :
    Host.Outcome State Fault Refusal :=
  onMem (fun d =>
    keepTraceAreas q destAddr.toNat count.toNat ringAddr.toNat ringEntries.toNat d
      (issueOp q (isOpcode 0x46)
        (bodyReadTrace ringAddr.toNat ringEntries.toNat first.toNat count.toNat destAddr.toNat) d)) s

/- RNG_FILL (R329). -/

/-- R140: a tread range lies in placed galleries. -/
def rangePlaced (x : Ctx) (h t n : Nat) : Bool :=
  (List.range ((t + n - 1) / 32 + 1 - t / 32)).all (fun g => usesGallery x h (t / 32 + g))

def rngBytes (seed n : Nat) : Bytes :=
  (List.range (n / 2)).flatMap (fun k => leBytes 2 (treadVariate seed { domain := 3, sweep := k }))

def bodyRngFill : Body := fun env r => do
  let dst := opnd r 0
  let n := opnd r 1
  let w := opnd r 3
  let h := bits w 0 8
  let t := bits w 16 16
  let k := bits w 32 16
  let x ← needCtx env
  requireFmt (decide (t + k ≤ 640)) (env.off + 0x24) rsMemory
  require (rangePlaced x h t k) stBadContext anyDetail
  let d ← get
  if (List.range k).any (fun i => accessWaits d (scratchAddr h (t + i))) then throw .notYet else pure ()
  checkDest dst n
  let (seed, drawn) ← seedOf env (opnd r 2)
  wr dst (rngBytes seed n)
  pure (.done { detail := n / 2, seed := seed, seedDrawn := drawn } (transferSteps n))

/-- RNG_FILL (R329). -/
def execRngFill (q : QRef) (s : State) : Host.Outcome State Fault Refusal := opRow q 0x22 bodyRngFill s

end Sys2Proof.Machine
end

