-- ==== Sys2Proof/Machine/Streams.lean ====
section
/-! DEFINITION. Streams of a flight: slots, notices and credits (R170, R174, R178, R179, R184). -/

namespace Sys2Proof.Machine

/- Stream kinds (Table 7.2) and step kinds (Table 7.1). -/
def skData : Nat := 0
def skFrame : Nat := 1
def skDelta : Nat := 2
def skCluster : Nat := 3
def skState : Nat := 4
def fkIngest : Nat := 0
def fkCompute : Nat := 1
def fkAnneal : Nat := 2

/-- The first byte of a stream's buffer. -/
def homeAddr (s : FStream) : Nat :=
  if s.home = 0 then scratchAddr s.hall s.tread + s.offset
  else if s.home = 1 then sharedAddr s.hall + s.offset
  else s.offset

/-- Record k occupies slot k mod DEPTH (R170). -/
def slotAddr (s : FStream) (k : Nat) : Nat := homeAddr s + k % s.depth * s.slotBytes

def flightOf (x : Ctx) (f : Nat) : Option Flight := tabGet? f x.flights

def modFlight (c f : Nat) (g : Flight → Flight) (d : Dev) : Dev :=
  modCtx c (fun x =>
    match flightOf x f with
    | some y => { x with flights := tabSet f (g y) x.flights }
    | none => x) d

def modStream (c f i : Nat) (g : FStream → FStream) (d : Dev) : Dev :=
  modFlight c f (fun y => { y with streams := modAt i g y.streams }) d

def modStep (c f i : Nat) (g : FStep → FStep) (d : Dev) : Dev :=
  modFlight c f (fun y => { y with steps := modAt i g y.steps }) d

def modFRun (c f : Nat) (g : FlightRun → FlightRun) (d : Dev) : Dev :=
  modFlight c f (fun y => { y with run := y.run.map g }) d

/-- A flight's streams with their numbers. -/
def numbered (y : Flight) : List (FStream × Nat) := y.streams.zipIdx

/-- A stream at run start (R179). -/
def resetStream (s : FStream) : FStream :=
  { s with produced := s.prime, flying := 0, arrived := s.prime, consumed := 0, credits := s.depth - s.prime,
           returning := 0, watermark := none, applied := [] }

/-- The producer has completed its next record: a notice leaves. -/
def recordDone (s : FStream) : FStream := { s with produced := s.produced + 1, flying := s.flying + 1 }

/-- The consumer frees its oldest `n` records: credits leave. -/
def recordsFreed (n : Nat) (s : FStream) : FStream := { s with consumed := s.consumed + n, returning := s.returning + n }

/-- Records of a CLUSTER stream whose epochs have ended are freed (R184). -/
def freeClusters (epochs : Nat) (s : FStream) : FStream := recordsFreed (min s.arrived epochs - s.consumed) s

/-- The measurement records of an INGEST message, one after the other; `n` bounds them. -/
def splitRecs : Nat → Bytes → List Bytes
  | 0, _ => []
  | n + 1, bs =>
    if bs.length < 16 then []
    else
      let k := 16 + u16 bs 14
      bs.take k :: splitRecs n (bs.drop k)

/-- A chain source takes records with its tag, in the order they come (R186). -/
def deliverIngest (tag : Nat) (link : Option Nat) (data : Bytes) (d : Dev) : Dev :=
  let recs := splitRecs data.length data
  let mine (s : FStep) : Bool :=
    match s.source with
    | some r => r.chain && r.tag == tag
    | none => false
  { d with ctxs := d.ctxs.map (fun p =>
      (p.1, { p.2 with flights := p.2.flights.map (fun y =>
        (y.1, { y.2 with steps := y.2.steps.map (fun s => if mine s then { s with inbox := s.inbox ++ recs, inLink := link } else s) })) })) }

/-- The next record has reached its consumer. -/
def recordHeld (s : FStream) : Bool := decide (s.consumed < s.arrived)

end Sys2Proof.Machine
end

