-- ==== Sys2Proof/Machine/Formats.lean ====
section
/-! DEFINITION. Elements of the formats of Table 5.1 in memory, and the conversion of Table 6.5 (R120 to R123, R162). -/

namespace Sys2Proof.Machine

/-- An element: a floating-point value, an integer, or the poison of INT32 (R136). -/
inductive NumVal where
  | f (v : FV)
  | i (v : Int)
  | poison
  deriving DecidableEq, Repr

/-- Bits of an element in memory (Table 5.1). -/
def fmtBits (code : Nat) : Nat :=
  match code with
  | 0x0 | 0xD => 32
  | 0x1 | 0x2 => 16
  | 0x7 | 0x8 => 6
  | 0x9 | 0xC => 4
  | 0xE => 64
  | 0xF => 0
  | _ => 8

/-- The floating-point format of a code; MXINT8 and the integers have none. -/
def fmtFloat (code : Nat) : FloatFmt :=
  match code with
  | 0x1 => fp16
  | 0x2 => bf16
  | 0x3 | 0x5 => e4m3
  | 0x4 | 0x6 => e5m2
  | 0x7 => e3m2
  | 0x8 => e2m3
  | 0x9 => e2m1
  | 0xE => w40
  | _ => fp32

def fmtIsInt (code : Nat) : Bool := code == 0xB || code == 0xC || code == 0xD

/-- The value of an element's bits. -/
def decodeNum (code x : Nat) : NumVal :=
  match code with
  | 0xA =>
    let i := toInt 8 x
    .f (.num (decide (i < 0)) i.natAbs (-6))
  | 0xB => .i (toInt 8 x)
  | 0xC => .i (toInt 4 x)
  | 0xD => if low 32 x = 0x80000000 then .poison else .i (toInt 32 x)
  | c => .f (decodeF (fmtFloat c) x)

/-- The largest and the smallest value of an integer format. -/
def intMax (code : Nat) : Int := (2 ^ (fmtBits code - 1) : Nat) - 1
def intMin (code : Nat) : Int := if code = 0xD then -(intMax code) else -(intMax code) - 1

/-- The code of an integer, clamped to the range. -/
def encodeInt (code : Nat) (i : Int) : Nat := ofInt (fmtBits code) (max (intMin code) (min (intMax code) i))

/-- The bits of a value converted to a format (Table 6.5). -/
def encodeNum (code : Nat) (sat : Bool) (n : NumVal) : Nat :=
  if fmtIsInt code then
    match n with
    | .i v => encodeInt code v
    | .poison => 2 ^ (fmtBits code - 1)
    | .f .nan => 2 ^ (fmtBits code - 1)
    | .f (.inf s) => encodeInt code (if s then intMin code else intMax code)
    | .f v => encodeInt code (intOf v)
  else
    match n with
    | .f v => encodeF (fmtFloat code) sat v
    | .i v => encodeF (fmtFloat code) sat (FV.ofInt v)
    | .poison => encodeF (fmtFloat code) sat .nan

/-- R122: the bits of element `k` of packed elements. -/
def elemBits (code : Nat) (bs : Bytes) (k : Nat) : Nat :=
  let w := fmtBits code
  bits (fld bs (k * w / 8) ((w + 7) / 8 + 1)) (k * w % 8) w

def elemAt (code : Nat) (bs : Bytes) (k : Nat) : NumVal := decodeNum code (elemBits code bs k)

/-- Bytes that `n` packed elements take. -/
def packedBytes (code n : Nat) : Nat := ceilDiv (n * fmtBits code) 8

/-- The bytes of packed element codes of 8 bits or more. -/
def packWide (code : Nat) (l : List Nat) : Bytes := l.flatMap (leBytes (fmtBits code / 8))

/-- Two 4-bit codes to a byte, the first in the low half; `last` gives the high half of a last odd one. -/
def packNibbles (last : Nat) : List Nat → Bytes
  | [] => []
  | [a] => [BitVec.ofNat 8 (low 4 a + 16 * last)]
  | a :: b :: t => BitVec.ofNat 8 (low 4 a + 16 * low 4 b) :: packNibbles last t

/-- The bytes of packed output codes; `old` is the byte in memory that an odd last nibble shares (R157). -/
def packCodes (code : Nat) (old : Byte) (l : List Nat) : Bytes :=
  if code = 0xC then packNibbles (bits old.toNat 4 4) l else packWide code l

/- binary32 operations (R145, R161). -/

def f32 (v : FV) : FV := roundF fp32 v
def add32 (a b : FV) : FV := f32 (addV a b)
def sub32 (a b : FV) : FV := f32 (addV a (negV b))
def mul32 (a b : FV) : FV := f32 (mulV a b)
def div32 (a b : FV) : FV := f32 (divV a b)

/-- A value as FP32: one rounding; poison becomes NaN. -/
def toF32 (n : NumVal) : FV :=
  match n with
  | .f v => f32 v
  | .i v => f32 (FV.ofInt v)
  | .poison => .nan

/-- A binary32 code. -/
def f32Of (code : Nat) : FV := decodeF fp32 (low 32 code)

/-- Counts of NaN, infinite and poison elements (R146). -/
structure NumCount where
  nan : Nat := 0
  inf : Nat := 0
  poison : Nat := 0
  deriving DecidableEq, Repr

def countNum (c : NumCount) (n : NumVal) : NumCount :=
  match n with
  | .f .nan => { c with nan := c.nan + 1 }
  | .f (.inf _) => { c with inf := c.inf + 1 }
  | .poison => { c with poison := c.poison + 1 }
  | _ => c

/-- The detail word of the counts, each saturating at 0xFFFF. -/
def countDetail (nan inf poison : Nat) : Nat :=
  min nan 0xFFFF + min inf 0xFFFF * 2 ^ 16 + min poison 0xFFFF * 2 ^ 32

def NumCount.detail (c : NumCount) : Nat := countDetail c.nan c.inf c.poison

end Sys2Proof.Machine
end

