-- ==== Sys2Proof/Machine/OutPath.lean ====
section
/-! DEFINITION. The output path: its record, the routes and the activations (R160 to R163). -/

namespace Sys2Proof.Machine

/- Reason codes of tensor ops (Table 5.13 and R160). -/
def rsTHeader : Nat := 0x30
def rsFormatPair : Nat := 0x31
def rsShape : Nat := 0x32
def rsAlign : Nat := 0x33
def rsTreads : Nat := 0x34
def rsAccMismatch : Nat := 0x35
def rsPromo : Nat := 0x36
def rsTiles : Nat := 0x37
def rsStage : Nat := 0x38
def rsOverlap : Nat := 0x39
def rsOutput : Nat := 0x3A

/- Activations (Table 6.6). -/

/-- The binary32 value nearest to n · 10^(-k). -/
def decF32 (n k : Nat) : FV := f32 (divV (.num false n 0) (.num false (10 ^ k) 0))

def oneF : FV := .num false 1 0
def twoF : FV := .num false 2 0

/-- A finite value times 2^n, rounded. -/
def scale32 (v : FV) (n : Int) : FV :=
  match v with
  | .num s m e => f32 (.num s m (e + n))
  | v => v

/-- p · f + c, each operation rounded. -/
def horner (f p c : FV) : FV := add32 (mul32 p f) c

/-- exp2_dev (R163). -/
def exp2Dev (t : FV) : FV :=
  if t.isNan then .nan
  else if !ltV t (.num false 128 0) then .inf false
  else if ltV t (.num true 150 0) then FV.zero
  else
    let n := intOf t
    let f := sub32 t (FV.ofInt n)
    let p := [decF32 133335581 11, decF32 961812911 11, decF32 555041087 10, decF32 240226507 9,
              decF32 693147181 9, oneF].foldl (horner f) (decF32 154035304 12)
    scale32 p n

/-- sigmoid_dev (R163). -/
def sigmoidDev (x : FV) : FV := div32 oneF (add32 oneF (exp2Dev (mul32 x (negV (decF32 144269504 8)))))

/-- tanh_dev (R163). -/
def tanhDev (x : FV) : FV := sub32 (mul32 twoF (sigmoidDev (mul32 twoF x))) oneF

/-- gelu_dev (R163). -/
def geluDev (x : FV) : FV :=
  let u := mul32 (mul32 (mul32 x x) x) (decF32 44715 6)
  let u := mul32 (add32 x u) (decF32 797884561 9)
  mul32 (mul32 (.num false 1 (-1)) x) (add32 oneF (tanhDev u))

/-- An activation of a binary32 value. -/
def activate (code : Nat) (p0 p1 x : FV) : FV :=
  if x.isNan then .nan
  else
    match code with
    | 1 => if ltV FV.zero x then x else FV.zero
    | 2 => if ltV x FV.zero then mul32 x p0 else x
    | 3 => geluDev x
    | 4 => mul32 x (sigmoidDev x)
    | 5 => sigmoidDev x
    | 6 => tanhDev x
    | 7 => if ltV x p0 then p0 else if ltV p1 x then p1 else x
    | _ => x

/-- The first parameter keeps its rule. -/
def actP0Ok (code : Nat) (p0 : FV) : Bool :=
  match code with
  | 2 => p0.isFinite
  | 7 => !p0.isNan
  | _ => true

/-- The second parameter keeps its rule; the order of the Clamp parameters is its rule. -/
def actP1Ok (code : Nat) (p0 p1 : FV) : Bool :=
  match code with
  | 7 => !p1.isNan && !ltV p1 p0
  | _ => true

/- The output-path record (Table 6.4). -/

def oFmt (r : Bytes) : Nat := bits (u8 r 2) 0 4
def oAct (r : Bytes) : Nat := u8 r 3
def oScaleMode (r : Bytes) : Nat := bits (u8 r 4) 0 2
def oBiasMode (r : Bytes) : Nat := bits (u8 r 4) 2 2
def oSat (r : Bytes) : Bool := bit (u8 r 4) 4
def oAddr (r : Bytes) : Nat := u64 r 8
def oLd (r : Bytes) : Nat := u32 r 0x10

/-- A code that the output path produces. -/
def outFmtOk (code : Nat) : Bool := decide (code ≤ 4) || (decide (0xB ≤ code) && decide (code ≤ 0xE))

/-- The lowest failing field of a list of offsets and checks in ascending order. -/
def lowestBad (l : List (Nat × Bool)) : Option Nat := (l.find? (fun p => !p.2)).map (fun p => p.1)

/-- R160: the lowest failing field of a record whose output has `n` columns. -/
def outBad (r : Bytes) (n : Nat) : Option Nat :=
  let vec (mode a : Nat) : Bool := if mode = 2 ∨ mode = 3 then a % 4 == 0 else a == 0
  lowestBad
    [(0, u16 r 0 == 3), (2, outFmtOk (oFmt r) && bits (u8 r 2) 4 4 == 0), (3, decide (oAct r < 8)),
     (4, bits (u16 r 4) 5 11 == 0), (6, u16 r 6 == 0), (8, oAddr r % 8 == 0),
     (0x10, oLd r % 8 == 0 && decide (packedBytes (oFmt r) n ≤ oLd r)),
     (0x18, vec (oScaleMode r) (u64 r 0x18)), (0x20, vec (oBiasMode r) (u64 r 0x20)),
     (0x2C, actP0Ok (oAct r) (f32Of (u32 r 0x2C))),
     (0x30, actP1Ok (oAct r) (f32Of (u32 r 0x2C)) (f32Of (u32 r 0x30))),
     (0x34, (nonzeroIn r 0x34 12).isNone)]

/-- The checks of a record, reported as R160 states. -/
def checkOut (r : Bytes) (n : Nat) : Act Unit :=
  match outBad r n with
  | some o => badFormat (0x10000 + o) rsOutput
  | none => pure ()

/-- One element on its route (R161): `s` and `b` are its scale and bias. -/
def outElem (r : Bytes) (s b : FV) (n : NumVal) : Nat :=
  if oScaleMode r = 0 ∧ oBiasMode r = 0 ∧ oAct r = 0 then encodeNum (oFmt r) (oSat r) n
  else
    match n with
    | .poison => encodeNum (oFmt r) (oSat r) .poison
    | n =>
      let v := toF32 n
      let v := if oScaleMode r = 0 then v else mul32 v s
      let v := if oBiasMode r = 0 then v else add32 v b
      let v := activate (oAct r) (f32Of (u32 r 0x2C)) (f32Of (u32 r 0x30)) v
      encodeNum (oFmt r) (oSat r) (.f v)

end Sys2Proof.Machine
end

