-- ==== Sys2Proof/Machine/Tensor.lean ====
section
/-! DEFINITION. MATMUL, BATCHED_MATMUL and DRAIN: their descriptors, the tile grid, the order of summation, the tile map
and the scoreboard (R124 to R143, R146 to R154, R158, R164). -/

namespace Sys2Proof.Machine

/- Accumulation paths (Table 5.2). -/

inductive AccPath where
  | fp8 | mx | wide | int
  deriving DecidableEq, Repr

/-- R124. -/
def accPath (a b : Nat) : Option AccPath :=
  let fp8 (c : Nat) : Bool := c == 3 || c == 4
  let mx (c : Nat) : Bool := decide (5 ≤ c) && decide (c ≤ 10)
  let half (c : Nat) : Bool := c == 1 || c == 2
  let int (c : Nat) : Bool := c == 0xB || c == 0xC
  if fp8 a && fp8 b then some .fp8
  else if mx a && mx b then some .mx
  else if (half a && half b) || (a == 0 && b == 0) then some .wide
  else if int a && int b then some .int
  else none

/-- R138: the weight of one k-step of an integer pair. -/
def intWeight (a b : Nat) : Nat := 2 ^ (fmtBits a + fmtBits b - 2)

/-- Promotion groups by PROMO (Table 5.9). -/
def promoGroup (p : Nat) : Nat :=
  match p with
  | 0 => 16
  | 1 => 4
  | 2 => 8
  | _ => 32

/-- R148: bytes of a slot. -/
def accSlotBytes (f : TileFmt) : Nat :=
  match f with
  | .w40 => 8
  | _ => 4

/-- SHAPE: height and width. -/
def tileShape (s : Nat) : Nat × Nat :=
  match s with
  | 0 => (16, 16)
  | 1 => (16, 32)
  | 2 => (32, 16)
  | _ => (32, 32)

/-- R149: granules of a tile. -/
def tileGranules (h w : Nat) (f : TileFmt) : Nat := h * w * accSlotBytes f / 1024

/-- R149: tiles in progress per tread. -/
def tilesMax (h w : Nat) (f : TileFmt) : Nat := 32 / tileGranules h w f

/- The values of a tile. -/

def accFloat (f : TileFmt) : FloatFmt :=
  match f with
  | .fp32 => fp32
  | _ => w40

/-- The value of a slot. -/
def slotNum (f : TileFmt) (code : Nat) : NumVal :=
  match f with
  | .int32 => decodeNum 0xD code
  | f => .f (decodeF (accFloat f) code)

def numF (n : NumVal) : FV :=
  match n with
  | .f v => v
  | .i v => FV.ofInt v
  | .poison => .nan

/-- R136: one integer k-step. -/
def intStep (acc : NumVal) (x : Int) : NumVal :=
  match acc with
  | .i v => if intMin 0xD ≤ v + x ∧ v + x ≤ intMax 0xD then .i (v + x) else .poison
  | _ => .poison

def numProd (a b : NumVal) : Int :=
  match a, b with
  | .i x, .i y => x * y
  | _, _ => 0

/-- A wide k-step: one rounding (R130). -/
def wideStep (f : FloatFmt) (acc : FV) (p : FV × FV) : FV := roundF f (addV acc (mulV p.1 p.2))

/-- A finite value times 2^n, exact. -/
def scaleV (v : FV) (n : Int) : FV :=
  match v with
  | .num s m e => .num s m (e + n)
  | v => v

/-- R130, R131: a promotion group summed in N20, scaled on the MX path, and added to the tile's element. -/
def promote (f : FloatFmt) (scale : Option (Nat × Nat)) (acc : FV) (grp : List (FV × FV)) : FV :=
  let p := grp.foldl (wideStep n20) FV.zero
  let c :=
    match scale with
    | none => p
    | some (a, b) => if a = 255 ∨ b = 255 then .nan else roundF f (scaleV p ((a : Int) + b - 254))
  roundF f (addV acc c)

/-- A list cut into groups of `g`. -/
def groupsOf {α : Type} (g : Nat) (l : List α) : List (List α) :=
  (List.range (ceilDiv l.length g)).map (fun i => (l.drop (i * g)).take g)

/-- R130: one output element of one op. `g` is the promotion group; the scale bytes are those of the two rows. -/
def sumElement (path : AccPath) (f : TileFmt) (g : Nat) (acc : Nat) (a b : List NumVal) (sa sb : Bytes) : Nat :=
  let fl := accFloat f
  match path with
  | .int => encodeNum 0xD false ((a.zip b).foldl (fun acc p => intStep acc (numProd p.1 p.2)) (slotNum f acc))
  | .wide =>
    encodeF fl false (((a.map numF).zip (b.map numF)).foldl (wideStep fl) (decodeF fl acc))
  | .fp8 =>
    encodeF fl false ((groupsOf g ((a.map numF).zip (b.map numF))).foldl (promote fl none) (decodeF fl acc))
  | .mx =>
    encodeF fl false ((groupsOf g ((a.map numF).zip (b.map numF))).zipIdx.foldl
      (fun acc p => promote fl (some ((sa.getD p.2 0).toNat, (sb.getD p.2 0).toNat)) acc p.1) (decodeF fl acc))

/-- R142: an element outside M × N is summed from zero operands. -/
def sumZero (f : TileFmt) (acc : Nat) : Nat :=
  match f with
  | .int32 => acc
  | f => encodeF (accFloat f) false (addV (decodeF (accFloat f) acc) FV.zero)

/- The grid of tiles (R142, R143). -/

structure Grid where
  hall : Nat
  first : Nat
  count : Nat
  slot : Nat
  h : Nat
  w : Nat
  m : Nat
  n : Nat
  batch : Nat
  deriving DecidableEq, Repr

def gridRows (g : Grid) : Nat := ceilDiv g.m g.h
def gridCols (g : Grid) : Nat := ceilDiv g.n g.w
def gridTiles (g : Grid) : Nat := g.batch * (gridRows g * gridCols g)

/-- A tile's place: batch item, row and column of tiles, tread, position. -/
structure GridTile where
  b : Nat
  p : Nat
  q : Nat
  tread : Nat
  pos : Nat
  deriving DecidableEq, Repr

def gridTile (g : Grid) (j : Nat) : GridTile :=
  let k := gridRows g * gridCols g
  { b := j / k, p := j % k / gridCols g, q := j % gridCols g, tread := g.first + j % g.count,
    pos := g.slot + j / g.count }

/-- R142: missing positions and the fewest galleries that would make the op fit. -/
def gridDeficit (g : Grid) (f : TileFmt) : Option (Nat × Nat) :=
  let p := tilesMax g.h g.w f
  let per (t : Nat) : Nat := g.slot + ceilDiv (gridTiles g) t
  if per g.count ≤ p then none
  else
    some ((per g.count - p) * (g.h * g.w * accSlotBytes f),
      (((List.range 20).map (· + 1)).find? (fun k =>
        decide (g.first + g.count + 32 * k ≤ 640) && decide (per (g.count + 32 * k) ≤ p))).getD 0)

/- The tile map. -/

/-- Two granule ranges meet. -/
def granulesMeet (a n b m : Nat) : Bool := decide (a < b + m) && decide (b < a + n)

def tileSize (t : Tile) : Nat := tileGranules t.h t.w t.fmt

/-- The tile holds its main copy. -/
def inMain (t : Tile) : Bool :=
  match t.state with
  | .opened | .swapPending => true
  | _ => false

/-- A tile of a tread whose main granules meet a range. -/
def mainMeets (hall tread a n : Nat) (t : Tile) : Bool :=
  inMain t && t.hall == hall && t.tread == tread && granulesMeet t.granule (tileSize t) a n

/-- R158: an END request of an earlier op on the granules has not swapped. -/
def awaitsSwap (t : Tile) : Bool := t.state == .swapPending || t.endReq.isSome

/-- The OPEN tile that a grid tile continues (R152). -/
def openTile (x : Ctx) (g : Grid) (f : TileFmt) (k : GridTile) : Option Tile :=
  x.tiles.find? (fun t => t.state == .opened && t.endReq.isNone && t.hall == g.hall && t.tread == k.tread &&
    t.granule == k.pos * tileGranules g.h g.w f && t.h == g.h && t.w == g.w && t.fmt == f)

/-- R165: a tread serves a context when no other context's tiles are on it. -/
def treadServes (d : Dev) (c h t : Nat) : Bool :=
  match tabGet? (640 * h + t) d.treadCtx with
  | none => true
  | some o =>
    o == c ||
      (match ctxOf d o with
       | some x => x.tiles.all (fun k => !(k.hall == h && k.tread == t))
       | none => true)

/-- The treads of a range now hold a context's tiles. -/
def takeTreads (c h : Nat) (l : List Nat) (d : Dev) : Dev :=
  { d with treadCtx := l.foldl (fun m t => tabSet (640 * h + t) c m) d.treadCtx }

/- Operands (R140, R141). -/

structure TOperand where
  base : Nat
  stride : Nat
  ld : Nat
  bytes : Nat
  code : Nat
  deriving DecidableEq, Repr

def rowAddr (o : TOperand) (b r : Nat) : Nat := low 64 (o.base + b * o.stride + r * o.ld)

/-- R140: bytes that lie in one tread's scratchpad. -/
def inTread (h t a n : Nat) : Bool :=
  match placeOf a with
  | .scratch k u o => !isHost a && k == h && u == t && decide (o + n ≤ Config.scratchBytes)
  | _ => false

/-- A source is mapped and in service before any byte moves (R245). -/
def checkSrc (a n : Nat) : Act Unit := do
  checkAddr a
  if isHost a then pure () else checkRange a n

/-- The rows of an operand are checked. -/
def checkRows (o : TOperand) (batch rows : Nat) : Act Unit :=
  (List.range batch).forM (fun b => (List.range rows).forM (fun r => checkSrc (rowAddr o b r) o.bytes))

/-- A row of elements. -/
def readRow (e : OpEnv) (o : TOperand) (k b r : Nat) : Act (List NumVal) := do
  let bs ← rd e (rowAddr o b r) o.bytes
  pure ((List.range k).map (elemAt o.code bs))

def readRows (e : OpEnv) (o : TOperand) (k b rows : Nat) : Act (List (List NumVal)) :=
  (List.range rows).mapM (readRow e o k b)

def readScales (e : OpEnv) (o : TOperand) (b rows : Nat) : Act (List Bytes) :=
  (List.range rows).mapM (fun r => rd e (rowAddr o b r) o.bytes)

/- MATMUL's descriptor (Tables 5.9 and 5.10). -/

def mBegin (x : Bytes) : Bool := bit (u8 x 2) 0
def mEnd (x : Bytes) : Bool := bit (u8 x 2) 1
def mPromo (x : Bytes) : Nat := bits (u8 x 2) 2 2
def mAcc32 (x : Bytes) : Bool := bit (u8 x 2) 4
def mFmtA (x : Bytes) : Nat := bits (u8 x 4) 0 4
def mFmtB (x : Bytes) : Nat := bits (u8 x 4) 4 4
def mK (x : Bytes) : Nat := u32 x 0x14
def mPath (x : Bytes) : Option AccPath := accPath (mFmtA x) (mFmtB x)

/-- R140: STAGE_OFFSET. -/
def stageOk (v : Nat) : Bool := v == 0xFFFFFFFF || (v % 64 == 0 && decide (v ≤ 360448))

/-- A tread range: FIRST_TREAD and TREAD_COUNT fields. -/
def firstOk (t : Nat) : Bool := decide (t < 640)
def countOk (t n : Nat) : Bool := decide (1 ≤ n) && decide (t + n ≤ 640)

/-- The first failing check of a list of offset, reason and check, in ascending order of offset (R146). -/
def tensorBad (l : List (Nat × Nat × Bool)) : Option (Nat × Nat) :=
  (l.find? (fun p => !p.2.2)).map (fun p => (p.1, p.2.1))

def failTensor (b : Option (Nat × Nat)) : Act Unit :=
  match b with
  | some (o, r) => badFormat o r
  | none => pure ()

def inRange (v lo hi : Nat) : Bool := decide (lo ≤ v) && decide (v ≤ hi)

/-- What a MATMUL or an item batch asks for. -/
structure MatmulReq where
  grid : Grid
  path : AccPath
  fmt : TileFmt
  group : Nat
  k : Nat
  a : TOperand
  b : TOperand
  sa : TOperand
  sb : TOperand
  start : Bool
  ends : Bool
  weight : Nat
  strideOut : Nat
  deriving DecidableEq, Repr

def matmulReq (batched : Bool) (x : Bytes) (path : AccPath) : MatmulReq :=
  let (h, w) := tileShape (bits (u8 x 5) 0 2)
  let str (o : Nat) : Nat := if batched then u64 x o else 0
  let k := mK x
  let opd (addr strd ld code : Nat) : TOperand :=
    { base := u64 x addr, stride := str strd, ld := u32 x ld, bytes := ceilDiv (k * fmtBits code) 8, code := code }
  let scl (addr strd ld : Nat) : TOperand :=
    { base := u64 x addr, stride := str strd, ld := u32 x ld, bytes := k / 32, code := 0xF }
  { grid := { hall := u8 x 6, first := u16 x 8, count := u16 x 0xA, slot := u8 x 7, h := h, w := w, m := u32 x 0xC,
              n := u32 x 0x10, batch := if batched then u32 x 0x80 else 1 }
    path := path
    fmt := if path = .int then .int32 else if mAcc32 x then .fp32 else .w40
    group := if path = .fp8 then promoGroup (mPromo x) else if path = .mx then 32 else 0
    k := k
    a := opd 0x18 0x88 0x28 (mFmtA x)
    b := opd 0x20 0x90 0x2C (mFmtB x)
    sa := scl 0x30 0x98 0x40
    sb := scl 0x38 0xA0 0x44
    start := mBegin x
    ends := mEnd x
    weight := if path = .int then intWeight (mFmtA x) (mFmtB x) else 0
    strideOut := str 0xA8 }

/-- The rows of a tile's operand: from `p · size`, below the limit. -/
def tileRows (p size limit : Nat) : List Nat := (List.range size).filterMap (fun i =>
  if p * size + i < limit then some (p * size + i) else none)

/-- R140: the lowest operand field with a byte outside the scratchpad of the tread that reads it. -/
def notLocal (q : MatmulReq) : Option Nat :=
  let g := q.grid
  let bad (o : TOperand) (rows : GridTile → List Nat) : Bool :=
    (List.range (gridTiles g)).any (fun j =>
      let k := gridTile g j
      (rows k).any (fun r => !inTread g.hall k.tread (rowAddr o k.b r) o.bytes))
  let ra (k : GridTile) : List Nat := tileRows k.p g.h g.m
  let rb (k : GridTile) : List Nat := tileRows k.q g.w g.n
  if bad q.a ra then some 0x18
  else if bad q.b rb then some 0x20
  else if q.path == .mx && bad q.sa ra then some 0x30
  else if q.path == .mx && bad q.sb rb then some 0x38
  else none

/-- R141, R143: the format checks. -/
def matmulBad (batched : Bool) (x : Bytes) : Option (Nat × Nat) :=
  let path := mPath x
  let mx := path == some .mx
  let k := mK x
  let wa := fmtBits (mFmtA x)
  let wb := fmtBits (mFmtB x)
  let t := u16 x 8
  let n := u16 x 0xA
  let kOk := path.isNone || ((!mx || k % 32 == 0) && (!(wa == 4 || wb == 4) || k % 2 == 0) &&
    (!(wa == 6 || wb == 6) || k % 4 == 0))
  let ld (v w : Nat) : Bool := v % 16 == 0 && (path.isNone || decide (ceilDiv (k * w) 8 ≤ v))
  let off (v : Nat) : Bool := mx || path.isNone || v == 0
  let sc (v : Nat) : Bool := !mx || decide (k / 32 ≤ v)
  let form : Bool := firstOk t && countOk t n && inRange (u32 x 0xC) 1 1048576 && inRange (u32 x 0x10) 1 1048576 &&
    (!batched || inRange (u32 x 0x80) 1 65536)
  let far : Option Nat :=
    match path with
    | some p => if form && u32 x 0x48 == 0xFFFFFFFF then notLocal (matmulReq batched x p) else none
    | none => none
  tensorBad
    ([(0, rsTHeader, u16 x 0 == 3), (2, rsTHeader, bits (u16 x 2) 5 11 == 0),
      (2, rsPromo, path.isNone || ((mPromo x == 0 || path == some .fp8) && (!mAcc32 x || path != some .int))),
      (4, rsFormatPair, path.isSome), (5, rsTHeader, bits (u8 x 5) 2 6 == 0), (6, rsTHeader, decide (u8 x 6 < 16)),
      (8, rsTreads, firstOk t), (0xA, rsTreads, countOk t n),
      (0xC, rsTHeader, inRange (u32 x 0xC) 1 1048576), (0x10, rsTHeader, inRange (u32 x 0x10) 1 1048576),
      (0x14, rsTHeader, decide (1 ≤ k)), (0x14, rsShape, kOk),
      (0x18, rsAlign, u64 x 0x18 % 16 == 0), (0x18, rsStage, far != some 0x18),
      (0x20, rsAlign, u64 x 0x20 % 16 == 0), (0x20, rsStage, far != some 0x20),
      (0x28, rsAlign, ld (u32 x 0x28) wa), (0x2C, rsAlign, ld (u32 x 0x2C) wb),
      (0x30, rsTHeader, off (u64 x 0x30)), (0x30, rsStage, far != some 0x30),
      (0x38, rsTHeader, off (u64 x 0x38)), (0x38, rsStage, far != some 0x38),
      (0x40, rsTHeader, off (u32 x 0x40)), (0x40, rsAlign, sc (u32 x 0x40)),
      (0x44, rsTHeader, off (u32 x 0x44)), (0x44, rsAlign, sc (u32 x 0x44)),
      (0x48, rsStage, stageOk (u32 x 0x48)), (0x4C, rsTHeader, u32 x 0x4C == 0),
      (0x50, rsTHeader, mEnd x || u64 x 0x50 == 0), (0x58, rsTHeader, (nonzeroIn x 0x58 40).isNone)] ++
     (if batched then
        [(0x80, rsTHeader, inRange (u32 x 0x80) 1 65536), (0x84, rsTHeader, u32 x 0x84 == 0),
         (0xB0, rsTHeader, (nonzeroIn x 0xB0 16).isNone)]
      else []))

/-- The destination rows and the vectors of an output record are mapped and in service (R160, R245). -/
def checkOutDest (g : Grid) (rec' : Bytes) (stride : Nat) : Act Unit := do
  (List.range g.batch).forM (fun b => (List.range g.m).forM (fun r =>
    checkDest (low 64 (oAddr rec' + b * stride + r * oLd rec')) (packedBytes (oFmt rec') g.n)))
  if oScaleMode rec' = 2 then checkSrc (u64 rec' 0x18) (4 * g.n)
  else if oScaleMode rec' = 3 then checkSrc (u64 rec' 0x18) (4 * g.m)
  else pure ()
  if oBiasMode rec' = 2 then checkSrc (u64 rec' 0x20) (4 * g.n)
  else if oBiasMode rec' = 3 then checkSrc (u64 rec' 0x20) (4 * g.m)
  else pure ()

/-- The values of one tile after the op (R130, R142). -/
def sumTile (q : MatmulReq) (k : GridTile) (old : List Nat) (ra rb : List (List NumVal)) (sa sb : List Bytes) : List Nat :=
  let g := q.grid
  (List.range (g.h * g.w)).map (fun i =>
    let r := k.p * g.h + i / g.w
    let c := k.q * g.w + i % g.w
    let v := old.getD i 0
    if r < g.m ∧ c < g.n then
      sumElement q.path q.fmt q.group v (ra.getD r []) (rb.getD c []) (sa.getD r []) (sb.getD c [])
    else sumZero q.fmt v)

/-- A tile after its BEGIN (R151). -/
def newTile (q : MatmulReq) (k : GridTile) : Tile :=
  { hall := q.grid.hall, tread := k.tread, granule := k.pos * tileGranules q.grid.h q.grid.w q.fmt, h := q.grid.h,
    w := q.grid.w, pos := k.pos, fmt := q.fmt, state := .opened, vals := List.replicate (q.grid.h * q.grid.w) 0, kt := 0,
    weight := 0, group := 0, endReq := none, user := none, order := 0 }

/-- The tile with the op's k-steps summed, and its END request to make. -/
def stepTile (q : MatmulReq) (u : TileUser) (rec' : Bytes) (k : GridTile) (vals : List Nat) (t : Tile) : Tile :=
  { t with
    vals := vals
    kt := t.kt + q.k
    weight := t.weight + q.k * q.weight
    group := max t.group q.group
    user := if q.ends then some u else none
    endReq := if q.ends then
        some { record := rec', offset := k.b * q.strideOut, row := k.p * q.grid.h, col := k.q * q.grid.w,
               m := q.grid.m, n := q.grid.n }
      else none }

/-- R138: the tile is beyond the length limit. -/
def tileLong (t : Tile) : Bool :=
  match t.fmt with
  | .int32 => decide (2147483648 < t.weight)
  | _ => decide (65536 < t.kt)

/-- The map after the op's tiles (R151). -/
def putTiles (old : List Tile) (ts : List Tile) : List Tile :=
  old.filter (fun t => !ts.any (fun s => mainMeets s.hall s.tread s.granule (tileSize s) t)) ++ ts

/- DRAIN's grid (Table 6.7). -/

def drainGrid (x : Bytes) : Grid :=
  let (h, w) := tileShape (bits (u8 x 4) 0 2)
  { hall := u8 x 5, first := u16 x 6, count := u16 x 8, slot := u8 x 0xA, h := h, w := w, m := u32 x 0xC, n := u32 x 0x10,
    batch := u32 x 0x14 }

/-- R164: the OPEN tile at a grid place; its format is the tile's own. -/
def drainTile (x : Ctx) (g : Grid) (k : GridTile) : Option Tile :=
  ((openTile x g .w40 k).orElse (fun _ => openTile x g .fp32 k)).orElse (fun _ => openTile x g .int32 k)

def gridPlaces (g : Grid) : List GridTile := (List.range (gridTiles g)).map (gridTile g)

/- Ops that have issued and have not summed: they wait for operands or for their granules (R153, R158). -/

/-- Main-set granules: hall, tread, first granule, granules. -/
structure Granules where
  hall : Nat
  tread : Nat
  first : Nat
  count : Nat
  deriving DecidableEq, Repr

def granulesOf (t : Tile) : Granules := ⟨t.hall, t.tread, t.granule, tileSize t⟩

/-- A waiting tensor op that names granules: its place in the order of issue, its opcode, and its descriptor once read. -/
structure WaitingOp where
  order : Nat
  code : Nat
  desc : Option Bytes
  deriving DecidableEq, Repr

/-- The waiting op of an issue. -/
def waitingOp (i : OpIssue) : Option WaitingOp :=
  let code := recOpcode i.record
  let n := if code = 0x60 then 128 else if code = 0x61 then 192 else 64
  match i.wait with
  | .host .. | .grid =>
    if code = 0x60 ∨ code = 0x61 ∨ code = 0x67 then some ⟨i.order, code, gotRead i.got (opnd i.record 0) n⟩ else none
  | _ => none

def putByOrder (w : WaitingOp) : List WaitingOp → List WaitingOp
  | [] => [w]
  | a :: t => if w.order ≤ a.order then w :: a :: t else a :: putByOrder w t

/-- The waiting ops of a context that issued before place `n`, in order of issue. -/
def waitingBefore (d : Dev) (c n : Nat) : List WaitingOp :=
  (((allQueues d).flatMap (fun q =>
    match (queueOf d q).cur with
    | some e => if e.ctx == c then e.issues.filterMap waitingOp else []
    | none => [])).filter (fun w => decide (w.order < n))).foldr putByOrder []

/-- What stands before a later op: the tile map as the waiting ops leave it, the granules they name, and whether one of them
has a descriptor that has not come. -/
structure TilePlan where
  ctx : Ctx
  named : List Granules
  unknown : Bool
  deriving DecidableEq, Repr

/-- The tiles of a MATMUL in the plan: with END they have left the main set (R153, R154). -/
def planMatmul (q : MatmulReq) (p : TilePlan) : TilePlan :=
  let ts := (gridPlaces q.grid).map (newTile q)
  { p with ctx := { p.ctx with tiles := if q.ends then (putTiles p.ctx.tiles ts).filter (fun t => !ts.contains t)
                                        else putTiles p.ctx.tiles ts }
           named := p.named ++ ts.map granulesOf }

/-- The tiles that a DRAIN takes from the plan (R164). -/
def planDrain (g : Grid) (p : TilePlan) : TilePlan :=
  let ts := (gridPlaces g).filterMap (drainTile p.ctx g)
  { p with ctx := { p.ctx with tiles := p.ctx.tiles.filter (fun t => !ts.contains t) }, named := p.named ++ ts.map granulesOf }

def planOp (p : TilePlan) (w : WaitingOp) : TilePlan :=
  match w.desc with
  | none => { p with unknown := true }
  | some x =>
    if w.code = 0x67 then planDrain (drainGrid x) p
    else
      match mPath x with
      | some path => planMatmul (matmulReq (w.code == 0x61) x path) p
      | none => p

/-- The place of an op in the order of issue: its own, or after every op that has issued. -/
def issueOrder (d : Dev) (u : TileUser) : Nat :=
  match u with
  | .op q i =>
    match (queueOf d q).cur.bind (fun e => openIssue e i) with
    | some j => j.order
    | none => d.cur.issued
  | .body .. => d.cur.issued

/-- The tile map as every earlier-issued op of the context leaves it (R153). -/
def tilePlan (d : Dev) (c : Nat) (x : Ctx) (u : TileUser) : TilePlan :=
  (waitingBefore d c (issueOrder d u)).foldl planOp ⟨x, [], false⟩

/-- Granules of an op wait on the scoreboard or on another context's tiles (R158, R165): an earlier op has not summed into
them, or an END request on them has not swapped. -/
def granulesHeld (d : Dev) (c : Nat) (p : TilePlan) (x : Ctx) (l : List Granules) : Bool :=
  p.unknown || l.any (fun y => !treadServes d c y.hall y.tread ||
    p.named.any (fun z => z.hall == y.hall && z.tread == y.tread && granulesMeet z.first z.count y.first y.count) ||
    x.tiles.any (fun t => mainMeets y.hall y.tread y.first y.count t && awaitsSwap t))

/- The staging area (R140). -/

/-- Treads of an op whose clocks or tests hold their work (R25, R268). -/
def treadsGo (h : Nat) (l : List Nat) : Act Unit := do
  let d ← get
  if l.any (fun t => accessWaits d (scratchAddr h t)) then throw .notYet else pure ()

/-- Operands that lie elsewhere have passed through a tread's staging area: 32 KiB at STAGE_OFFSET of its scratchpad. What
the area holds afterwards is not stated (log 69). -/
def stageFetch (h off : Nat) (l : List Nat) : Act Unit :=
  if off = 0xFFFFFFFF then pure ()
  else change (fun d => l.foldl (fun d t => fillFresh (scratchAddr h t + off) 32768 d) d)

/-- The treads of a MATMUL that read an operand from elsewhere. -/
def farTreads (q : MatmulReq) : List Nat :=
  let g := q.grid
  let far (k : GridTile) (o : TOperand) (rows : List Nat) : Bool :=
    rows.any (fun r => !inTread g.hall k.tread (rowAddr o k.b r) o.bytes)
  (((gridPlaces g).filter (fun k =>
    let ra := tileRows k.p g.h g.m
    let rb := tileRows k.q g.w g.n
    far k q.a ra || far k q.b rb || (q.path == .mx && (far k q.sa ra || far k q.sb rb)))).map (fun k => k.tread)).eraseDups

/-- The op ends tiles: it waits for them (R156). -/
def addTileOp (u : TileUser) (long : Bool) (n : Nat) (x : Ctx) : Ctx :=
  { x with tileOps := x.tileOps.filter (fun o => o.user != u) ++ [{ user := u, long := long, left := n }] }

/-- The checks of MATMUL and BATCHED_MATMUL, without that of R152: the context, the request and the output-path record,
which `getOut` gives when END is set. -/
def matmulPre (batched : Bool) (e : OpEnv) (x : Bytes) (getOut : Act Bytes) : Act (Ctx × MatmulReq × Bytes) := do
  failTensor (matmulBad batched x)
  let ctx ← needCtx e
  let q := matmulReq batched x ((mPath x).getD .fp8)
  let g := q.grid
  let rec' ← if q.ends then getOut else pure []
  if q.ends then checkOut rec' g.n else pure ()
  require (rangePlaced ctx g.hall g.first g.count) stBadContext anyDetail
  if mPromo x ≠ 0 ∨ mAcc32 x = true then needExpert exTensor else pure ()
  match gridDeficit g q.fmt with
  | some (bytes, gals) => failWith stDoesNotFit (fitDetail bytes gals rsTiles 0)
  | none => pure ()
  checkRows q.a g.batch g.m
  checkRows q.b g.batch g.n
  if q.path = .mx then do
    checkRows q.sa g.batch g.m
    checkRows q.sb g.batch g.n
  else pure ()
  if q.ends then checkOutDest g rec' q.strideOut else pure ()
  pure (ctx, q, rec')

/-- The tiles of a batch item after the op's k-steps (R130, R143). -/
def itemTiles (e : OpEnv) (ctx : Ctx) (q : MatmulReq) (u : TileUser) (rec' : Bytes) (b : Nat) : Act (List Tile) := do
  let g := q.grid
  let ra ← readRows e q.a q.k b g.m
  let rb ← readRows e q.b q.k b g.n
  let sa ← if q.path = .mx then readScales e q.sa b g.m else pure []
  let sb ← if q.path = .mx then readScales e q.sb b g.n else pure []
  pure ((((List.range (gridTiles g)).map (gridTile g)).filter (fun k => k.b == b)).map (fun k =>
    let t := if q.start then newTile q k else (openTile ctx g q.fmt k).getD (newTile q k)
    stepTile q u rec' k (sumTile q k t.vals ra rb sa sb) t))

/-- The op's tiles stand in the tile map; with END the op waits for them (R151, R156). -/
def tilesSummed (c : Nat) (q : MatmulReq) (u : TileUser) (ts : List Tile) (d : Dev) : Dev :=
  takeTreads c q.grid.hall (((List.range (gridTiles q.grid)).map (gridTile q.grid)).map (fun k => k.tread))
    (modCtx c (fun x =>
      let x := { x with tiles := putTiles x.tiles ts }
      if q.ends then addTileOp u (ts.any tileLong) (gridTiles q.grid) x else x) d)

/-- MATMUL and BATCHED_MATMUL over a descriptor. An op whose granules are held has issued and waits for them, so that later
ops go on (R158, R159); it is checked again when it goes on (R153). -/
def matmulRun (batched : Bool) (e : OpEnv) (u : TileUser) (x : Bytes) (getOut : Act Bytes) : Act OpRes := do
  let (ctx, q, rec') ← matmulPre batched e x getOut
  let g := q.grid
  let ks := gridPlaces g
  let ng := tileGranules g.h g.w q.fmt
  let d ← get
  let plan := tilePlan d e.ctx ctx u
  match if q.start then none else ks.findIdx? (fun k => (openTile plan.ctx g q.fmt k).isNone) with
  | some j => badFormat j rsAccMismatch
  | none => pure ()
  treadsGo g.hall ((ks.map (fun k => k.tread)).eraseDups)
  if granulesHeld d e.ctx plan ctx (ks.map (fun k => ⟨g.hall, k.tread, k.pos * ng, ng⟩)) then throw .grid else pure ()
  let items ← (List.range g.batch).mapM (itemTiles e ctx q u rec')
  let ts := items.flatMap id
  let long := ts.any tileLong
  let n := gridTiles g
  stageFetch g.hall (u32 x 0x48) (farTreads q)
  change (tilesSummed e.ctx q u ts)
  let steps := n * ceilDiv q.k 1024
  if q.ends then pure (.running .tiles steps) else pure (.done { detail := 0, longRed := long } steps)

/-- The output record at an op's OUTPUT_ADDR, as it stood when the op was dispatched (R160). -/
def outRecord (e : OpEnv) (a : Nat) : Act Bytes := rdIssue e a 64

def bodyMatmul : Body := fun e r => do
  let x ← descriptor e r 128
  matmulRun false e (.op e.q e.idx) x (outRecord e (u64 x 0x50))

def bodyBatchedMatmul : Body := fun e r => do
  let x ← descriptor e r 192
  matmulRun true e (.op e.q e.idx) x (outRecord e (u64 x 0x50))

/-- MATMUL (R141). -/
def execMatmul (q : QRef) (s : State) : Host.Outcome State Fault Refusal := opRow q 0x60 bodyMatmul s

/-- BATCHED_MATMUL (R143). -/
def execBatchedMatmul (q : QRef) (s : State) : Host.Outcome State Fault Refusal := opRow q 0x61 bodyBatchedMatmul s

/- DRAIN (R164). -/

def drainBad (x : Bytes) : Option (Nat × Nat) :=
  let discard := bit (u8 x 2) 0
  tensorBad
    [(0, rsTHeader, u16 x 0 == 3), (2, rsTHeader, bits (u16 x 2) 1 15 == 0), (4, rsTHeader, bits (u8 x 4) 2 6 == 0),
     (5, rsTHeader, decide (u8 x 5 < 16)), (6, rsTreads, firstOk (u16 x 6)), (8, rsTreads, countOk (u16 x 6) (u16 x 8)),
     (0xB, rsTHeader, u8 x 0xB == 0), (0xC, rsTHeader, inRange (u32 x 0xC) 1 1048576),
     (0x10, rsTHeader, inRange (u32 x 0x10) 1 1048576), (0x14, rsTHeader, inRange (u32 x 0x14) 1 65536),
     (0x18, rsTHeader, discard == (u64 x 0x18 == 0)), (0x20, rsTHeader, u32 x 0x14 != 1 || u64 x 0x20 == 0),
     (0x28, rsTHeader, (nonzeroIn x 0x28 24).isNone)]

/-- The checks of DRAIN, without that of the tiles. -/
def drainPre (e : OpEnv) (x : Bytes) (getOut : Act Bytes) : Act (Ctx × Bytes) := do
  failTensor (drainBad x)
  let ctx ← needCtx e
  let g := drainGrid x
  let discard := bit (u8 x 2) 0
  let rec' ← if discard then pure [] else getOut
  if discard then pure () else checkOut rec' g.n
  require (rangePlaced ctx g.hall g.first g.count) stBadContext anyDetail
  if discard then pure () else checkOutDest g rec' (u64 x 0x20)
  pure (ctx, rec')

/-- The END requests of a DRAIN's tiles are to be made. -/
def drainAsk (u : TileUser) (g : Grid) (rec' : Bytes) (stride : Nat) (ts : List (GridTile × Tile)) (x : Ctx) : Ctx :=
  let out (k : GridTile) : TileOut :=
    { record := rec', offset := k.b * stride, row := k.p * g.h, col := k.q * g.w, m := g.m, n := g.n }
  addTileOp u false (gridTiles g)
    { x with tiles := x.tiles.map (fun t =>
        match ts.find? (fun y => y.2 == t) with
        | some y => { t with endReq := some (out y.1), user := some u }
        | none => t) }

/-- DRAIN over a descriptor. -/
def drainRun (e : OpEnv) (u : TileUser) (x : Bytes) (getOut : Act Bytes) : Act OpRes := do
  let (ctx, rec') ← drainPre e x getOut
  let g := drainGrid x
  let ks := gridPlaces g
  let d ← get
  let plan := tilePlan d e.ctx ctx u
  match ks.findIdx? (fun k => (drainTile plan.ctx g k).isNone) with
  | some j => badFormat j rsAccMismatch
  | none => pure ()
  treadsGo g.hall ((ks.map (fun k => k.tread)).eraseDups)
  if granulesHeld d e.ctx plan ctx (ks.filterMap (fun k => (drainTile plan.ctx g k).map granulesOf)) then throw .grid
  else pure ()
  let ts := ks.filterMap (fun k => (drainTile ctx g k).map (fun t => (k, t)))
  if bit (u8 x 2) 0 then do
    change (modCtx e.ctx (fun x => { x with tiles := x.tiles.filter (fun t => !ts.any (fun y => y.2 == t)) }))
    pure (.done { detail := 0 } (gridTiles g))
  else do
    change (fun d => takeTreads e.ctx g.hall (ks.map (fun k => k.tread))
      (modCtx e.ctx (drainAsk u g rec' (u64 x 0x20) ts) d))
    pure (.running .tiles 0)

def bodyDrain : Body := fun e r => do
  let x ← descriptor e r 64
  drainRun e (.op e.q e.idx) x (outRecord e (u64 x 0x18))

/-- DRAIN (R164). -/
def execDrain (q : QRef) (s : State) : Host.Outcome State Fault Refusal := opRow q 0x67 bodyDrain s

end Sys2Proof.Machine
end

