-- ==== Sys2Proof/Machine/Vector.lean ====
section
/-! DEFINITION. The ops of the vector units and DMA ports: REDUCE, ELEMENTWISE, GATHER, SCATTER and CONVERT (R144, R145,
R330). -/

namespace Sys2Proof.Machine

/-- FMT_IN of REDUCE and ELEMENTWISE (Tables 5.11, 5.12). -/
def vecFmtOk (c : Nat) : Bool := decide (c ≤ 4) || c == 0xB || c == 0xD || c == 0xE

/-- The tread that handles item `i` of a range (R144, R145). -/
def itemTread (first count i : Nat) : Nat := first + i / 32 % count

/-- The treads that handle items of `outs`. -/
def itemTreads (first count outs : Nat) : List Nat := (List.range (min count (ceilDiv outs 32))).map (fun k => first + k)

/-- Bytes of an element of 8 bits or more. -/
def elemSize (c : Nat) : Nat := fmtBits c / 8

/-- Packed output codes are written from an address; the byte that an odd 4-bit element shares keeps its other half. -/
def writeCodes (a code : Nat) (l : List Nat) : Act Unit := do
  let n := packedBytes code l.length
  let d ← get
  wr a (packCodes code ((fetch d (a + n - 1) 1).headD 0) l)

def countAll (l : List NumVal) : NumCount := l.foldl countNum {}

/- REDUCE (R144). -/

def numBad (n : NumVal) : Bool :=
  match n with
  | .f .nan => true
  | .poison => true
  | _ => false

/-- The order of MAX and MIN: −0 below +0. -/
def numLt (a b : NumVal) : Bool :=
  match a, b with
  | .f x, .f y => ltOrd x y
  | .i x, .i y => decide (x < y)
  | _, _ => false

/-- The extreme of a list: a NaN or poison input is the result. -/
def extreme (max' : Bool) (l : List NumVal) : NumVal :=
  match l.find? numBad with
  | some n => n
  | none => l.foldl (fun m x => if (if max' then numLt m x else numLt x m) then x else m) (l.headD (.i 0))

/-- The lowest index that holds the extreme, or a NaN or poison. -/
def extremeIdx (max' : Bool) (l : List NumVal) : Nat :=
  match l.findIdx? numBad with
  | some i => i
  | none => (l.findIdx? (fun x => x == extreme max' l)).getD 0

def sumNum (square : Bool) (l : List NumVal) : NumVal :=
  if l.all (fun n => match n with | .f _ => true | _ => false) then
    .f (l.foldl (fun acc x => roundF w40 (addV acc (if square then mulV (numF x) (numF x) else numF x))) FV.zero)
  else
    l.foldl (fun acc x => match x with
      | .i v => intStep acc v
      | _ => .poison) (.i 0)

def reduceNum (op : Nat) (l : List NumVal) : NumVal :=
  match op with
  | 0 => sumNum false l
  | 1 => sumNum true l
  | 2 => extreme true l
  | 3 => extreme false l
  | 4 => .i (extremeIdx true l)
  | _ => .i (extremeIdx false l)

def reduceBad (x : Bytes) : Option (Nat × Nat) :=
  let op := bits (u8 x 2) 0 3
  let axis := bit (u8 x 2) 3
  let fi := bits (u8 x 4) 0 4
  let fo := bits (u8 x 4) 4 4
  let t := u16 x 6
  let n := u16 x 8
  let rows := u32 x 0xC
  let cols := u32 x 0x10
  let pair := vecFmtOk fi && outFmtOk fo && !(op == 1 && fmtIsInt fi) && (!(op == 4 || op == 5) || fo == 0xD)
  let form := firstOk t && countOk t n && vecFmtOk fi && inRange rows 1 16777216 && inRange cols 1 16777216
  let near : Bool := !(form && u32 x 0x28 == 0xFFFFFFFF) ||
    (if axis then (List.range rows).all (fun r =>
        inTread (u8 x 5) (itemTread t n r) (low 64 (u64 x 0x18 + r * u32 x 0x14)) (cols * elemSize fi))
      else (List.range rows).all (fun r => (List.range cols).all (fun c =>
        inTread (u8 x 5) (itemTread t n c) (low 64 (u64 x 0x18 + r * u32 x 0x14 + c * elemSize fi)) (elemSize fi))))
  tensorBad
    [(0, rsTHeader, u16 x 0 == 3), (2, rsTHeader, decide (op < 6) && bits (u16 x 2) 4 12 == 0), (4, rsFormatPair, pair),
     (5, rsTHeader, decide (u8 x 5 < 16)), (6, rsTreads, firstOk t), (8, rsTreads, countOk t n),
     (0xA, rsTHeader, u16 x 0xA == 0), (0xC, rsTHeader, inRange rows 1 16777216),
     (0x10, rsTHeader, inRange cols 1 16777216), (0x14, rsAlign, u32 x 0x14 % 8 == 0),
     (0x18, rsAlign, u64 x 0x18 % 8 == 0), (0x18, rsStage, near), (0x20, rsAlign, u64 x 0x20 % 8 == 0),
     (0x28, rsStage, stageOk (u32 x 0x28)), (0x2C, rsTHeader, (nonzeroIn x 0x2C 20).isNone)]

/-- Element `c` of each row. -/
def column (rows : List (List NumVal)) (c : Nat) : List NumVal := rows.map (fun r => r.getD c (.i 0))

def reduceIn (x : Bytes) : TOperand :=
  let fi := bits (u8 x 4) 0 4
  { base := u64 x 0x18, stride := 0, ld := u32 x 0x14, bytes := packedBytes fi (u32 x 0x10), code := fi }

def reduceOuts (x : Bytes) : Nat := if bit (u8 x 2) 3 then u32 x 0xC else u32 x 0x10

/-- A tread reads an item of a REDUCE from elsewhere (R140, R144). -/
def reduceFar (x : Bytes) (t : Nat) : Bool :=
  let fi := bits (u8 x 4) 0 4
  let mine (i : Nat) : Bool := itemTread (u16 x 6) (u16 x 8) i == t
  let row (r : Nat) : Nat := low 64 (u64 x 0x18 + r * u32 x 0x14)
  if bit (u8 x 2) 3 then
    (List.range (u32 x 0xC)).any (fun r => mine r && !inTread (u8 x 5) t (row r) (u32 x 0x10 * elemSize fi))
  else
    (List.range (u32 x 0x10)).any (fun c => mine c && (List.range (u32 x 0xC)).any (fun r =>
      !inTread (u8 x 5) t (row r + c * elemSize fi) (elemSize fi)))

/-- The checks of REDUCE. -/
def reducePre (e : OpEnv) (x : Bytes) : Act Unit := do
  failTensor (reduceBad x)
  let ctx ← needCtx e
  require (rangePlaced ctx (u8 x 5) (u16 x 6) (u16 x 8)) stBadContext anyDetail
  checkRows (reduceIn x) 1 (u32 x 0xC)
  checkDest (u64 x 0x20) (packedBytes (bits (u8 x 4) 4 4) (reduceOuts x))

def reduceRun (e : OpEnv) (x : Bytes) : Act OpRes := do
  reducePre e x
  let op := bits (u8 x 2) 0 3
  let fi := bits (u8 x 4) 0 4
  let fo := bits (u8 x 4) 4 4
  let rows := u32 x 0xC
  let cols := u32 x 0x10
  let outs := reduceOuts x
  let treads := itemTreads (u16 x 6) (u16 x 8) outs
  treadsGo (u8 x 5) treads
  let l ← readRows e (reduceIn x) cols 0 rows
  stageFetch (u8 x 5) (u32 x 0x28) (treads.filter (fun t => reduceFar x t))
  let res := (if bit (u8 x 2) 3 then l else (List.range cols).map (column l)).map (reduceNum op)
  writeCodes (u64 x 0x20) fo (res.map (encodeNum fo false))
  let long := decide (op ≤ 1) && !fmtIsInt fi && decide (65536 < (if bit (u8 x 2) 3 then cols else rows))
  pure (.done { detail := (countAll res).detail, longRed := long } (transferSteps (packedBytes fo outs)))

def bodyReduce : Body := fun e r => do
  let x ← descriptor e r 64
  reduceRun e x

/-- REDUCE (R144). -/
def execReduce (q : QRef) (s : State) : Host.Outcome State Fault Refusal := opRow q 0x63 bodyReduce s

/- ELEMENTWISE (R145). -/

def eOp (x : Bytes) : Nat := bits (u8 x 2) 0 4
def eScalar (x : Bytes) : Bool := bit (u8 x 2) 4
/-- The op reads b. -/
def eUsesB (x : Bytes) : Bool := eOp x != 0 && eOp x != 7

def elementwiseBad (x : Bytes) : Option (Nat × Nat) :=
  let op := eOp x
  let fa := bits (u8 x 4) 0 4
  let fb := bits (u8 x 4) 4 4
  let fo := bits (u8 x 5) 0 4
  let t := u16 x 8
  let n := u16 x 0xA
  let k := u32 x 0xC
  let useB := eUsesB x
  let form := firstOk t && countOk t n && vecFmtOk fa && (!useB || vecFmtOk fb) && outFmtOk fo
  let far (a c : Nat) (one : Bool) : Bool := form && u32 x 0x30 == 0xFFFFFFFF && (List.range k).any (fun i =>
    !inTread (u8 x 6) (itemTread t n i) (low 64 (a + (if one then 0 else i * elemSize c))) (elemSize c))
  let meets (a c m : Nat) : Bool := overlaps (u64 x 0x20) (packedBytes fo k) a (m * elemSize c)
  let apart : Bool := !form ||
    ((!meets (u64 x 0x10) fa k || (u64 x 0x10 == u64 x 0x20 && fmtBits fa == fmtBits fo)) &&
     (!useB || !meets (u64 x 0x18) fb (if eScalar x then 1 else k) ||
      (u64 x 0x18 == u64 x 0x20 && fmtBits fb == fmtBits fo && (!eScalar x || k == 1))))
  let code := u8 x 7
  tensorBad
    [(0, rsTHeader, u16 x 0 == 3), (2, rsTHeader, decide (op < 8) && bits (u16 x 2) 5 11 == 0),
     (4, rsFormatPair, vecFmtOk fa && (!useB || vecFmtOk fb)), (5, rsTHeader, bits (u8 x 5) 4 4 == 0),
     (5, rsFormatPair, outFmtOk fo), (6, rsTHeader, decide (u8 x 6 < 16)), (7, rsTHeader, op == 7 || code == 0),
     (7, rsOutput, op != 7 || decide (code < 8)), (8, rsTreads, firstOk t), (0xA, rsTreads, countOk t n),
     (0xC, rsTHeader, decide (1 ≤ k)), (0x10, rsAlign, u64 x 0x10 % 8 == 0), (0x10, rsStage, !far (u64 x 0x10) fa false),
     (0x18, rsAlign, u64 x 0x18 % 8 == 0), (0x18, rsTHeader, useB || u64 x 0x18 == 0),
     (0x18, rsStage, !useB || !far (u64 x 0x18) fb (eScalar x)), (0x20, rsAlign, u64 x 0x20 % 8 == 0),
     (0x20, rsOverlap, apart), (0x28, rsOutput, op != 7 || actP0Ok code (f32Of (u32 x 0x28))),
     (0x2C, rsOutput, op != 7 || actP1Ok code (f32Of (u32 x 0x28)) (f32Of (u32 x 0x2C))),
     (0x30, rsStage, stageOk (u32 x 0x30)), (0x34, rsTHeader, (nonzeroIn x 0x34 12).isNone)]

/-- The integer form: every format used is INT8 or INT32, and OP is 0 to 5. -/
def eInteger (x : Bytes) : Bool :=
  let int (c : Nat) : Bool := c == 0xB || c == 0xD
  decide (eOp x ≤ 5) && int (bits (u8 x 4) 0 4) && (!eUsesB x || int (bits (u8 x 4) 4 4)) && int (bits (u8 x 5) 0 4)

def intElem (op : Nat) (a b : NumVal) : NumVal :=
  match op, a, b with
  | 0, a, _ => a
  | 1, .i u, .i v => intStep (.i u) v
  | 2, .i u, .i v => intStep (.i u) (-v)
  | 3, .i u, .i v => intStep (.i 0) (u * v)
  | 4, .i u, .i v => .i (max u v)
  | _, .i u, .i v => .i (min u v)
  | _, _, _ => .poison

def floatElem (op act : Nat) (alpha beta a b : FV) : FV :=
  match op with
  | 0 => a
  | 1 => add32 a b
  | 2 => sub32 a b
  | 3 => mul32 a b
  | 4 => if a.isNan || b.isNan then .nan else if ltOrd a b then b else a
  | 5 => if a.isNan || b.isNan then .nan else if ltOrd b a then b else a
  | 6 => add32 (mul32 alpha a) (mul32 beta b)
  | _ => activate act alpha beta a

/-- A tread reads an operand of an ELEMENTWISE from elsewhere (R140, R145). -/
def elementFar (x : Bytes) (t : Nat) : Bool :=
  let far (a c i : Nat) : Bool := !inTread (u8 x 6) t (low 64 (a + i * elemSize c)) (elemSize c)
  (List.range (u32 x 0xC)).any (fun i => itemTread (u16 x 8) (u16 x 0xA) i == t &&
    (far (u64 x 0x10) (bits (u8 x 4) 0 4) i ||
      (eUsesB x && far (u64 x 0x18) (bits (u8 x 4) 4 4) (if eScalar x then 0 else i))))

/-- The checks of ELEMENTWISE. -/
def elementwisePre (e : OpEnv) (x : Bytes) : Act Unit := do
  failTensor (elementwiseBad x)
  let ctx ← needCtx e
  require (rangePlaced ctx (u8 x 6) (u16 x 8) (u16 x 0xA)) stBadContext anyDetail
  let k := u32 x 0xC
  checkSrc (u64 x 0x10) (k * elemSize (bits (u8 x 4) 0 4))
  if eUsesB x then checkSrc (u64 x 0x18) ((if eScalar x then 1 else k) * elemSize (bits (u8 x 4) 4 4)) else pure ()
  checkDest (u64 x 0x20) (packedBytes (bits (u8 x 5) 0 4) k)

def elementwiseRun (e : OpEnv) (x : Bytes) : Act OpRes := do
  elementwisePre e x
  let fa := bits (u8 x 4) 0 4
  let fb := bits (u8 x 4) 4 4
  let fo := bits (u8 x 5) 0 4
  let k := u32 x 0xC
  let nb := if eScalar x then 1 else k
  let treads := itemTreads (u16 x 8) (u16 x 0xA) k
  treadsGo (u8 x 6) treads
  let as ← rd e (u64 x 0x10) (k * elemSize fa)
  let bs ← if eUsesB x then rd e (u64 x 0x18) (nb * elemSize fb) else pure []
  stageFetch (u8 x 6) (u32 x 0x30) (treads.filter (elementFar x))
  let a (i : Nat) : NumVal := elemAt fa as i
  let b (i : Nat) : NumVal := if eUsesB x then elemAt fb bs (if eScalar x then 0 else i) else .i 0
  let res := (List.range k).map (fun i =>
    if eInteger x then intElem (eOp x) (a i) (b i)
    else .f (floatElem (eOp x) (u8 x 7) (f32Of (u32 x 0x28)) (f32Of (u32 x 0x2C)) (toF32 (a i)) (toF32 (b i))))
  writeCodes (u64 x 0x20) fo (res.map (encodeNum fo false))
  pure (.done { detail := (countAll res).detail } (transferSteps (packedBytes fo k)))

def bodyElementwise : Body := fun e r => do
  let x ← descriptor e r 64
  elementwiseRun e x

/-- ELEMENTWISE (R145). -/
def execElementwise (q : QRef) (s : State) : Host.Outcome State Fault Refusal := opRow q 0x62 bodyElementwise s

/- GATHER, SCATTER and CONVERT (R330). -/

inductive MoveOp where
  | gather | scatter | convert
  deriving DecidableEq, Repr

/-- CONVERT's formats. -/
def convFmtOk (c : Nat) : Bool := decide (c ≤ 4) || (decide (0xB ≤ c) && decide (c ≤ 0xE))

/-- Regions of the op: source, destination and index bytes. -/
def moveRegions (op : MoveOp) (x : Bytes) : Nat × Nat × Nat :=
  let n := u32 x 0xC
  let rb := u32 x 0x10
  let tr := u32 x 0x14
  match op with
  | .gather => (tr * rb, n * rb, 4 * n)
  | .scatter => (n * rb, tr * rb, 4 * n)
  | .convert => (packedBytes (bits (u8 x 2) 0 4) n, packedBytes (bits (u8 x 2) 4 4) n, 0)

/-- The bytes of a move's operand all lie in the scratchpad of one of its treads (R140); scratchpads do not adjoin. -/
def moveNear (x : Bytes) (a k : Nat) : Bool :=
  k == 0 || (List.range (u16 x 8)).any (fun j => inTread (u8 x 4) (u16 x 6 + j) a k)

def moveBad (op : MoveOp) (x : Bytes) : Option (Nat × Nat) :=
  let conv := op == .convert
  let t := u16 x 6
  let n := u16 x 8
  let (sn, dn, xn) := moveRegions op x
  let meets (a an b bn : Nat) : Bool := overlaps a an b bn && decide (0 < an) && decide (0 < bn)
  let form := firstOk t && countOk t n
  let far (a k : Nat) : Bool := form && u32 x 0x30 == 0xFFFFFFFF && !moveNear x a k
  tensorBad
    [(0, rsTHeader, u16 x 0 == 3),
     (2, if conv then rsFormatPair else rsTHeader,
       if conv then convFmtOk (bits (u8 x 2) 0 4) && convFmtOk (bits (u8 x 2) 4 4) else u8 x 2 == 0),
     (3, rsTHeader, bits (u8 x 3) 1 7 == 0), (4, rsTHeader, decide (u8 x 4 < 16)), (5, rsTHeader, u8 x 5 == 0),
     (6, rsTreads, firstOk t), (8, rsTreads, countOk t n), (0xA, rsTHeader, u16 x 0xA == 0),
     (0xC, rsTHeader, decide (1 ≤ u32 x 0xC)),
     (0x10, rsTHeader, if conv then u32 x 0x10 == 0 else inRange (u32 x 0x10) 8 65536),
     (0x10, rsAlign, u32 x 0x10 % 8 == 0), (0x14, rsTHeader, !conv || u32 x 0x14 == 0),
     (0x18, rsAlign, u64 x 0x18 % 8 == 0), (0x18, rsStage, !far (u64 x 0x18) sn),
     (0x20, rsAlign, u64 x 0x20 % 8 == 0), (0x20, rsOverlap, !meets (u64 x 0x18) sn (u64 x 0x20) dn),
     (0x28, rsTHeader, !conv || u64 x 0x28 == 0), (0x28, rsStage, conv || !far (u64 x 0x28) xn),
     (0x28, rsOverlap, !meets (u64 x 0x28) xn (u64 x 0x18) sn && !meets (u64 x 0x28) xn (u64 x 0x20) dn),
     (0x30, rsStage, stageOk (u32 x 0x30)), (0x34, rsTHeader, (nonzeroIn x 0x34 12).isNone)]

/-- A row moves; it stops at an uncorrectable word, the bytes before it written (R254). -/
def moveRow (e : OpEnv) (dst src n : Nat) : Act Unit := do
  if isHost src then do
    let bs ← hostRead e src n
    wr dst bs
  else do
    let (bs, bad) ← readPart src n
    wr dst bs
    match bad with
    | some w => failWith stDeviceFault (detailDevAddr w)
    | none => pure ()

/-- The moves of GATHER and SCATTER: destination and source row, none where the index is out of range. -/
def moveList (op : MoveOp) (x : Bytes) (idx : List Nat) : List (Nat × Option Nat) :=
  let rb := u32 x 0x10
  let tr := u32 x 0x14
  let src (i : Nat) : Nat := low 64 (u64 x 0x18 + i * rb)
  let dst (i : Nat) : Nat := low 64 (u64 x 0x20 + i * rb)
  idx.zipIdx.filterMap (fun y =>
    match op with
    | .gather => some (dst y.2, if y.1 < tr then some (src y.1) else none)
    | _ => if y.1 < tr then some (dst y.1, some (src y.2)) else none)

/-- The ends of a move are mapped and in service. -/
def moveCheck (rb : Nat) (m : Nat × Option Nat) : Act Unit := do
  checkDest m.1 rb
  match m.2 with
  | some s => checkSrc s rb
  | none => pure ()

/-- One move: a row, or zeros. -/
def moveDo (e : OpEnv) (rb : Nat) (m : Nat × Option Nat) : Act Unit :=
  match m.2 with
  | some s => moveRow e m.1 s rb
  | none => wr m.1 (List.replicate rb 0)

/-- The checks of GATHER, SCATTER and CONVERT that do not depend on the indices. -/
def movePre (op : MoveOp) (e : OpEnv) (x : Bytes) : Act Unit := do
  failTensor (moveBad op x)
  let ctx ← needCtx e
  require (rangePlaced ctx (u8 x 4) (u16 x 6) (u16 x 8)) stBadContext anyDetail
  let (sn, dn, xn) := moveRegions op x
  match op with
  | .convert => do
    checkSrc (u64 x 0x18) sn
    checkDest (u64 x 0x20) dn
  | _ => checkSrc (u64 x 0x28) xn

/-- Sources and indices of a move from elsewhere pass through the staging areas of its treads (R140, R330). -/
def moveStage (op : MoveOp) (x : Bytes) : Act Unit :=
  let (sn, _, xn) := moveRegions op x
  if moveNear x (u64 x 0x18) sn && (op == .convert || moveNear x (u64 x 0x28) xn) then pure ()
  else stageFetch (u8 x 4) (u32 x 0x30) ((List.range (u16 x 8)).map (fun j => u16 x 6 + j))

def moveRun (op : MoveOp) (e : OpEnv) (x : Bytes) : Act OpRes := do
  movePre op e x
  treadsGo (u8 x 4) ((List.range (u16 x 8)).map (fun j => u16 x 6 + j))
  let n := u32 x 0xC
  let rb := u32 x 0x10
  match op with
  | .convert => do
    let fi := bits (u8 x 2) 0 4
    let fo := bits (u8 x 2) 4 4
    let (sn, dn, _) := moveRegions op x
    let (bs, bad) ← if isHost (u64 x 0x18) then (do
        let bs ← hostRead e (u64 x 0x18) sn
        pure (bs, none)) else readPart (u64 x 0x18) sn
    moveStage op x
    let k := if bad.isSome then min n (bs.length * 8 / fmtBits fi) else n
    let l := (List.range k).map (elemAt fi bs)
    writeCodes (u64 x 0x20) fo (l.map (encodeNum fo (bit (u8 x 3) 0)))
    match bad with
    | some w => failWith stDeviceFault (detailDevAddr w)
    | none => pure (.done { detail := (countAll l).detail } (transferSteps dn))
  | op => do
    let ib ← rd e (u64 x 0x28) (4 * n)
    let idx := (List.range n).map (fun i => u32 ib (4 * i))
    let moves := moveList op x idx
    moves.forM (moveCheck rb)
    moveStage op x
    moves.forM (moveDo e rb)
    let outs := (idx.filter (fun i => decide (u32 x 0x14 ≤ i))).length
    let steps := transferSteps (n * rb)
    if outs = 0 then pure (.done { detail := 0 } steps)
    else pure (.done { status := stPartial, detail := min outs 0xFFFFFFFF } steps)

def bodyMove (op : MoveOp) : Body := fun e r => do
  let x ← descriptor e r 64
  moveRun op e x

/-- GATHER (R330). -/
def execGather (q : QRef) (s : State) : Host.Outcome State Fault Refusal := opRow q 0x64 (bodyMove .gather) s

/-- SCATTER (R330). -/
def execScatter (q : QRef) (s : State) : Host.Outcome State Fault Refusal := opRow q 0x65 (bodyMove .scatter) s

/-- CONVERT (R330). -/
def execConvert (q : QRef) (s : State) : Host.Outcome State Fault Refusal := opRow q 0x66 (bodyMove .convert) s

end Sys2Proof.Machine
end

