-- ==== Sys2Proof/Machine/BodyOps.lean ====
section
/-! DEFINITION. The ops of a step's body: their sizes, address fields, tread ranges, checks and effect, and the loops of a
body (R171, R172, R176, R177). -/

namespace Sys2Proof.Machine

/-- A body holds tensor ops, COPY and FILL (R176). -/
def bodyOpcode (op : Nat) : Bool := opClass op == .tensor && decide (op ≤ 0x67) || op == 0x20 || op == 0x21

/-- Bytes of the descriptor at DESC_ADDR: COPY and FILL have their op record there, which holds their operands. -/
def bodyDescBytes (op : Nat) : Nat :=
  match op with
  | 0x60 => 128
  | 0x61 => 192
  | 0x20 | 0x21 => 32
  | _ => 64

/-- The address of the op's output-path record, if it has one. -/
def bodyOutAddr (op : Nat) (x : Bytes) : Option Nat :=
  match op with
  | 0x60 | 0x61 => if mEnd x then some (u64 x 0x50) else none
  | 0x67 => if bit (u8 x 2) 0 then none else some (u64 x 0x18)
  | _ => none

/-- The 64-bit address fields that a binding may name. -/
def bodyAddrFields (op : Nat) (toOut : Bool) : List Nat :=
  if toOut then [0x08, 0x18, 0x20]
  else
    match op with
    | 0x60 | 0x61 => [0x18, 0x20, 0x30, 0x38]
    | 0x62 => [0x10, 0x18, 0x20]
    | 0x63 => [0x18, 0x20]
    | 0x64 | 0x65 | 0x66 => [0x18, 0x20, 0x28]
    | 0x20 => [0x08, 0x10]
    | 0x21 => [0x08]
    | _ => []

/-- The tread range of a body op: hall, first tread, count. -/
def bodyRange (op : Nat) (x : Bytes) : Option (Nat × Nat × Nat) :=
  match op with
  | 0x60 | 0x61 => some (u8 x 6, u16 x 8, u16 x 0xA)
  | 0x62 => some (u8 x 6, u16 x 8, u16 x 0xA)
  | 0x63 => some (u8 x 5, u16 x 6, u16 x 8)
  | 0x64 | 0x65 | 0x66 => some (u8 x 4, u16 x 6, u16 x 8)
  | 0x67 => some (u8 x 5, u16 x 6, u16 x 8)
  | _ => none

/-- The checks of COPY and FILL. -/
def bodyMemCheck (e : OpEnv) (copy : Bool) (r : Bytes) : Act Unit := do
  let dst := opnd r 0
  let n := opnd r 2
  requireFmt (bytesInRange n) (e.off + 0x18) rsMemory
  checkAddr dst
  if copy then do
    checkAddr (opnd r 1)
    requireFmt (!overlaps dst n (opnd r 1) n) (e.off + 0x08) rsMemOverlap
    checkSrc (opnd r 1) n
  else pure ()
  checkDest dst n

/-- A body op is checked as at dispatch, but for the tile map (R172). -/
def bodyOpCheck (e : OpEnv) (op : Nat) (x out : Bytes) : Act Unit :=
  match op with
  | 0x60 => do let _ ← matmulPre false e x (pure out)
  | 0x61 => do let _ ← matmulPre true e x (pure out)
  | 0x62 => elementwisePre e x
  | 0x63 => reducePre e x
  | 0x64 => movePre .gather e x
  | 0x65 => movePre .scatter e x
  | 0x66 => movePre .convert e x
  | 0x67 => do let _ ← drainPre e x (pure out)
  | 0x20 => bodyMemCheck e true x
  | _ => bodyMemCheck e false x

/-- The effect of a body op. -/
def bodyOpRun (e : OpEnv) (u : TileUser) (op : Nat) (x out : Bytes) : Act OpRes :=
  match op with
  | 0x60 => matmulRun false e u x (pure out)
  | 0x61 => matmulRun true e u x (pure out)
  | 0x62 => elementwiseRun e x
  | 0x63 => reduceRun e x
  | 0x64 => moveRun .gather e x
  | 0x65 => moveRun .scatter e x
  | 0x66 => moveRun .convert e x
  | 0x67 => drainRun e u x (pure out)
  | 0x20 => bodyCopy e x
  | _ => bodyFill e x

/- Loops. -/

/-- The LOOP entries of a body: first entry, the LOOP itself. -/
def bodyLoops (b : List BodyEntry) : List (Nat × Nat) :=
  b.zipIdx.filterMap (fun y => if y.1.loop then some (y.1.back, y.2) else none)

/-- Two loops overlap without nesting. -/
def loopsCross (a b : Nat × Nat) : Bool := decide (a.1 < b.1) && decide (b.1 ≤ a.2) && decide (a.2 < b.2)

/-- The loops that enclose an entry, innermost first. -/
def enclosing (b : List BodyEntry) (i : Nat) : List (Nat × Nat) :=
  (bodyLoops b).filter (fun l => decide (l.1 ≤ i) && decide (i < l.2))

/-- R176: every BACK lies below its LOOP, no two loops cross, and at most 4 nest. -/
def loopsOk (b : List BodyEntry) : Bool :=
  let l := bodyLoops b
  l.all (fun x => decide (x.1 < x.2)) && l.all (fun x => l.all (fun y => !loopsCross x y)) &&
    (List.range b.length).all (fun i => decide ((enclosing b i).length ≤ 4))

/-- The iteration index of the innermost loop around an entry. -/
def innerIndex (b : List BodyEntry) (loops : List (Nat × Nat)) (i : Nat) : Nat :=
  match enclosing b i with
  | l :: _ => tabGet 0 l.2 loops
  | [] => 0

/-- The sequencer passes LOOP entries until it stands at an op or at the end; `n` bounds the entries passed. -/
def passLoops (b : List BodyEntry) : Nat → Nat → List (Nat × Nat) → Nat × List (Nat × Nat)
  | 0, i, ls => (i, ls)
  | n + 1, i, ls =>
    match b[i]? with
    | some e =>
      if e.loop then
        let k := tabGet 0 i ls
        if k + 1 < e.count then passLoops b n e.back (tabSet i (k + 1) ls)
        else passLoops b n (i + 1) (tabSet i 0 ls)
      else (i, ls)
    | none => (i, ls)

/- Bindings. -/

/-- A 64-bit field replaced. -/
def putField (x : Bytes) (o v : Nat) : Bytes := x.take o ++ leBytes 8 (low 64 v) ++ x.drop (o + 8)

/-- The bindings of entry `i` written into its descriptor and output record: `slot` gives the slot address of a stream
in a direction (R176). -/
def bindEntry (bs : List Binding) (i idx : Nat) (slot : Bool → Nat → Nat) (x out : Bytes) : Bytes × Bytes :=
  (bs.filter (fun b => b.entry == i)).foldl
    (fun p b =>
      let v := slot b.output b.stream + b.add + idx * b.stride
      if b.toOut then (p.1, putField p.2 b.offset v) else (putField p.1 b.offset v, p.2)) (x, out)

end Sys2Proof.Machine
end

