-- ==== Sys2Proof/Machine/FlightForm.lean ====
section
/-! DEFINITION. FLIGHT_BUILD and FLIGHT_TEAR: the tables a flight copies and their checks (R168 to R177, R190). -/

namespace Sys2Proof.Machine

/- Reason codes (Table 7.10). -/
def rsFHeader : Nat := 0x40
def rsStepRange : Nat := 0x41
def rsStepKind : Nat := 0x42
def rsStream : Nat := 0x43
def rsBuffer : Nat := 0x44
def rsBody : Nat := 0x45
def rsBinding : Nat := 0x46
def rsDeltaMap : Nat := 0x47
def rsSource : Nat := 0x48
def rsProblem : Nat := 0x49
def rsFRun : Nat := 0x4A
def rsFlightStore : Nat := 0x4B

/- Header (Table 7.3). -/

def flightHeaderBad (h : Bytes) : Option Nat :=
  lowestBad
    [(0, u16 h 0 == 3), (2, bits (u16 h 2) 2 14 == 0), (4, inRange (u8 h 4) 1 16), (5, decide (u8 h 5 ≤ 96)),
     (6, u16 h 6 == 0), (0xC, u32 h 0xC == 0), (0x18, u8 h 5 != 0 || u64 h 0x18 == 0), (0x20, (nonzeroIn h 0x20 32).isNone)]

/- Steps (Table 7.4). -/

/-- A gallery range: hall, first gallery, count, reserved byte. -/
def rangeOf (b : Bytes) : Nat × Nat × Nat := (u8 b 0, u8 b 1, u8 b 2)

def rangeOk (b : Bytes) : Bool :=
  decide (u8 b 0 < 16) && inRange (u8 b 2) 1 20 && decide (u8 b 1 + u8 b 2 ≤ 20) && u8 b 3 == 0

/-- The galleries of ranges. -/
def rangeGalleries (l : List (Nat × Nat × Nat)) : List (Nat × Nat) :=
  (l.flatMap (fun r => (List.range r.2.2).map (fun i => (r.1, r.2.1 + i)))).eraseDups

def stepGalleries (s : FStep) : List (Nat × Nat) := rangeGalleries s.ranges

/-- Every gallery of the steps of a context's flights. -/
def flightGalleries (x : Ctx) : List (Nat × Nat) := x.flights.flatMap (fun f => f.2.steps.flatMap stepGalleries)

/-- Tags that the chain sources of built flights hold. -/
def tagsInUse (d : Dev) : List Nat :=
  d.ctxs.flatMap (fun p => p.2.flights.flatMap (fun f => f.2.steps.filterMap (fun s =>
    s.source.bind (fun r => if r.chain then some r.tag else none))))

/-- The form of a source record (Table 7.9). -/
def sourceOk (r : Bytes) (tags : List Nat) : Bool :=
  let chain := bit (u16 r 0) 0
  bits (u16 r 0) 1 15 == 0 && u32 r 0x14 == 0 && (nonzeroIn r 0x28 24).isNone &&
    u32 r 0x10 % 64 == 0 && inRange (u32 r 0x10) 64 65536 &&
    (if chain then !tags.contains (u16 r 2)
     else isPow2 (u32 r 4) && inRange (u32 r 4) 16 1048576 && u64 r 8 % 64 == 0)

def sourceOf (r : Bytes) : FSource :=
  { chain := bit (u16 r 0) 0, tag := u16 r 2, slots := u32 r 4, ring := u64 r 8, slotBytes := u32 r 0x10,
    tail := u64 r 0x18, head := u64 r 0x20 }

/-- A source record is read and checked; its addresses keep R11. -/
def readSource (e : OpEnv) (a i : Nat) (tags : List Nat) : Act FSource := do
  let r ← rd e a 64
  requireFmt (sourceOk r tags) i rsSource
  if bit (u16 r 0) 0 then pure ()
  else do
    checkAddr (u64 r 8)
    checkAddr (u64 r 0x18)
    checkAddr (u64 r 0x20)
  pure (sourceOf r)

/-- The first reason for which a step's own fields fail. -/
def stepBad (b : Bytes) : Option Nat :=
  let k := u8 b 0
  let comp := k == fkCompute
  if 2 < k then some rsStepKind
  else if !inRange (u8 b 1) 1 64 then some rsStepRange
  else if (if comp then !inRange (u16 b 2) 1 1024 else u16 b 2 != 0) then some rsBody
  else if 1024 < u16 b 4 ∨ (!comp && u16 b 4 != 0) = true then some rsBinding
  else if u16 b 6 ≠ 0 ∨ (nonzeroIn b 0x2C 20).isSome = true then some rsStepKind
  else if k ≠ fkIngest ∧ u64 b 0x20 ≠ 0 then some rsSource
  else none

/-- No other context has a step's galleries (R334). -/
def checkExclusive (e : OpEnv) (steps : List FStep) : Act Unit := do
  let d ← get
  match sharedGallery d e.ctx (steps.flatMap stepGalleries) with
  | some (h, g, o) => failWith stBusy (detailBusyPlace h g (some o))
  | none => pure ()

/-- The placement of a step's galleries (R169, R173). `taken` holds the galleries of other steps. -/
def checkGalleries (x : Ctx) (i : Nat) (gs taken : List (Nat × Nat)) : Act Unit := do
  requireFmt (gs.all (fun g => !taken.contains g)) i rsStepRange
  require (gs.all (fun g => usesGallery x g.1 g.2)) stBadContext (itemReason i rsStepRange)

/-- The steps of a flight, without their bodies. -/
def readSteps (e : OpEnv) (x : Ctx) : Nat → List Bytes → List FStep → Act (List FStep)
  | _, [], l => pure l
  | i, b :: t, l => do
    match stepBad b with
    | some r => badFormat i r
    | none => pure ()
    let kind := u8 b 0
    requireFmt (kind != fkAnneal || l.all (fun s => s.kind != fkAnneal)) i rsStepKind
    requireFmt (kind != fkIngest || decide ((l.filter (fun s => s.kind == fkIngest)).length < 4)) i rsStepKind
    let raw ← rd e (u64 b 8) (4 * u8 b 1)
    let rs := chunks 4 (u8 b 1) raw
    requireFmt (rs.all rangeOk) i rsStepRange
    let ranges := rs.map rangeOf
    checkGalleries x i (rangeGalleries ranges) (flightGalleries x ++ l.flatMap stepGalleries)
    let d ← get
    let tags := tagsInUse d ++ l.filterMap (fun s => s.source.bind (fun r => if r.chain then some r.tag else none))
    let src ← if kind = fkIngest then (readSource e (u64 b 0x20) i tags).map some else pure none
    readSteps e x (i + 1) t
      (l ++ [{ kind := kind, ranges := ranges, body := [], bindings := [], source := src, tag := u32 b 0x28 }])

/- Streams (Tables 7.5, 7.6). -/

def kindOfStep (l : List FStep) (i : Nat) : Option Nat := (l[i]?).map (fun s => s.kind)

/-- Table 7.2: producer and consumer kinds of a stream kind. -/
def streamFits (k p c : Nat) : Bool :=
  match k with
  | 0 => p == fkCompute && c == fkCompute
  | 1 => p == fkIngest && c == fkCompute
  | 2 => p == fkCompute && c == fkAnneal
  | 3 => p == fkCompute && c == fkAnneal
  | 4 => p == fkAnneal && c == fkCompute
  | _ => false

/-- The kind area of a stream (Table 7.6). -/
def kindAreaOk (x : Ctx) (b : Bytes) (before : List FStream) : Bool :=
  match u8 b 0 with
  | 2 => inRange (u32 b 0x28) 1 1048576 && bits (u32 b 0x2C) 1 2 != 3 && bits (u32 b 0x2C) 7 25 == 0 &&
      (nonzeroIn b 0x30 16).isNone
  | 3 => inRange (u8 b 0x22) 1 64 && bits (u8 b 0x23) 1 7 == 0 && (nonzeroIn b 0x24 28).isNone &&
      (match x.problem with | some p => decide (u16 b 0x20 < p.blocks.length) | none => false) &&
      before.all (fun s => s.kind != skCluster || s.block != u16 b 0x20)
  | 4 => inRange (u16 b 0x20) 1 65535 && bits (u16 b 0x22) 0 2 != 3 && bits (u16 b 0x22) 2 14 == 0 &&
      inRange (u16 b 0x24) 1 16 && u16 b 0x26 == 0 && (nonzeroIn b 0x30 16).isNone
  | _ => (nonzeroIn b 0x20 32).isNone

/-- A stream's own fields. -/
def streamOk (x : Ctx) (steps : List FStep) (b : Bytes) (before : List FStream) : Bool :=
  let k := u8 b 0
  let prod := bits (u8 b 1) 0 4
  let cons := bits (u8 b 1) 4 4
  let home := bits (u8 b 8) 0 2
  (match kindOfStep steps prod, kindOfStep steps cons with
   | some p, some c => streamFits k p c
   | _, _ => false) &&
    inRange (u8 b 2) 2 64 && (if k = 0 ∨ k = 3 then decide (u8 b 3 < u8 b 2) else u8 b 3 == 0) &&
    u32 b 4 % 64 == 0 && inRange (u32 b 4) 64 16777216 && decide (home < 3) && bits (u8 b 8) 2 6 == 0 &&
    (home == 2 || decide (u8 b 9 < 16)) &&
    (home != 0 || (match steps[cons]? with
      | some s => decide (u16 b 0xA < 640) && (stepGalleries s).contains (u8 b 9, u16 b 0xA / 32)
      | none => false)) &&
    u32 b 0xC == 0 && u64 b 0x10 % 64 == 0 && u64 b 0x18 == 0 && kindAreaOk x b before

/-- A stream as its descriptor gives it, with its delta map and its spin ranges. -/
def streamOf (b : Bytes) (map' ranges : List (Nat × Nat)) : FStream :=
  { kind := u8 b 0, producer := bits (u8 b 1) 0 4, consumer := bits (u8 b 1) 4 4, depth := u8 b 2, prime := u8 b 3,
    slotBytes := u32 b 4, home := bits (u8 b 8) 0 2, hall := u8 b 9, tread := u16 b 0xA, offset := u64 b 0x10, map := map',
    mode := ofBool (bit (u32 b 0x2C) 0), format := bits (u32 b 0x2C) 1 2, lag := bits (u32 b 0x2C) 3 4,
    block := u16 b 0x20, countMax := u8 b 0x22, stamp := bit (u8 b 0x23) 0, tapEvery := u16 b 0x20,
    elem := bits (u16 b 0x22) 0 2, ranges := ranges }

/-- The spin ranges of a STATE stream lie in the loaded problem. -/
def spinRangesOk (x : Ctx) (l : List (Nat × Nat)) : Bool :=
  match x.problem with
  | some p => l.all (fun r => decide (r.1 + r.2 ≤ spinCount p.blocks))
  | none => false

def pairs32 (n : Nat) (raw : Bytes) : List (Nat × Nat) := (chunks 8 n raw).map (fun b => (u32 b 0, u32 b 4))

def readStreams (e : OpEnv) (x : Ctx) (steps : List FStep) : Nat → List Bytes → List FStream → Act (List FStream)
  | _, [], l => pure l
  | i, b :: t, l => do
    requireFmt (streamOk x steps b l) i rsStream
    let map' ← if u8 b 0 = skDelta then do
        let raw ← rd e (u64 b 0x20) (8 * u32 b 0x28)
        pure (pairs32 (u32 b 0x28) raw)
      else pure []
    let ranges ← if u8 b 0 = skState then do
        let raw ← rd e (u64 b 0x28) (8 * u16 b 0x24)
        pure (pairs32 (u16 b 0x24) raw)
      else pure []
    requireFmt (u8 b 0 != skState || spinRangesOk x ranges) i rsStream
    readStreams e x steps (i + 1) t (l ++ [streamOf b map' ranges])

/-- Streams of one kind in one direction of a step. -/
def streamCount (l : List FStream) (k i : Nat) (out : Bool) : Nat :=
  (l.filter (fun s => s.kind == k && (if out then s.producer else s.consumer) == i)).length

/-- Table 7.1: the stream counts of a step. -/
def stepCountsOk (l : List FStream) (s : FStep) (i : Nat) : Bool :=
  let ins := (l.filter (fun y => y.consumer == i)).length
  let outs := (l.filter (fun y => y.producer == i)).length
  if s.kind = fkIngest then ins == 0 && outs == 1
  else if s.kind = fkCompute then inRange ins 1 8 && inRange outs 1 8
  else decide (streamCount l skDelta i false ≤ 4) && decide (streamCount l skCluster i false ≤ 64) && decide (outs ≤ 4)

/- Bodies and bindings (Tables 7.7, 7.8). -/

def bodyForm (b : Bytes) : Bool :=
  let w := u64 b 0
  bits w 5 3 == 0 &&
    (match bits w 0 4 with
     | 0 => bodyOpcode (bits w 8 8) && bits w 48 16 == 0
     | 1 => bits w 8 8 == 0 && inRange (bits w 32 16) 1 65535 && bits w 48 16 == 0 && u64 b 8 == 0
     | _ => false)

def bodyEntryOf (b : Bytes) (desc out : Bytes) : BodyEntry :=
  let w := u64 b 0
  { loop := bits w 0 4 == 1, overlap := bit w 4, opcode := bits w 8 8, back := bits w 16 16, count := bits w 32 16,
    desc := desc, out := out }

/-- A body entry with its op's descriptor and output record. -/
def readBodyEntry (e : OpEnv) (b : Bytes) : Act BodyEntry := do
  let w := u64 b 0
  if bits w 0 4 = 1 then pure (bodyEntryOf b [] [])
  else do
    let op := bits w 8 8
    let desc ← rd e (u64 b 8) (bodyDescBytes op)
    match bodyOutAddr op desc with
    | some a => do
      let out ← rd e a 64
      pure (bodyEntryOf b desc out)
    | none => pure (bodyEntryOf b desc [])

/-- A binding's fields: an OP entry's address field, and a stream of the step in its direction. -/
def bindingOk (step : Nat) (body : List BodyEntry) (streams : List FStream) (b : Bytes) : Bool :=
  let w := u64 b 0
  let toOut := bit w 21
  bits w 30 2 == 0 && bits (u64 b 8) 32 32 == 0 &&
    (match body[bits w 0 16]? with
     | some y => !y.loop && (!toOut || !y.out.isEmpty) && (bodyAddrFields y.opcode toOut).contains (8 * bits w 16 5)
     | none => false) &&
    (match streams[bits w 23 7]? with
     | some s => if bit w 22 then s.producer == step else s.consumer == step
     | none => false)

def bindingOf (b : Bytes) : Binding :=
  let w := u64 b 0
  { entry := bits w 0 16, offset := 8 * bits w 16 5, toOut := bit w 21, output := bit w 22, stream := bits w 23 7,
    add := bits w 32 32, stride := bits (u64 b 8) 0 32 }

/-- A body op's tread range lies in its step's galleries. -/
def inGalleries (gs : List (Nat × Nat)) (op : Nat) (x : Bytes) : Bool :=
  match bodyRange op x with
  | none => true
  | some (h, t, n) =>
    n == 0 || (List.range ((t + n - 1) / 32 + 1 - t / 32)).all (fun k => gs.contains (h, t / 32 + k))

/-- The address of slot 0 of a stream. -/
def slotZero (streams : List FStream) (i : Nat) : Nat :=
  match streams[i]? with
  | some s => slotAddr s 0
  | none => 0

/-- The reason in a detail word; an address, or a word that is not stated, has none. -/
def reasonOf (st detail : Nat) : Nat :=
  if st = stBadFormat ∨ st = stBadContext ∨ st = stDoesNotFit then bits (if detail = anyDetail then 0 else detail) 48 8 else 0

/-- A body op fails the build with its own status and reason, and ITEM names step and entry (R172). -/
def buildOpFail (i k : Nat) (s : Stop) : Act Unit :=
  match s with
  | .fail st detail => failWith st (itemReason (i * 65536 + k) (reasonOf st detail))
  | s => throw s

/-- The body ops of a step are checked with every binding resolved to slot 0. -/
def checkBody (e : OpEnv) (i : Nat) (s : FStep) (streams : List FStream) : Act Unit :=
  s.body.zipIdx.forM (fun y =>
    if y.1.loop then pure ()
    else do
      let (desc, out) := bindEntry s.bindings y.2 0 (fun _ => slotZero streams) y.1.desc y.1.out
      tryCatch (bodyOpCheck { e with off := 0, hostOk := true } y.1.opcode desc out) (buildOpFail i y.2)
      requireFmt (inGalleries (stepGalleries s) y.1.opcode desc) (i * 65536 + y.2) rsStepRange)

/-- The bodies and bindings of the steps. -/
def readBodies (e : OpEnv) (streams : List FStream) : Nat → List (FStep × Bytes) → Act (List FStep)
  | _, [] => pure []
  | i, (s, b) :: t => do
    let s ← if s.kind = fkCompute then do
        let raw ← rd e (u64 b 0x10) (16 * u16 b 2)
        let es := chunks 16 (u16 b 2) raw
        requireFmt (es.all bodyForm) i rsBody
        let body ← es.mapM (readBodyEntry e)
        requireFmt (loopsOk body) i rsBody
        let braw ← rd e (u64 b 0x18) (16 * u16 b 4)
        let bs := chunks 16 (u16 b 4) braw
        requireFmt (bs.all (bindingOk i body streams)) i rsBinding
        let s := { s with body := body, bindings := bs.map bindingOf }
        checkBody e i s streams
        pure s
      else pure s
    let rest ← readBodies e streams (i + 1) t
    pure (s :: rest)

/- Problem and delta maps (R169, R173). -/

def sameGalleries (a b : List (Nat × Nat)) : Bool := a.all (fun g => b.contains g) && b.all (fun g => a.contains g)

/-- PROBLEM: the loaded problem has the identifier and its spans lie on the ANNEAL step's galleries. -/
def problemFits (x : Ctx) (id : Nat) (s : FStep) : Bool :=
  match x.problem with
  | some p => p.id == id && sameGalleries (problemGalleries p) (stepGalleries s)
  | none => false

def mapFits (x : Ctx) (m : List (Nat × Nat)) : Bool :=
  match x.problem with
  | some p => m.all (fun y => (targetOf p y.1 y.2).isSome)
  | none => false

/-- The step and stream at which the problem no longer matches a flight: PROBLEM before DELTA_MAP. -/
def checkProblem (x : Ctx) (id : Nat) (steps : List FStep) (streams : List FStream) : Act Unit :=
  match steps.findIdx? (fun s => s.kind == fkAnneal) with
  | none => pure ()
  | some i => do
    requireFmt (match steps[i]? with | some s => problemFits x id s | none => false) i rsProblem
    match streams.findIdx? (fun s => s.kind == skDelta && !mapFits x s.map) with
    | some k => badFormat k rsDeltaMap
    | none => pure ()

/- Stream buffers (R174). -/

def bufferBytes (s : FStream) : Nat := s.depth * s.slotBytes

/-- Bytes that two ranges share. -/
def sharedBytes (a n b m : Nat) : Nat := min (a + n) (b + m) - max a b

/-- Byte ranges that a buffer's home already holds for the context: problem storage and buffers. -/
def homeUsed (x : Ctx) (s : FStream) (before : List FStream) : List ByteRange :=
  let mine := (before.filter (fun o => o.home == s.home && o.hall == s.hall && (s.home == 1 || o.tread == s.tread))).map
    (fun o => ({ first := o.offset, bytes := bufferBytes o } : ByteRange))
  let blocks : List ByteRange :=
    match x.problem with
    | none => []
    | some p => (p.blocks.filter (fun b => b.hall == s.hall)).flatMap (fun b =>
        if s.home = 1 then b.shared else (b.scratch.filter (fun t => t.1 == s.tread)).flatMap (fun t => t.2))
  bufferRanges x s.home s.hall s.tread ++ mine ++ blocks

/-- The bytes of the home that the context may use: first and count. -/
def homeRange (x : Ctx) (s : FStream) : Nat × Nat :=
  if s.home = 0 then (0, Config.scratchBytes)
  else
    match placeOfHall x s.hall with
    | some p => (65536 * p.sharedFirst, 65536 * p.sharedCount)
    | none => (0, 0)

/-- Bytes of a buffer that are not free for it. -/
def bufferMissing (x : Ctx) (s : FStream) (before : List FStream) : Nat :=
  let n := bufferBytes s
  let (f, k) := homeRange x s
  (n - sharedBytes s.offset n f k) + (homeUsed x s before).foldl (fun m r => m + sharedBytes s.offset n r.first r.bytes) 0

def checkBuffers (x : Ctx) : List FStream → List FStream → Act Unit
  | _, [] => pure ()
  | before, s :: t => do
    if s.home = 2 then do
      checkAddr s.offset
      checkSrc s.offset (bufferBytes s)
      require (decide (s.offset < 0x4000000000)) stBadAddress (detailDevAddr s.offset)
    else
      require (bufferMissing x s before == 0) stDoesNotFit (fitDetail (bufferMissing x s before) 0 rsBuffer s.hall)
    checkBuffers x (before ++ [s]) t

/- The flight store (R175). -/

def flightBytes (steps : List FStep) (streams : List FStream) : Nat :=
  let sum (l : List Nat) : Nat := l.foldl (· + ·) 0
  sum (streams.map (fun s => 64 + 4 * s.map.length + 8 * s.ranges.length)) +
  sum (steps.map (fun s => 64 + 64 * ofBool s.source.isSome + 4 * s.ranges.length + 16 * (s.body.length + s.bindings.length) +
    sum (s.body.map (fun b => b.desc.length + b.out.length)))) + 4096

def storePages : Nat := 1792

def pagesUsed (d : Dev) : Nat := (d.ctxs.flatMap (fun p => p.2.flights.map (fun f => f.2.pages))).foldl (· + ·) 0

/-- FLIGHT_BUILD (R171 to R175): BUSY is looked for after every check of the expert level (R14) and every table. -/
def bodyFlightBuild : Body := fun env r => do
  let h ← descriptor env r 64
  let x ← needCtx env
  match flightHeaderBad h with
  | some o => badFormat o rsFHeader
  | none => pure ()
  let id := bits (u16 h 2) 0 2
  let raw ← rd env (u64 h 0x10) (64 * u8 h 4)
  let sds := chunks 64 (u8 h 4) raw
  let steps ← readSteps env x 0 sds []
  let traw ← rd env (u64 h 0x18) (64 * u8 h 5)
  let streams ← readStreams env x steps 0 (chunks 64 (u8 h 5) traw) []
  match (steps.zipIdx.find? (fun s => !stepCountsOk streams s.1 s.2)) with
  | some s => badFormat s.2 rsStream
  | none => pure ()
  let steps ← readBodies env streams 0 (steps.zip sds)
  checkProblem x (u32 h 8) steps streams
  require (flightOf x id).isNone stBusy anyDetail
  checkExclusive env steps
  checkBuffers x [] streams
  let d ← get
  let pages := ceilDiv (flightBytes steps streams) 4096
  let free := storePages - pagesUsed d
  require (decide (pages ≤ free)) stDoesNotFit (fitDetail ((pages - free) * 4096) 0 rsFlightStore 0)
  change (modCtx env.ctx (fun x =>
    { x with flights := tabSet id { problemId := u32 h 8, pages := pages, steps := steps, streams := streams } x.flights }))
  doneOk anyDetail

/-- FLIGHT_TEAR (R190). The manual gives its descriptor no layout: VERSION and FLIGHT_ID stand as in FLIGHT_RUN's. -/
def bodyFlightTear : Body := fun env r => do
  let h ← descriptor env r 64
  let x ← needCtx env
  requireFmt (u16 h 0 == 3) 0 rsFHeader
  let id := bits (u16 h 2) 0 2
  match flightOf x id with
  | none => failWith stBadContext anyDetail
  | some y => do
    require y.run.isNone stBusy anyDetail
    change (modCtx env.ctx (fun x => { x with flights := tabDel id x.flights }))
    doneOk anyDetail

/-- FLIGHT_BUILD (R172). -/
def execFlightBuild (q : QRef) (s : State) : Host.Outcome State Fault Refusal := opRow q 0x80 bodyFlightBuild s

/-- FLIGHT_TEAR (R190). -/
def execFlightTear (q : QRef) (s : State) : Host.Outcome State Fault Refusal := opRow q 0x82 bodyFlightTear s

end Sys2Proof.Machine
end

