-- ==== Sys2Proof/Machine/RunStart.lean ====
section
/-! DEFINITION. SET_SCHEDULE, and the checks and start of an ANNEAL or STAND (R74, R98, R101 to R107, R112, R119, R192,
R194, R197, R206, R213). -/

namespace Sys2Proof.Machine

/- Schedules. -/

/-- Reason codes of Tables 4.4, 7.15 and 8.3. -/
def rsSchedule : Nat := 0x21
def rsTrace : Nat := 0x23
def rsStart : Nat := 0x24
def rsLoop : Nat := 0x25
def rsPace : Nat := 0x26
def rsDecision : Nat := 0x27
def rsExport : Nat := 0x53
def rsWork : Nat := 0x54
def rsHello : Nat := 0x56
def rsPart : Nat := 0x57
def rsMirrored : Nat := 0x58

def noItem : Nat := 0xFFFFFFFF

/-- Table 4.2. -/
def entryOf (b : Bytes) : SchedEntry :=
  let w := u32 b 0
  { tfix := bits w 0 24, heatBath := bit w 24, tournament := bit w 25, racing := bit w 26, sweeps := u32 b 4,
    clusters := bits (u16 b 8) 0 9, exchange := u16 b 10 }

def schedEntryOk (b : Bytes) : Bool :=
  let e := entryOf b
  bits (u32 b 0) 27 5 == 0 && decide (1 ≤ e.sweeps) && decide (e.clusters ≤ 256) && bits (u16 b 8) 9 7 == 0 && u32 b 12 == 0

def setScheduleBad (h : Bytes) : Option Nat :=
  ([(0x00, u16 h 0 == 3), (0x02, decide (u8 h 2 ≤ 3)), (0x03, u8 h 3 == 0),
    (0x04, decide (1 ≤ u16 h 4) && decide (u16 h 4 ≤ 4096)), (0x06, u16 h 6 == 0)].find? (fun p => !p.2)).map (fun p => p.1)
  |>.orElse (fun _ => nonzeroIn h 0x10 48)

def schedulePages (k : Nat) : Nat := ceilDiv (16 * k) 4096

/-- Pages that schedules hold, but for one identifier of one context. -/
def pagesHeld (d : Dev) (c id : Nat) : Nat :=
  (d.ctxs.map (fun p => ((p.2.schedules.filter (fun s => !(p.1 == c && s.1 == id))).map
    (fun s => schedulePages s.2.length)).foldl (· + ·) 0)).foldl (· + ·) 0

def scheduleStorePages : Nat := 1024

/-- SET_SCHEDULE (R101, R102). -/
def bodySetSchedule : Body := fun env r => do
  let x ← needCtx env
  let h ← descriptor env r 64
  match setScheduleBad h with
  | some o => badFormat o rsRunHeader
  | none => pure ()
  let id := u8 h 2
  let n := u16 h 4
  let raw ← rd env (u64 h 8) (16 * n)
  let recs := chunks 16 n raw
  match recs.findIdx? (fun b => !schedEntryOk b) with
  | some i => badFormat i rsSchedule
  | none => pure ()
  require (!(match x.run with | some g => g.desc.schedule == id | none => false)) stBusy anyDetail
  let d ← get
  let free := scheduleStorePages - pagesHeld d env.ctx id
  require (decide (schedulePages n ≤ free)) stDoesNotFit ((schedulePages n - free) * 4096)
  change (modCtx env.ctx (fun x => { x with schedules := tabSet id (recs.map entryOf) x.schedules }))
  doneOk anyDetail

/-- SET_SCHEDULE. -/
def execSetSchedule (q : QRef) (s : State) : Host.Outcome State Fault Refusal := opRow q 0x42 bodySetSchedule s

/- The run descriptor (Tables 4.3 and 7.15). -/

def dTrace (h : Bytes) : Bool := bit (u16 h 2) 0

def runDescOf (stand : Bool) (h : Bytes) (seed : Nat) (drawn : Bool) : RunDesc :=
  { stand := stand, trace := dTrace h, traceSystem := bit (u16 h 2) 1, stopAtTarget := bit (u16 h 2) 2,
    schedule := u8 h 4, part := bits (u16 h 6) 0 11, seed := seed, drawn := drawn, epochSweeps := u16 h 0x10,
    traceEvery := u32 h 0x14, ringAddr := u64 h 0x18, ringEntries := u32 h 0x20, traceBlock := u16 h 0x24,
    traceReplicas := u64 h 0x28, countAddr := u64 h 0x30, target := toInt 64 (u64 h 0x48),
    loopEntry := bits (u16 h 0x50) 0 12, pace := stand && bit (u16 h 0x50) 12, emit := stand && bit (u16 h 0x50) 13,
    stopAddr := if stand then u64 h 0x58 else 0, stopValue := u64 h 0x60 }

/-- The first failing field of the run descriptor. -/
def runHeaderBad (stand map : Bool) (h : Bytes) : Option Nat :=
  ([(0x00, u16 h 0 == 3), (0x02, u16 h 2 / 8 == 0), (0x04, decide (u8 h 4 ≤ 3)), (0x05, u8 h 5 == 0),
    (0x06, bits (u16 h 6) 11 5 == 0 && (map || u16 h 6 == 0)), (0x10, u16 h 0x10 != 0), (0x12, u16 h 0x12 == 0),
    (0x14, !dTrace h || u32 h 0x14 != 0), (0x26, !dTrace h || u16 h 0x26 == 0)].find? (fun p => !p.2)).map (fun p => p.1)
  |>.orElse (fun _ =>
    if stand then
      (([(0x50, bits (u16 h 0x50) 14 2 == 0), (0x52, (nonzeroIn h 0x52 6).isNone), (0x58, u64 h 0x58 % 8 == 0)].find? (fun p => !p.2)).map (fun p => p.1)).orElse
        (fun _ => nonzeroIn h 0x70 16)
    else nonzeroIn h 0x50 48)

/-- R74 for one entry against the blocks. -/
def modeOk (p : Problem) (e : SchedEntry) : Bool :=
  !e.tournament || !(e.heatBath || e.racing || p.blocks.any (fun x => !x.dense) || !p.groups.isEmpty)

/-- The ring and count address of a trace (Table 4.4). -/
def traceBad (p : Problem) (h : Bytes) : Option Nat :=
  let n := u32 h 0x20
  if !dTrace h then none
  else if u64 h 0x18 % 64 ≠ 0 || !(decide (64 ≤ n) && decide (n ≤ 16777216) && isPow2 n) then some 0
  else if u16 h 0x24 ≠ 0xFFFF && decide (p.blocks.length ≤ u16 h 0x24) then some 1
  else if u64 h 0x30 % 8 ≠ 0 then some 2
  else none

/-- The ladders (R103). -/
def readLadders (env : OpEnv) (p : Problem) (addr : Nat) : Act (List (List Nat)) :=
  if addr = 0 then pure (p.blocks.map (fun _ => List.replicate 64 4096))
  else do
    let bs ← rd env addr (128 * p.blocks.length)
    pure ((chunks 128 p.blocks.length bs).map (fun r => (List.range 64).map (fun k => u16 r (2 * k))))

/- Decision channels (Table 7.16). -/

def decPayload (form1 : Bool) (rs : List (Nat × Nat)) : Nat :=
  let n := rs.foldl (fun n r => n + r.2) 0
  if form1 then n else ceilDiv n 8

/-- The first failing field of a decision channel record. Of bits that no row of Table 7.16 lists, those beside a field in
0x2E and 0x3A must be zero and 0x3E may hold anything, DESIGN CHOICE (log 74). -/
def decisionBad (p : Problem) (r : Bytes) (rs : List (Nat × Nat)) : Option Nat :=
  let n := u32 r 8
  let k := u32 r 0xC
  let form1 := bit (u16 r 0x2C) 1
  let chain := bit (u16 r 0x2C) 2
  let limit := if form1 then p.groups.length else spinCount p.blocks
  ([(0x00, u64 r 0 % 64 == 0), (0x08, decide (16 ≤ n) && decide (n ≤ 65536) && isPow2 n),
    (0x0C, k % 64 == 0 && decide (128 ≤ k) && decide (k ≤ if chain then 65472 else 65536)),
    (0x10, u64 r 0x10 % 8 == 0), (0x2C, u16 r 0x2C / 8 == 0), (0x2E, bits (u16 r 0x2E) 11 4 == 0),
    (0x30, rs.all (fun x => decide (x.1 + x.2 ≤ limit))),
    (0x38, decide (1 ≤ u16 r 0x38) && decide (u16 r 0x38 ≤ 64)), (0x3A, bits (u16 r 0x3A) 11 5 == 0),
    (0x0C, decide (decPayload form1 rs + 64 ≤ k))].find? (fun p => !p.2)).map (fun p => p.1)

/-- A decision channel of a STAND: its record and map ranges. -/
def readDecision (env : OpEnv) (p : Problem) (addr : Nat) : Act Decision := do
  let r ← rd env addr 64
  let n := if 1 ≤ u16 r 0x38 ∧ u16 r 0x38 ≤ 64 then u16 r 0x38 else 0
  let raw ← rd env (u64 r 0x30) (8 * n)
  let rs := (chunks 8 n raw).map (fun b => (u32 b 0, u32 b 4))
  match decisionBad p r rs with
  | some o => badFormat o rsDecision
  | none => pure ()
  pure { channel := 0, record := r, ranges := rs }

/-- The lowest free decision channel. -/
def freeChannel (d : Dev) : Option Nat := (List.range 64).find? (fun k => !d.channels.contains k)

/- Partitioned runs (R206). -/

def frameBytes (n : Nat) : Nat := 64 * ceilDiv n 512

/-- Bytes of the frame and send stores of a map with `extra` more (R205, R206). -/
def workNeed (b : Boundary) (extra : Nat) : Nat :=
  let ps := b.peers.filter (fun p => p.boundary)
  let f := ps.foldl (fun n p => n + frameBytes p.importCount) 0
  let g := ps.foldl (fun n p => n + frameBytes p.exportCount) 0
  (2 * b.stale + 2) * (f + g) + extra + 4096

/-- S of R206. -/
def leadImageBytes (p : Problem) : Nat := p.blocks.foldl (fun n x => n + 192 + sectionBytes x.n) 0

/-- The first peer whose exports name no loaded spin. -/
def exportBad (spins : Nat) (b : Boundary) : Option Nat :=
  if b.exports.all (fun i => decide (i < spins)) then none
  else some ((b.peers.findIdx? (fun p =>
    ((b.exports.drop p.exportFirst).take p.exportCount).any (fun i => decide (spins ≤ i)))).getD noItem)

def mirroredCtx (d : Dev) (c : Nat) : Bool := d.chain.mirror.ctxs.any (fun m => m.ctx == c)

def boundaryChecks (d : Dev) (c : Nat) (p : Problem) (b : Boundary) (h : Bytes) : Act Unit := do
  requireFmt (!mirroredCtx d c) noItem rsMirrored
  requireFmt (bits (u16 h 6) 0 11 == b.part) noItem rsPart
  requireFmt (u64 h 8 != 0) 8 rsRunHeader
  match exportBad (spinCount p.blocks) b with
  | some i => badFormat i rsExport
  | none => pure ()

def workChecks (p : Problem) (b : Boundary) : Act Unit := do
  let need := workNeed b (2 * leadImageBytes p)
  let s := leadImageBytes p
  require (decide (need ≤ b.workBytes)) stDoesNotFit (min (need - b.workBytes) (2 ^ 40 - 1) + rsWork * 2 ^ 48)
  require (b.bestAddr == 0 || decide (s ≤ b.bestBytes)) stDoesNotFit (min (s - b.bestBytes) (2 ^ 40 - 1) + rsWork * 2 ^ 48)

/-- What the checks of a run give. -/
structure RunPlan where
  entries : List SchedEntry
  ladders : List (List Nat)
  image : Option (List (List (List Bool)))
  decision : Option Decision
  deriving DecidableEq, Repr

/-- The checks of ANNEAL and STAND in the order of R14 and R206: formats, then the expert level, then BUSY. `deltas` says
that the run's flight has a DELTA stream; `more` are the flight's own format checks against the schedule. -/
def runChecks (env : OpEnv) (stand deltas : Bool) (more : List SchedEntry → Act Unit) (h : Bytes) : Act RunPlan := do
  let x ← needCtx env
  match x.problem with
  | none => failWith stBadContext anyDetail
  | some p => do
    match runHeaderBad stand x.boundary.isSome h with
    | some o => badFormat o rsRunHeader
    | none => pure ()
    match tabGet? (u8 h 4) x.schedules with
    | none => badFormat noItem rsSchedule
    | some es => do
      requireFmt (stand || decide (totalSweeps es ≤ sweepLimit)) noItem rsSchedule
      match es.findIdx? (fun e => !modeOk p e) with
      | some i => badFormat i rsSchedule
      | none => pure ()
      requireFmt (!stand || decide (bits (u16 h 0x50) 0 12 < es.length)) 0x50 rsLoop
      let ladders ← readLadders env p (u64 h 0x38)
      match traceBad p h with
      | some i => badFormat i rsTrace
      | none => pure ()
      if dTrace h then do
        checkDest (u64 h 0x18) (32 * u32 h 0x20)
        checkDest (u64 h 0x30) 8
      else pure ()
      requireFmt (!(stand && bit (u16 h 0x50) 12) || deltas) 0x50 rsPace
      requireFmt (!stand || bit (u16 h 0x50) 13 || u64 h 0x68 == 0) 0x68 rsDecision
      let dec ← if stand && bit (u16 h 0x50) 13 then (readDecision env p (u64 h 0x68)).map some else pure none
      let image ← if u64 h 0x40 = 0 then pure none else (startSpins env (u64 h 0x40) 0 p.blocks).map some
      let d ← get
      match x.boundary with
      | some b => boundaryChecks d env.ctx p b h
      | none => pure ()
      more es
      require (!(es.any (fun e => e.racing)) || expertOn d exAnneal) stPrivileged anyDetail
      require x.run.isNone stBusy anyDetail
      require (dec.isNone || (freeChannel d).isSome) stBusy anyDetail
      match x.boundary with
      | some b => workChecks p b
      | none => pure ()
      pure { entries := es, ladders := ladders, image := image, decision := dec }

/- The start (R107, R212, R213). -/

/-- T_fix(r, i) of a block (R103). -/
def rungTemp (ladders : List (List Nat)) (e : SchedEntry) (b r : Nat) : Nat :=
  ladderT e.tfix ((ladders.getD b []).getD r 4096)

def rungTemps (ladders : List (List Nat)) (e : SchedEntry) (p : Problem) : List (List Nat) :=
  p.blocks.zipIdx.map (fun y => (List.range y.1.reps.length).map (fun r => rungTemp ladders e y.2 r))

def blankEntry : SchedEntry :=
  { tfix := 0, heatBath := false, tournament := false, racing := false, sweeps := 1, clusters := 0, exchange := 0 }

def runEntry (g : Run) : SchedEntry := g.entries.getD g.entry blankEntry

/-- The state a run starts from: its image or the present one; bests and counters restart. -/
def beginProblem (img : Option (List (List (List Bool)))) (temps : List (List Nat)) (p : Problem) : Problem :=
  let p := match img with
    | some i => putSpins i p
    | none => p
  let p := startBests p
  { p with
    sweeps := 0
    temps := temps
    blocks := p.blocks.map (fun x =>
      { x with count := {}, reps := x.reps.map (fun r => { r with accepts := 0, traceAccepts := 0, pos := 0, prop := 0, rounds := 0 }) }) }

/-- The run of a context begins (R107). -/
def beginRun (c : Nat) (d : Dev) : Dev :=
  modCtx c (fun x =>
    match x.run, x.problem with
    | some g, some p =>
      { x with problem := some (beginProblem g.image (rungTemps g.ladders (runEntry g) p) p)
               run := some { g with begun := true, image := none } }
    | _, _ => x) d

/-- The hello of a run (R213). -/
def helloOf (b : Boundary) (p : Problem) (g : Run) (peer : Peer) : HelloMsg :=
  { part := b.part, partCount := b.parts, staleness := b.stale, checkEvery := b.checkEvery,
    epochSweeps := g.desc.epochSweeps, stand := g.desc.stand, total := if g.desc.stand then 0 else totalSweeps g.entries,
    loopEntry := if g.desc.stand then g.desc.loopEntry else 0, entryCount := if g.desc.stand then g.entries.length else 0,
    seed := g.desc.seed, quantum := p.quantum, boundary := peer.boundary, parent := peer.parent, child := peer.child,
    importCount := peer.importCount, exportCount := peer.exportCount }

/-- Hellos leave for every peer-table entry. -/
def sendHellos (c : Nat) (d : Dev) : Dev :=
  match ctxOf d c with
  | some { boundary := some b, problem := some p, run := some g, .. } =>
    b.peers.foldl (fun d e => sendTo e.chain (.hello b.part (helloOf b p g e)) d) d
  | _ => d

/-- What a run does before sweep 0 (R66, R194, R212, R213). The last four act only where the run ends. -/
def firstStages (boundary pace : Bool) : List Stage :=
  (if boundary then [.hellos] else []) ++ (if pace then [.pace] else []) ++ [.updates] ++
  (if boundary then [.sendFrame, .checkpoint] else []) ++ [.march] ++ (if boundary then [.frames] else []) ++
  [.lastUpdates, .flush, .lastSnapshots, .finish]

/-- A run is set up in its context; it begins at once unless hellos are awaited. -/
def setupRun (env : OpEnv) (flight : Option Nat) (desc : RunDesc) (plan : RunPlan) (d : Dev) : Dev :=
  let ch := (freeChannel d).getD 0
  let dec := plan.decision.map (fun x => { x with channel := ch })
  let d := if dec.isSome then { d with channels := d.channels ++ [ch] } else d
  let d := modCtx env.ctx (fun x =>
    let g : Run :=
      { q := env.q, idx := env.idx, flight := flight, desc := desc, entries := plan.entries, ladders := plan.ladders,
        image := plan.image, decision := dec, todo := firstStages x.boundary.isSome desc.pace }
    { x with run := some g
             boundary := x.boundary.map (fun b => { b with run := { hellos := x.hellos } })
             hellos := if x.boundary.isSome then [] else x.hellos
             traceRings := if desc.trace then
                 x.traceRings.filter (fun r => !(r.1 == desc.ringAddr && r.2.1 == desc.ringEntries)) ++
                   [(desc.ringAddr, desc.ringEntries, 0)]
               else x.traceRings }) d
  match (ctxOf d env.ctx).bind (fun x => x.boundary) with
  | some _ => sendHellos env.ctx d
  | none => beginRun env.ctx d

end Sys2Proof.Machine
end

