-- ==== Sys2Proof/Machine/SpinSteps.lean ====
section
/-! DEFINITION. The steps of a sweep: phases, scan and tournament rounds, cluster decisions and the flip bus (R69 to
R97). -/

namespace Sys2Proof.Machine

/-- A run with its problem, when it has begun and its sweep may go on; the secondary's copy of a context holds at the points
of the mirror (R238). -/
def runOf (d : Dev) (c : Nat) : Option (Run × Problem) :=
  match ctxOf d c with
  | some { run := some g, problem := some p, .. } => if g.begun && mirrorGoes d c then some (g, p) else none
  | _ => none

def isRacing (g : Run) : Bool := (runEntry g).racing

/-- The mesh traffic of a flip: its record goes from its tread's router to the bus ingress of every other hall on the list
(R88, R272). The manual gives no byte count; the 192 bits of a slot are counted (log 67). -/
def countFlip (p : Problem) (f : Flip) (d : Dev) : Dev :=
  match p.blocks[f.block]? with
  | none => d
  | some x =>
    (f.halls.filter (· != x.hall)).foldl
      (fun d h => countFlow (.router (treadPos x.hall (spinTread x f.spin)))
        (.router (20 * (h / 4) + 10, 4 * (h % 4) + x.hall % 4)) 0 24 d) d

/-- Flips just accepted get their places in the order of the device; the others keep theirs. -/
def stampFlips (n : Nat) : List Flip → List Flip × Nat
  | [] => ([], n)
  | f :: t =>
    let m := if f.id = 0 then n + 1 else n
    let r := stampFlips m t
    ((if f.id = 0 then { f with id := n + 1 } else f) :: r.1, r.2)

/-- A run and its problem after a step of the sweep: flips just accepted leave. -/
def setRunProblem (c : Nat) (g : Run) (p : Problem) (d : Dev) : Dev :=
  let d := (g.flips.filter (fun f => f.id == 0)).foldl (fun d f => countFlip p f d) d
  let r := stampFlips d.flipSerial g.flips
  let d := { d with flipSerial := r.2 }
  modCtx c (fun x => { x with run := some { g with flips := r.1 }, problem := some p }) d

/-- Phases of the sweep in progress: a racing sweep has one (R76, R90). -/
def sweepPhases (g : Run) (p : Problem) : Nat := if isRacing g then 1 else (phasesOf p.blocks).length

def phaseAt (p : Problem) (k : Nat) : Option Phase := (phasesOf p.blocks)[k]?

/- Moves. -/

/-- The counter of an anneal decision (R84). -/
def moveCounter (g : Run) (b r k draw : Nat) : Counter :=
  { domain := 0, part := g.desc.part, block := b, replica := r, sweep := g.sweep, spin := k, draw := draw }

def moveVariate (g : Run) (b r k draw : Nat) : Nat := treadVariate g.desc.seed (moveCounter g b r k draw)

/-- ΔE of a single flip (R70). -/
def flipDelta (s : Bool) (f : Int) : Int := 2 * sgn s * f

/-- The decision of a single flip (R73). -/
def acceptFlip (g : Run) (b r k : Nat) (s : Bool) (f : Int) : Bool :=
  let e := runEntry g
  accepts e.heatBath (flipDelta s f) (rungTemp g.ladders e b r) (moveVariate g b r k 0)

/-- A group in the numbering of its block. -/
def localGroup (x : PBlock) (gr : List Nat) : List Nat := gr.map (fun i => i - x.first)

def groupOfSpin (p : Problem) (x : PBlock) (k : Nat) : Option (List Nat) := (groupOf p (x.first + k)).map (localGroup x)

def hotOf (gr : List Nat) (s : List Bool) : Nat := (gr.find? (fun k => s.getD k false)).getD (groupLowest gr)

/-- Paired proposal `n` of a group: the hot member, the candidate, and whether it is accepted; `fld` gives the fields
under the spins `s` (R70, R80). -/
def pairProposal (g : Run) (p : Problem) (x : PBlock) (b r n : Nat) (gr : List Nat) (s : List Bool) (fld : Nat → Int) :
    Nat × Nat × Bool :=
  let lowest := groupLowest gr
  let h := hotOf gr s
  let others := gr.filter (· != h)
  let c := moveVariate g b r lowest (2 * n + 1) * (gr.length - 1) / 65536
  let k := others.getD c h
  let e := runEntry g
  let dE := 2 * fld h - 2 * fld k + 4 * coupling p x h k
  (h, k, accepts e.heatBath dE (rungTemp g.ladders e b r) (moveVariate g b r lowest (2 * n)))

def sat64 (n k : Nat) : Nat := satAdd 64 n k
def sat32 (n k : Nat) : Nat := satAdd 32 n k

/-- Proposals decided and accepted are counted (R96, R115, R118). -/
def countMoves (b r proposals accepts pairs : Nat) (p : Problem) : Problem :=
  modRep b r (fun s => { s with accepts := s.accepts + accepts, traceAccepts := s.traceAccepts + accepts })
    (modCount b (fun c => { c with proposals := sat64 c.proposals proposals, accepts := sat64 c.accepts accepts
                                   pairAccepts := sat64 c.pairAccepts pairs }) p)

/-- An accepted flip on its way (R85, R88). -/
def newFlip (g : Run) (p : Problem) (x : PBlock) (b r k : Nat) (v : Bool) (move : Nat) : Flip :=
  { block := b, rep := r, spin := k, value := v, move := move, phase := g.phase % 16384, halls := flipHalls p x k }

/-- A spin has changed, or has changed back, in the present decision set (R91). -/
def toggleMoved (m : List (Nat × Nat × Nat)) (f : Flip) : List (Nat × Nat × Nat) :=
  let k := (f.block, f.rep, f.spin)
  if m.contains k then m.erase k else m ++ [k]

/-- A move is accepted: its spins take their new values together, and its flips go to the out-queues (R69, R86). -/
def takeMove (fs : List Flip) (g : Run) (p : Problem) : Run × Problem :=
  ({ g with flips := g.flips ++ fs, moved := if isRacing g then fs.foldl toggleMoved g.moved else g.moved },
   fs.foldl (fun p f => setSpin f.block f.rep f.spin f.value p) p)

/-- Entries in the flip out-queue of a tread of the run's problem (R86). -/
def queued (g : Run) (p : Problem) (h t : Nat) : Nat :=
  (g.flips.filter (fun f =>
    match p.blocks[f.block]? with
    | some x => x.hall == h && f.halls.contains h && spinTread x f.spin == t
    | none => false)).length

/-- The out-queues of the treads of spins `ks` have room for `n` more entries; else evaluation stops (R87). -/
def roomFor (g : Run) (p : Problem) (x : PBlock) (ks : List Nat) (n : Nat) : Bool :=
  ((ks.map (spinTread x)).eraseDups).all (fun t => decide (queued g p x.hall t + n ≤ 16))

/- Sparse phases (R80, R90). -/

/-- The spin takes part in the phase. -/
def inPhase (g : Run) (p : Problem) (x : PBlock) (k : Nat) : Bool :=
  isRacing g ||
    (match phaseAt p g.phase with
     | some (.sparse c t) => x.colours.getD k 0 == c && x.spinTiers.getD k 0 == t
     | _ => false)

/-- The spins of block `b` that its stored fields have seen: as its hall's treads know them, in racing as they stood at the
start of the sweep. -/
def fieldSpins (g : Run) (p : Problem) (x : PBlock) (b : Nat) : List Bool :=
  if isRacing g then g.start.getD b []
  else
    match (hallView x.hall g.flips p).blocks[b]? with
    | some y => (repAt y 0).spins
    | none => []

/-- The field that decides a paired proposal: the stored field, corrected exactly for the group's own earlier moves (R80,
R90). -/
def groupField (g : Run) (p : Problem) (x : PBlock) (b : Nat) (gr : List Nat) (k : Nat) : Int :=
  let old := fieldSpins g p x b
  let now := (repAt x 0).spins
  intAt (repAt x 0).fields k +
    sumInt (gr.map (fun m => coupling p x k m * (sgn (now.getD m false) - sgn (old.getD m false))))

/-- Paired proposal `n` of a sparse group. -/
def groupStep (g : Run) (p : Problem) (x : PBlock) (b n : Nat) (gr : List Nat) : Run × Problem :=
  let (h, k, ok) := pairProposal g p x b 0 n gr (repAt x 0).spins (groupField g p x b gr)
  let fs := if ok then [newFlip g p x b 0 h false 1, newFlip g p x b 0 k true 1] else []
  takeMove fs g (countMoves b 0 1 (ofBool ok) (ofBool ok) p)

/-- Up to `m` proposals of a group, one after another, and what is left where an out-queue is full. -/
def groupSteps (b : Nat) (gr : List Nat) : Nat → SparseEval → Run × Problem → (Run × Problem) × List SparseEval
  | 0, _, a => (a, [])
  | m + 1, e, (g, p) =>
    match p.blocks[b]? with
    | none => ((g, p), [])
    | some x =>
      if roomFor g p x gr 2 then groupSteps b gr m { e with prop := e.prop + 1 } (groupStep g p x b e.prop gr)
      else ((g, p), [e])

/-- A single flip of a sparse spin (R80). -/
def singleStep (g : Run) (p : Problem) (x : PBlock) (b k : Nat) : Run × Problem :=
  let s := (repAt x 0).spins.getD k false
  let ok := acceptFlip g b 0 k s (intAt (repAt x 0).fields k)
  takeMove (if ok then [newFlip g p x b 0 k (!s) 0] else []) g (countMoves b 0 1 (ofBool ok) 0 p)

/-- One evaluation of a sparse phase: the run and problem after it, and what is left of it. -/
def sparseStep (e : SparseEval) (g : Run) (p : Problem) : (Run × Problem) × List SparseEval :=
  match p.blocks[e.block]? with
  | none => ((g, p), [])
  | some x =>
    match groupOfSpin p x e.spin with
    | some gr => groupSteps e.block gr (gr.length - 1 - e.prop) e (g, p)
    | none => if roomFor g p x [e.spin] 1 then (singleStep g p x e.block e.spin, []) else ((g, p), [e])

/-- The evaluations that wait, as far as the out-queues have room (R87). -/
def sparseSteps (g : Run) (p : Problem) : Run × Problem :=
  let r := g.evals.foldl
    (fun (a : (Run × Problem) × List SparseEval) e =>
      let z := sparseStep e a.1.1 a.1.2
      (z.1, a.2 ++ z.2)) (({ g with evals := [] }, p), [])
  ({ r.1.1 with evals := r.2 }, r.1.2)

/-- The evaluations of a gallery in the phase: its single spins, and the groups whose lowest member it holds. -/
def galleryEvals (hall gal : Nat) (g : Run) (p : Problem) : List SparseEval :=
  p.blocks.zipIdx.flatMap (fun y =>
    if y.1.dense || y.1.hall != hall then []
    else
      ((List.range y.1.n).filter (fun k => spinTread y.1 k / 32 == gal && inPhase g p y.1 k &&
        (match groupOfSpin p y.1 k with
         | some gr => groupLowest gr == k
         | none => true))).map (fun k => { block := y.2, spin := k, prop := 0 }))

/-- A gallery evaluates its sparse spins of the phase. -/
def sparseGallery (hall gal : Nat) (g : Run) (p : Problem) : Run × Problem :=
  sparseSteps { g with evals := g.evals ++ galleryEvals hall gal g p } p

/- Dense rounds (R81, R82, R90). -/

/-- The fields that decide moves of replica `r`: the stored ones, or in racing the block's own present spins with the
others as they stood at the start of the sweep. -/
def roundField (g : Run) (p : Problem) (x : PBlock) (b r k : Nat) : Int :=
  if isRacing g then fieldIn p b x (repAt x r).spins g.start k else intAt (repAt x r).fields k

/-- Eligible spins from `pos` on, up to the first group. -/
def windowFrom (p : Problem) (x : PBlock) (pos : Nat) : List Nat :=
  let l := ((List.range x.n).drop pos).filter (fun k =>
    match groupOfSpin p x k with
    | some gr => groupLowest gr == k
    | none => true)
  (l.takeWhile (fun k => (groupOfSpin p x k).isNone)).take 64

/-- The next eligible spin that is the lowest member of a group, if it comes next. -/
def nextGroup (p : Problem) (x : PBlock) (pos : Nat) : Option (Nat × List Nat) :=
  let l := ((List.range x.n).drop pos).filterMap (fun k =>
    match groupOfSpin p x k with
    | some gr => if groupLowest gr = k then some (k, some gr) else none
    | none => some (k, none))
  match l with
  | (k, some gr) :: _ => some (k, gr)
  | _ => none

/-- No flip of a replica is on its way, and no window of it is open. -/
def repQuiet (g : Run) (b r : Nat) : Bool :=
  !(g.flips.any (fun f => f.block == b && f.rep == r)) && !(g.windows.any (fun w => w.block == b && w.rep == r))

/-- The dense block's rounds belong to the phase in progress. -/
def denseInPhase (g : Run) (p : Problem) (x : PBlock) : Bool :=
  g.inSweep && (spanGalleries x).all (fun y => g.started.contains y) &&
    (isRacing g ||
      (match phaseAt p g.phase with
       | some (.dense t) => x.tier == t
       | _ => false))

/-- Pairs of a list with a nonzero coupling: the conflicts of a racing window (R91). -/
def coupledPairs (p : Problem) (x : PBlock) (l : List Nat) : Nat :=
  (l.map (fun i => (l.filter (fun j => decide (i < j) && coupling p x i j != 0)).length)).foldl (· + ·) 0

/-- The spins of a racing window that are not yet evaluated, as far as the out-queues have room; each is decided on the
block's spins at the window's start. The last one closes the window, and its conflicts are counted (R90, R91). -/
def windowSteps (w : ScanWindow) : List Nat → List Nat → Run × Problem → Run × Problem
  | [], hits, (g, p) =>
    match p.blocks[w.block]? with
    | some x => (g, modCount w.block (fun c => { c with conflicts := sat64 c.conflicts (coupledPairs p x hits) }) p)
    | none => (g, p)
  | k :: t, hits, (g, p) =>
    match p.blocks[w.block]? with
    | none => (g, p)
    | some x =>
      if roomFor g p x [k] 1 then
        let s := w.base.getD k false
        let ok := acceptFlip g w.block w.rep k s (fieldIn p w.block x w.base g.start k)
        windowSteps w t (if ok then hits ++ [k] else hits)
          (takeMove (if ok then [newFlip g p x w.block w.rep k (!s) 0] else []) g
            (countMoves w.block w.rep 1 (ofBool ok) 0 p))
      else ({ g with windows := g.windows ++ [{ w with spins := k :: t, hits := hits }] }, p)

/-- Every racing window in progress goes on. -/
def windowsGoOn (g : Run) (p : Problem) : Run × Problem :=
  g.windows.foldl (fun a w => windowSteps w w.spins w.hits a) ({ g with windows := [] }, p)

/-- A window of single flips (R81, R90). -/
def scanWindow (g : Run) (p : Problem) (x : PBlock) (b r : Nat) (w : List Nat) : Run × Problem :=
  let s := (repAt x r).spins
  let past := w.getLast?.getD 0 + 1
  if isRacing g then
    let new : ScanWindow := { block := b, rep := r, spins := w, base := s, hits := [] }
    windowSteps new w [] (g, modRep b r (fun y => { y with pos := past }) p)
  else
    match w.findIdx? (fun k => acceptFlip g b r k (s.getD k false) (roundField g p x b r k)) with
    | some i =>
      let k := w.getD i 0
      takeMove [newFlip g p x b r k (!s.getD k false) 0] g
        (modRep b r (fun y => { y with pos := k + 1 }) (countMoves b r (i + 1) 1 0 p))
    | none => (g, modRep b r (fun y => { y with pos := past }) (countMoves b r w.length 0 0 p))

/-- One paired proposal of a group round. -/
def scanGroup (g : Run) (p : Problem) (x : PBlock) (b r k : Nat) (gr : List Nat) : Run × Problem :=
  let y := repAt x r
  let (h, j, ok) := pairProposal g p x b r y.prop gr y.spins (roundField g p x b r)
  let last := decide (gr.length ≤ y.prop + 2)
  takeMove (if ok then [newFlip g p x b r h false 1, newFlip g p x b r j true 1] else []) g
    (modRep b r (fun y => { y with pos := if last then k + 1 else y.pos, prop := if last then 0 else y.prop + 1 })
      (countMoves b r 1 (ofBool ok) (ofBool ok) p))

/-- An access to a tread of a block's span waits: its work waits too (R25, R268). -/
def spanWaits (d : Dev) (x : PBlock) : Bool :=
  (List.range x.treads).any (fun t => accessWaits d (scratchAddr x.hall (x.tread + t)))

/-- SCAN_ROUND of one replica. -/
def scanRound (c b r : Nat) (d : Dev) : Dev :=
  match runOf d c with
  | none => d
  | some (g, p) =>
    match p.blocks[b]? with
    | none => d
    | some x =>
      if x.dense && denseInPhase g p x && !(runEntry g).tournament && decide (r < x.reps.length) && repQuiet g b r &&
          !spanWaits d x then
        match nextGroup p x (repAt x r).pos with
        | some (k, gr) =>
          if roomFor g p x gr 2 then let z := scanGroup g p x b r k gr; setRunProblem c z.1 z.2 d else d
        | none =>
          match windowFrom p x (repAt x r).pos with
          | [] => setRunProblem c g (modRep b r (fun y => { y with pos := x.n }) p) d
          | w => if roomFor g p x w 1 then let z := scanWindow g p x b r w; setRunProblem c z.1 z.2 d else d
      else d

/-- SCAN_ROUND (R81). -/
def execScanRound (c : CtxId) (block : Fin 2560) (replica : Fin 64) (s : State) : Host.Outcome State Fault Refusal :=
  onDev (scanRound c.val block.val replica.val) s

/-- The key of a tournament candidate; none takes no part (R82). -/
def tourKey (g : Run) (b r t k : Nat) (dE : Int) : Option Int :=
  let T := rungTemp g.ladders (runEntry g) b r
  let l : Int := tableL (moveVariate g b r k (1024 + t))
  if T = 0 then (if 0 < dE then none else some l) else some ((T : Int) * l + 16777216 * max 0 dE)

/-- The smallest key, lowest spin first. -/
def bestKey : List (Nat × Option Int) → Option (Nat × Int)
  | [] => none
  | (k, some v) :: t =>
    match bestKey t with
    | some (j, w) => if v ≤ w then some (k, v) else some (j, w)
    | none => some (k, v)
  | (_, none) :: t => bestKey t

def tournamentRound (c b r : Nat) (d : Dev) : Dev :=
  match runOf d c with
  | none => d
  | some (g, p) =>
    match p.blocks[b]? with
    | none => d
    | some x =>
      let y := repAt x r
      if x.dense && denseInPhase g p x && (runEntry g).tournament && decide (r < x.reps.length) && repQuiet g b r &&
          decide (y.rounds < x.n) && roomFor g p x (List.range x.n) 1 && !spanWaits d x then
        let keys := (List.range x.n).map (fun k =>
          (k, tourKey g b r y.rounds k (flipDelta (y.spins.getD k false) (intAt y.fields k))))
        let win := (bestKey keys).map (fun q => q.1)
        let fl := match win with
          | some k => [newFlip g p x b r k (!y.spins.getD k false) 0]
          | none => []
        let z := takeMove fl g (modRep b r (fun y => { y with rounds := y.rounds + 1 }) (countMoves b r 1 fl.length 0 p))
        setRunProblem c z.1 z.2 d
      else d

/-- TOURNAMENT_ROUND (R82). -/
def execTournamentRound (c : CtxId) (block : Fin 2560) (replica : Fin 64) (s : State) : Host.Outcome State Fault Refusal :=
  onDev (tournamentRound c.val block.val replica.val) s

/- Phases (R77). -/

/-- A replica has ended its rounds of the sweep. -/
def repDone (g : Run) (x : PBlock) (r : Replica) : Bool :=
  if (runEntry g).tournament then decide (x.n ≤ r.rounds) else decide (x.n ≤ r.pos)

/-- The dense blocks of the phase in progress have made their rounds. -/
def densePhaseDone (g : Run) (p : Problem) : Bool :=
  p.blocks.all (fun x =>
    !x.dense || (!isRacing g && (match phaseAt p g.phase with | some (.dense t) => x.tier != t | _ => true)) ||
      x.reps.all (repDone g x))

/-- Every gallery has started the phase in progress, and every proposal of it is decided. -/
def phaseDecided (g : Run) (p : Problem) : Bool :=
  g.inSweep && (problemGalleries p).all (fun y => g.started.contains y) && densePhaseDone g p && g.evals.isEmpty &&
    g.windows.isEmpty

/-- The phase in progress has ended: every proposal is decided, every flip applied. -/
def phaseDone (g : Run) (p : Problem) : Bool := phaseDecided g p && g.flips.isEmpty

/-- Entries that wait in the trace staging (R116). -/
def stagedEntries (g : Run) : Nat := (g.staging.filter (fun t => t.entry)).length

/-- The next sweep may start: nothing of the last end is left, and the staging is not full. -/
def maySweep (g : Run) : Bool :=
  g.begun && !g.inSweep && g.todo.isEmpty && g.ending.isNone && g.stop.isNone && decide (stagedEntries g < 64)

/-- A sweep starts (R76, R84). -/
def startSweep (g : Run) (p : Problem) : Run × Problem :=
  ({ g with inSweep := true, phase := 0, started := [], start := leadSpins p, moved := [], evals := [], windows := [], flips := []
            clusters := g.clusters.map (fun k => (k.1, 0, k.2.2)) },
   { p with
     temps := rungTemps g.ladders (runEntry g) p
     blocks := p.blocks.map (fun x => { x with reps := x.reps.map (fun r => { r with pos := 0, prop := 0, rounds := 0 }) }) })

/-- Treads of a gallery are held: an access to a block's part of it waits (R25, R268). -/
def galleryWaits (d : Dev) (p : Problem) (hall gal : Nat) : Bool :=
  p.blocks.any (fun x => x.hall == hall && (List.range x.treads).any (fun t =>
    (x.tread + t) / 32 == gal && accessWaits d (scratchAddr hall (x.tread + t))))

/-- A gallery of the problem starts its next phase. -/
def phaseStart (c hall gal : Nat) (d : Dev) : Dev :=
  match runOf d c with
  | none => d
  | some (g, p) =>
    if !(problemGalleries p).contains (hall, gal) || galleryWaits d p hall gal then d
    else
      let go (g : Run) (p : Problem) : Dev :=
        let g := { g with started := g.started ++ [(hall, gal)] }
        let z := sparseGallery hall gal g p
        setRunProblem c z.1 z.2 d
      if maySweep g && mirrorGoes d c && !epochHeld d c g then let z := startSweep g p; go z.1 z.2
      else if g.inSweep && !g.started.contains (hall, gal) then go g p
      else if phaseDone g p && decide (g.phase + 1 < sweepPhases g p) then
        go { g with phase := g.phase + 1, started := [] } p
      else d

/-- PHASE_START (R77, R80). -/
def execPhaseStart (c : CtxId) (h : Hall) (g : Gallery) (s : State) : Host.Outcome State Fault Refusal :=
  onDev (phaseStart c.val h.val g.val) s

/- The cluster stage (R92 to R95). -/

/-- The CLUSTER stream of a block in the run's flight: flight, stream number, stream. -/
def clusterStream (d : Dev) (c b : Nat) : Option (Nat × FStream) :=
  match ctxOf d c with
  | some x =>
    match x.run.bind (fun g => g.flight) with
    | some f => ((flightOf x f).bind (fun y => y.streams.find? (fun s => s.kind == skCluster && s.block == b))).map (fun s => (f, s))
    | none => none
  | none => none

/-- The epoch of the sweep in progress. -/
def epochOf (g : Run) : Nat := g.sweep / g.desc.epochSweeps

/-- Proposals that a block has decided in the sweep and in the epoch. -/
def clustersDone (g : Run) (b : Nat) : Nat × Nat :=
  match g.clusters.find? (fun k => k.1 == b) with
  | some k => k.2
  | none => (0, 0)

/-- Proposals that a block decides in this sweep: none without a stream, or in the epoch of a null record. -/
def clusterQuota (d : Dev) (c : Nat) (g : Run) (b : Nat) : Nat :=
  match clusterStream d c b with
  | some (_, s) => if epochOf g < s.prime then 0 else (runEntry g).clusters
  | none => 0

/-- Every block has decided its proposals of the sweep. -/
def clustersOver (d : Dev) (c : Nat) (g : Run) (p : Problem) : Bool :=
  (List.range p.blocks.length).all (fun b => clusterQuota d c g b ≤ (clustersDone g b).1)

/-- The stage has reached the block's next proposal (R93). -/
def clusterTurn (d : Dev) (c : Nat) (g : Run) (p : Problem) (b : Nat) : Bool :=
  let m := (clustersDone g b).1
  p.blocks.zipIdx.all (fun y =>
    let q := clusterQuota d c g y.2
    let n := (clustersDone g y.2).1
    decide (min q m ≤ n) &&
      (isRacing g || !(match p.blocks[b]? with | some x => decide (y.1.tier < x.tier) | none => false) || decide (min q (m + 1) ≤ n)))

/-- The stride of cluster records (R184). -/
def clusterStride (s : FStream) : Nat := (16 + 4 * s.countMax + 15) / 16 * 16

/-- ΔE of a cluster move (R70). -/
def clusterDelta (p : Problem) (x : PBlock) (s : List Bool) (fld : Nat → Int) (ks : List Nat) : Int :=
  let v (k : Nat) : Int := sgn (s.getD k false)
  sumInt (ks.map (fun k => 2 * v k * fld k)) -
    4 * sumInt (ks.zipIdx.map (fun y => sumInt ((ks.take y.2).map (fun j => coupling p x j y.1 * v j * v y.1))))

/-- The groups of a block keep exactly one hot member. -/
def groupsKept (p : Problem) (x : PBlock) (s : List Bool) : Bool :=
  p.groups.all (fun g =>
    !(decide (x.first ≤ groupLowest g) && decide (groupLowest g < x.first + x.n)) ||
      ((g.filter (fun i => s.getD (i - x.first) false)).length == 1))

/-- A record is valid (R94). -/
def clusterValid (g : Run) (p : Problem) (x : PBlock) (b m : Nat) (stamp : Bool) (r : Bytes) (ks : List Nat) (logq : Int) : Bool :=
  let rep := bits (u8 r 2) 0 6
  (stamp || (u16 r 0 == b && bits (u64 r 8) 0 48 == g.sweep && u16 r 0xE == m)) &&
    decide (1 ≤ u8 r 3) && decide (u8 r 3 ≤ 64) && bits (u8 r 2) 6 2 == 0 && decide (rep < x.reps.length) &&
    decide (logq.natAbs ≤ 8388607) && ks.all (fun k => decide (k < x.n)) && decide (ks.eraseDups.length = ks.length) &&
    groupsKept p x (ks.foldl (fun s k => s.set k (!s.getD k false)) (repAt x rep).spins)

/- Racing conflicts (R91; the decision sets as log 66 reads them). -/

/-- Whether two spins are members of one group. -/
def sameGroup (p : Problem) (i j : Nat) : Bool :=
  match groupOf p i with
  | some gr => gr.contains j
  | none => false

/-- The conflict on one stored coupling in the decision set that ends, if there is one: the block that counts it. Only lead
replicas are coupled to spins of other blocks (R79). `inner` says that the set holds the sweep's sparse phase. -/
def edgeConflict (g : Run) (p : Problem) (inner : Bool) (e : Edge) : Option Nat :=
  let (a, i) := locate p.blocks e.a
  let (b, j) := locate p.blocks e.b
  if e.imp || e.val == 0 || !(g.moved.contains (a, 0, i) && g.moved.contains (b, 0, j)) then none
  else if a = b then (if inner && !sameGroup p e.a e.b then some a else none)
  else some (locate p.blocks (min e.a e.b)).1

/-- A racing decision set ends: its conflicts are counted, and the next one starts. -/
def closeSet (inner : Bool) (g : Run) (p : Problem) : Run × Problem :=
  ({ g with moved := [] },
   if isRacing g then
     (p.edges.filterMap (edgeConflict g p inner)).foldl
       (fun p b => modCount b (fun c => { c with conflicts := sat64 c.conflicts 1 }) p) p
   else p)

/-- Before a block's proposal `m`: where no block has yet decided its own, the previous decision set ends. -/
def openRound (m : Nat) (g : Run) (p : Problem) : Run × Problem :=
  if g.clusters.all (fun k => decide (k.2.1 ≤ m)) then closeSet (m == 0) g p else (g, p)

/-- The block decides the record of its next proposal. -/
def decideCluster (c b m : Nat) (stamp : Bool) (r : Bytes) (g : Run) (p : Problem) (x : PBlock) (d : Dev) : Dev :=
  let ks := u32sOf (min 64 (u8 r 3)) (r.drop 16)
  let logq := toInt 32 (u32 r 4)
  let (n, e) := clustersDone g b
  let (g, p) := openRound m g p
  let g := { g with clusters := g.clusters.filter (fun k => k.1 != b) ++ [(b, n + 1, e + 1)] }
  if clusterValid g p x b m stamp r ks logq then
    let rep := bits (u8 r 2) 0 6
    let s := (repAt x rep).spins
    let dE := clusterDelta p x s (roundField g p x b rep) ks
    let ok := metropolis dE (rungTemp g.ladders (runEntry g) b rep) (moveVariate g b rep 0 (512 + m)) logq
    let fl := if ok then ks.map (fun k => newFlip g p x b rep k (!s.getD k false) 2) else []
    let p := modCount b (fun k => { k with clusterProposals := sat32 k.clusterProposals 1
                                           clusterAccepts := sat32 k.clusterAccepts (ofBool ok) }) p
    let p := modRep b rep (fun y => { y with accepts := y.accepts + ofBool ok, traceAccepts := y.traceAccepts + ofBool ok }) p
    let z := takeMove fl g p
    setRunProblem c z.1 z.2 d
  else setRunProblem c g (modCount b (fun k => { k with clusterInvalid := sat32 k.clusterInvalid 1 }) p) d

/-- CLUSTER_DECISION of one block; it waits for its record. Bytes of a record past its stream's stride do not exist: spin
numbers there read as 0 (R92, log 68). -/
def clusterDecision (c b : Nat) (d : Dev) : Dev :=
  match runOf d c with
  | none => d
  | some (g, p) =>
    match p.blocks[b]?, clusterStream d c b with
    | some x, some (_, s) =>
      let (m, e) := clustersDone g b
      if decide (g.phase + 1 = sweepPhases g p) && phaseDone g p && decide (m < clusterQuota d c g b) &&
          clusterTurn d c g p b && decide (epochOf g < s.arrived) && !spanWaits d x then
        match devRead (slotAddr s (epochOf g) + e * clusterStride s) (clusterStride s) d with
        | .ok r d => decideCluster c b m s.stamp r g p x d
        | .error (.fail st detail) d => stopRun c (.status st detail) d
        | .error _ _ => d
      else d
    | _, _ => d

/-- CLUSTER_DECISION (R95). -/
def execClusterDecision (c : CtxId) (block : Fin 2560) (s : State) : Host.Outcome State Fault Refusal :=
  onDev (clusterDecision c.val block.val) s

/- The flip bus (R85 to R88). -/

/-- A pending flip of a hall's bus: context, requester, device spin index of its block's first spin, the flip. -/
structure BusFlip where
  ctx : Nat
  port : Nat
  racing : Bool
  dense : Bool
  first : Nat
  flip : Flip
  deriving DecidableEq, Repr

/-- The requester that carries a flip on the bus of hall `h`: its tread, or ingress port (source hall mod 4) (R86;
11_interconnect.md, The flip bus). -/
def flipPort (h : Nat) (x : PBlock) (k : Nat) : Nat := if x.hall = h then spinTread x k else 640 + x.hall % 4

/-- A flip put in its place in the order of acceptance. -/
def putInOrder (b : BusFlip) : List BusFlip → List BusFlip
  | [] => [b]
  | a :: t => if b.flip.id ≤ a.flip.id then b :: a :: t else a :: putInOrder b t

/-- Pending flips on the bus of a hall, in the order they were accepted. -/
def busFlips (d : Dev) (h : Nat) : List BusFlip :=
  (d.ctxs.flatMap (fun q =>
    match q.2.run, q.2.problem with
    | some g, some p =>
      g.flips.filterMap (fun f =>
        match p.blocks[f.block]? with
        | some x =>
          if f.halls.contains h && mirrorGoes d q.1 then
            some { ctx := q.1, port := flipPort h x f.spin, racing := isRacing g, dense := x.dense, first := x.first, flip := f }
          else none
        | none => none)
    | _, _ => [])).foldr putInOrder []

/-- The kinds of a slot (Table 3.5). -/
inductive SlotKind where
  | record
  | slotVector
  | replicaVector
  | tileVector
  deriving DecidableEq, Repr

/-- The vector that a flip may travel in (R87, R95): its kind, and what its members share beside the block. -/
def vectorKey (b : BusFlip) : SlotKind × Nat × Nat × Nat :=
  let f := b.flip
  if !b.dense then (.slotVector, f.spin / 64, 0, 0)
  else if b.racing || f.move == 2 then (.tileVector, f.spin / 64, f.rep, 0)
  else (.replicaVector, f.spin, ofBool f.value, 0)

/-- Two flips share a vector key (R87). -/
def sameKey (a b : BusFlip) : Bool := a.ctx == b.ctx && a.flip.block == b.flip.block && vectorKey a == vectorKey b

/-- What a granted requester sends: its oldest flip, and those of its out-queue that share its key, each member once. -/
def sends (l : List BusFlip) : List BusFlip :=
  match l.take 16 with
  | [] => []
  | a :: t =>
    t.foldl (fun acc b =>
      if sameKey a b && !(acc.any (fun z => z.flip.spin == b.flip.spin && z.flip.rep == b.flip.rep)) then acc ++ [b] else acc) [a]

/-- The slot that carries the flips that a requester sends (Table 3.5). The manual says nothing of a vector of flips of
different moves or phases; MOVE and PHASE are the oldest flip's (log 67). -/
def slotOf : List BusFlip → BitVec 192
  | [] => 0
  | a :: t =>
    let f := a.flip
    let kind := if t.isEmpty then .record else (vectorKey a).1
    let own := a.first + f.spin
    let start := a.first + f.spin / 64 * 64
    let inTile (g : BusFlip → Bool) : Nat := ((a :: t).map (fun b => if g b then 2 ^ (b.flip.spin % 64) else 0)).foldl (· + ·) 0
    let head (k rep spin value : Nat) : Nat := k + f.move * 2 ^ 2 + rep * 2 ^ 4 + spin * 2 ^ 10 + value * 2 ^ 33 + f.phase * 2 ^ 34
    BitVec.ofNat 192
      (match kind with
       | .record => head 0 f.rep own (ofBool f.value)
       | .slotVector => head 1 0 start 0 + inTile (fun _ => true) * 2 ^ 64 + inTile (fun b => b.flip.value) * 2 ^ 128
       | .replicaVector =>
         head 2 0 own (ofBool f.value) + ((a :: t).map (fun b => 2 ^ b.flip.rep)).foldl (· + ·) 0 * 2 ^ 64
       | .tileVector => head 3 f.rep start 0 + inTile (fun _ => true) * 2 ^ 64 + inTile (fun b => b.flip.value) * 2 ^ 128)

/-- Ports with pending flips in the order the arbiter looks at them. -/
def portOrder (last : Nat) (ports : List Nat) : List Nat :=
  ((List.range 644).map (fun i => (last + 1 + i) % 644)).filter (fun p => ports.contains p)

/-- A hall's bus has carried a flip: it has left the hall's list. -/
def carryFlip (h : Nat) (b : BusFlip) (d : Dev) : Dev :=
  modCtx b.ctx (fun x =>
    { x with run := x.run.map (fun g =>
        { g with flips := g.flips.filterMap (fun k =>
            if k.id = b.flip.id then
              let left := k.halls.filter (· != h)
              if left.isEmpty then none else some { k with halls := left }
            else some k) }) }) d

/-- After a bus cycle, fields and energies of a strict run follow the flips carried; those of a racing run hold until its
sweep ends. Then evaluations that waited for room in an out-queue go on (R87, R89, R90). -/
def afterCycle (c : Nat) (d : Dev) : Dev :=
  match runOf d c with
  | none => d
  | some (g, p) =>
    let p := if isRacing g then p else refreshFlips g.flips p
    let z := sparseSteps g p
    let z := windowsGoOn z.1 z.2
    setRunProblem c z.1 z.2 d

/-- The bus of a hall cannot advance: the clock of an attached tap's island stands (R279). -/
def busStands (d : Dev) (h : Nat) : Bool :=
  (List.range 40).any (fun k => islandStopped d (40 * h + k) && tapAttached d (40 * h + k))

/-- One bus cycle: up to 16 slots. -/
def flipSlotGrant (h : Nat) (d : Dev) : Dev :=
  let l := busFlips d h
  let ports := (l.map (fun b => b.port)).eraseDups
  if ports.isEmpty || busStands d h then d
  else
    let order := portOrder (d.flipTurn.getD h 643) ports
    let granted := order.take 16
    let out := granted.map (fun p => sends (l.filter (fun b => b.port == p)))
    let d := out.flatten.foldl (fun d b => carryFlip h b d) d
    let d := ((out.flatten.map (fun b => b.ctx)).eraseDups).foldl (fun d c => afterCycle c d) d
    let d := modHallCounters h (fun k =>
      { k with flipSlots := satAdd 64 k.flipSlots granted.length
               flipWait := satAdd 64 k.flipWait (ofBool (decide (16 < order.length))) }) d
    { d with flipTurn := setAt h (granted.getLast?.getD 643) d.flipTurn, busSlots := setAt h (out.map slotOf) d.busSlots }

/-- FLIP_SLOT_GRANT (R86, R87). -/
def execFlipSlotGrant (h : Hall) (s : State) : Host.Outcome State Fault Refusal := onDev (flipSlotGrant h.val) s

end Sys2Proof.Machine
end

