-- ==== Sys2Proof/Machine/Decisions.lean ====
section
/-! DEFINITION. The decision emitter (R196 to R198). -/

namespace Sys2Proof.Machine

def modRun (c : Nat) (f : Run → Run) (d : Dev) : Dev := modCtx c (fun x => { x with run := x.run.map f }) d

/- Fields of the decision channel record (Table 7.16). -/
def decRing (k : Decision) : Nat := u64 k.record 0
def decSlots (k : Decision) : Nat := u32 k.record 8
def decBytes (k : Decision) : Nat := u32 k.record 0xC
def decCount (k : Decision) : Nat := u64 k.record 0x10
def decHead (k : Decision) : Nat := u64 k.record 0x18
def decThreshold (k : Decision) : Nat := u64 k.record 0x20
def decEvery (k : Decision) : Nat := u32 k.record 0x28
def decKeepLatest (k : Decision) : Bool := bit (u16 k.record 0x2C) 0
def decGroups (k : Decision) : Bool := bit (u16 k.record 0x2C) 1
def decChain (k : Decision) : Bool := bit (u16 k.record 0x2C) 2

/-- The baseline L: the energy, under the present coefficients, of the state last emitted. -/
def baselineOf (p : Problem) (k : Decision) : Option Int := k.emitted.map (energyOf p)

/-- REASON bits FIRST, IMPROVED, PERIODIC, FINAL; 0 when nothing is emitted (R196). -/
def decReasons (p : Problem) (k : Decision) (epoch : Nat) (final : Bool) : Nat :=
  let t := decThreshold k
  let first := decide (0 < t) && k.emitted.isNone
  let improved := match baselineOf p k with
    | some l => decide (0 < t) && decide (p.best ≤ l - t)
    | none => false
  ofBool first + 2 * ofBool improved + 4 * ofBool (decEvery k != 0 && (epoch + 1) % decEvery k == 0) + 8 * ofBool final

/-- The payload: bits of the best system state, or the hot member of each group. -/
def decPayloadOf (p : Problem) (k : Decision) : Bytes :=
  let items := k.ranges.flatMap (fun r => (List.range r.2).map (fun i => r.1 + i))
  let st := bestState p
  if decGroups k then
    items.map (fun j => BitVec.ofNat 8 (((p.groups.getD j []).findIdx? (fun i => valueOf p st i == 1)).getD 0))
  else packBits (ceilDiv items.length 8) (items.map (fun i => valueOf p st i == 1))

/-- A decision record without its number, its SUPERSEDED count and its CRC (Table 7.17). -/
def decDraft (p : Problem) (k : Decision) (part epoch reasons : Nat) : Bytes :=
  let pay := decPayloadOf p k
  padTo (decBytes k)
    (leBytes 8 0 ++ leBytes 8 (low 48 epoch + reasons * 2 ^ 48) ++ leBytes 8 (ofInt 64 p.best) ++
     leBytes 8 (match baselineOf p k with | some l => ofInt 64 l | none => 0x7FFFFFFFFFFFFFFF) ++
     leBytes 8 (k.applied.getD noEpoch) ++ leBytes 4 0 ++ leBytes 4 pay.length ++ leBytes 4 p.id ++ leBytes 2 part ++
     leBytes 2 0 ++ leBytes 4 0 ++ leBytes 4 0 ++ pay)

/-- The record as it is written. -/
def decSeal (k : Decision) (r : Bytes) : Bytes :=
  let h := leBytes 8 k.seq ++ (r.drop 8).take 32 ++ leBytes 4 (min k.superseded (2 ^ 32 - 1)) ++ (r.drop 0x2C).take 12
  let pay := (r.drop 0x40).take (u32 r 0x2C)
  h ++ leBytes 4 (crc32c (h ++ pay)) ++ r.drop 0x3C

/-- R197: the ring is full. The head count is read once the ring has been filled. -/
def ringFull (k : Decision) : Act Bool := do
  if decHead k = 0 || decide (k.seq < decSlots k) then pure false
  else do
    let d ← get
    let e : OpEnv := { q := .kernel 0, idx := 0, off := 0, ctx := d.actor.getD 0xFFFF, drawn := none, hostOk := true }
    let v ← rd64 e (decHead k)
    pure (decide (decSlots k ≤ k.seq - v))

/-- The measurement record that carries a decision to a chain peer. -/
def decMessage (k : Decision) (r : Bytes) : Bytes := leBytes 8 (2 ^ 49) ++ leBytes 6 0 ++ leBytes 2 (decBytes k) ++ r

/-- A record goes to the chain peer, or is discarded and counted (R197, R233). -/
def chainSend (k : Decision) (r : Bytes) (d : Dev) : Dev :=
  let peer := bits (u16 k.record 0x3A) 0 11
  let tag := u16 k.record 0x3C
  if actorHushed d then d
  else if d.chain.id = some peer then deliverIngest tag none (decMessage k r) d
  else
    match routeOf d peer with
    | some n => sendOn n peer (.ingest tag (decMessage k r)) d
    | none => { d with tele := { d.tele with chainSendDrops := satAdd 64 d.tele.chainSendDrops 1 } }

/-- A record is written: its bytes, the count, the message, the chain send (R197). In the safe state nothing is (R198). -/
def writeDecision (k : Decision) (draft : Bytes) : Act Decision := do
  let d ← get
  let r := decSeal k draft
  if d.fc.safeState then pure ()
  else do
    checkDest (decCount k) 8
    wr (decRing k + k.seq % decSlots k * decBytes k) r
    change (countStore (decCount k) (k.seq + 1))
    if bit (u16 k.record 0x2E) 15 then change (signal (bits (u16 k.record 0x2E) 0 11)) else pure ()
    if decChain k then change (chainSend k r) else pure ()
  pure { k with seq := k.seq + 1, superseded := 0, held := none }

/-- A held record is written when there is space. -/
def writeHeld (k : Decision) : Act Decision := do
  match k.held with
  | some r => do
    if ← ringFull k then pure k else writeDecision k r
  | none => pure k

/-- Decision emission after an epoch (R196, R197): the channel's state after it, and the decisions written and
superseded. -/
def emitDecision (p : Problem) (part epoch : Nat) (final : Bool) (k : Decision) : Act (Decision × Nat × Nat) := do
  let k' ← writeHeld k
  let n := k'.seq - k.seq
  let reasons := decReasons p k' epoch final
  if reasons = 0 then pure (k', n, 0)
  else do
    let r := decDraft p k' part epoch reasons
    let k' := { k' with emitted := some (bestState p) }
    if ← ringFull k' then
      if decKeepLatest k' then
        let lost := ofBool k'.held.isSome
        pure ({ k' with held := some r, superseded := k'.superseded + lost }, n, lost)
      else throw .notYet
    else do
      let k' ← writeDecision k' r
      pure (k', n + 1, 0)

/-- A channel of an ended run writes the record it still holds. -/
def writeLeft (ch : Nat) (d : Dev) : Dev :=
  d.heldOut.foldl
    (fun d h =>
      if h.2.channel = ch then
        match writeHeld h.2 { d with actor := some h.1 } with
        | .ok k d' => if k.held.isNone then { d' with actor := none, heldOut := d'.heldOut.erase h } else d
        | .error _ _ => d
      else d) d

end Sys2Proof.Machine
end

