-- ==== Sys2Proof/Machine/FlightRec.lean ====
section
/-! DEFINITION. What a flight's run writes and counts: the counter record, STATE records, DELTA records, and the end of a
FLIGHT_RUN (R181 to R184, R189 to R191). -/

namespace Sys2Proof.Machine

/- The counter record (Table 7.14). -/

def counterBytes (y : Flight) (r : FlightRun) : Bytes :=
  let (fs, fe) := match r.failStep with
    | some f => f
    | none => (0xFFFF, 0xFFFF)
  let c32 (n : Nat) : Nat := min n (2 ^ 32 - 1)
  let c64 (n : Nat) : Bytes := leBytes 8 (min n (2 ^ 64 - 1))
  padTo 128
    (leBytes 8 (match r.epoch with | some e => low 48 e | none => noEpoch) ++ c64 r.frames ++ c64 r.records ++
     leBytes 4 (c32 r.invalid) ++ leBytes 4 (c32 r.overflow) ++ c64 r.applied ++ leBytes 4 (c32 r.late) ++
     leBytes 4 (c32 r.discarded) ++ c64 r.values ++ leBytes 4 (c32 r.saturated) ++ leBytes 4 (c32 r.refused) ++
     c64 r.decisions ++ c64 r.superseded ++ c64 r.paceWaits ++ leBytes 2 fs ++ leBytes 2 fe) ++
  y.steps.flatMap (fun s => c64 s.firings ++ c64 s.creditWaits)

/-- The flight counter record is written, where its address is nonzero (R191). -/
def writeCounters (c f : Nat) : Act Unit := do
  let d ← get
  match (ctxOf d c).bind (fun x => flightOf x f) with
  | some y =>
    match y.run with
    | some r => if r.counters = 0 then pure () else wr r.counters (counterBytes y r)
    | none => pure ()
  | none => pure ()

/-- A write of a context's run or flight outside an op: `none` while it must wait; a failure gives its status. -/
def tryAct (c : Nat) (a : Act Unit) (d : Dev) : Option (Dev × Option (Nat × Nat)) :=
  match a { d with actor := some c } with
  | .ok _ d' => some ({ d' with actor := none }, none)
  | .error (.fail st detail) d' => some ({ d' with actor := none }, some (st, detail))
  | .error _ _ => none

/- The end of a FLIGHT_RUN (R189, R190). -/

/-- DELTA records of the run that were not applied. -/
def deltasLeft (y : Flight) : Nat :=
  ((y.streams.filter (fun s => s.kind == skDelta)).map (fun s => s.produced - s.consumed - s.applied.length)).foldl (· + ·) 0

/-- The outcome of a flight's run, once its anneal has ended or it was told to stop. -/
def flightOutcome (x : Ctx) (f : Nat) (r : FlightRun) : Option (Nat × Nat × Nat × Bool) :=
  match r.ended with
  | some o => some o
  | none =>
    match x.run with
    | some g => if g.flight = some f then none else r.stop.map (fun s => (s.1, s.2, 0, false))
    | none => r.stop.map (fun s => (s.1, s.2, 0, false))

/-- No COMPUTE step is in a firing. -/
def firingsOver (y : Flight) : Bool := y.steps.all (fun s => s.firing.isNone)

/-- A run that is over and whose firings have ended completes: the counter record, then the op's outcome. -/
def settleFlight (c f : Nat) (d : Dev) : Dev :=
  match ctxOf d c with
  | none => d
  | some x =>
    match flightOf x f with
    | some y =>
      match y.run with
      | some r =>
        match flightOutcome x f r with
        | some (st, detail, seed, drawn) =>
          if firingsOver y then
            let d' := modFRun c f (fun r => { r with discarded := r.discarded + deltasLeft y }) d
            match tryAct c (writeCounters c f) d' with
            | some (d', _) =>
              opOutcome r.q r.idx { status := st, detail := detail, seed := seed, seedDrawn := drawn }
                (modFlight c f (fun y => { y with run := none }) d')
            | none => d
          else d
        | none => d
      | none => d
    | none => d

/- STATE records (R181). -/

def elemBytes (form : Nat) (l : List Bool) : Bytes :=
  match form with
  | 0 => packBits (ceilDiv l.length 8) l
  | 1 => l.map (fun b => if b then 0x01 else 0xFF)
  | _ => l.map (fun b => if b then 0x38 else 0xB8)

def stateRecord (p : Problem) (s : FStream) (epoch : Nat) : Bytes :=
  let lead := leadSpins p
  let l := s.ranges.flatMap (fun r => (List.range r.2).map (fun i => valueOf p lead (r.1 + i) == 1))
  padTo 64 (leBytes 8 (low 48 epoch) ++ leBytes 8 (ofInt 64 p.energy) ++ leBytes 8 (ofInt 64 p.best) ++ leBytes 4 l.length) ++
    elemBytes s.elem l

/- DELTA records (R182, R183, R194). -/

/-- The header's APPLY_EPOCH, EXPLICIT and HORIZON. -/
structure DeltaHead where
  epoch : Nat
  explicit : Bool
  horizon : Nat
  deriving DecidableEq, Repr

def deltaHead (h : Bytes) : DeltaHead :=
  { epoch := bits (u64 h 0) 0 48, explicit := bit (u64 h 0) 48, horizon := bits (u64 h 8) 0 48 }

def valueBytes (fmt : Nat) : Nat := if fmt = 1 then 2 else 4

/-- A DELTA record that is due: epoch of its order, stream, record number, late. -/
structure DeltaDue where
  epoch : Nat
  stream : Nat
  num : Nat
  late : Bool
  deriving DecidableEq, Repr

def deltaBefore (a b : DeltaDue) : Bool :=
  if a.epoch ≠ b.epoch then decide (a.epoch < b.epoch)
  else if a.stream ≠ b.stream then decide (a.stream < b.stream)
  else decide (a.num ≤ b.num)

def insertDelta (a : DeltaDue) : List DeltaDue → List DeltaDue
  | [] => [a]
  | b :: t => if deltaBefore a b then a :: b :: t else b :: insertDelta a t

/-- Records of one stream that have arrived and are not applied. -/
def heldDeltas (s : FStream) : List Nat :=
  ((List.range (s.arrived - s.consumed)).map (fun i => s.consumed + i)).filter (fun n => !s.applied.contains n)

/-- The DELTA records due before the first sweep of epoch `k`, in the order of R183. -/
def dueDeltas (y : Flight) (k : Nat) : Act (List DeltaDue) := do
  let l := (numbered y).filter (fun s => s.1.kind == skDelta)
  let all ← l.mapM (fun s => (heldDeltas s.1).mapM (fun n => do
    let h ← devRead (slotAddr s.1 n) 64
    let e := deltaHead h
    pure (if e.explicit then
        (if e.epoch ≤ k then [{ epoch := e.epoch, stream := s.2, num := n, late := decide (e.epoch < k) : DeltaDue }] else [])
      else [{ epoch := k, stream := s.2, num := n, late := false : DeltaDue }])))
  pure ((all.flatten.flatten).foldr insertDelta [])

/-- Records applied leave their slots in order: the oldest ones are freed. -/
def freeApplied : Nat → FStream → FStream
  | 0, s => s
  | n + 1, s =>
    if s.applied.contains s.consumed then
      freeApplied n (recordsFreed 1 { s with applied := s.applied.filter (· != s.consumed) })
    else s

/-- One DELTA record applies (R183). -/
def applyDelta (c f : Nat) (u : DeltaDue) : Act Unit := do
  let d ← get
  match (ctxOf d c).bind (fun x => x.problem.bind (fun p => (flightOf x f).bind (fun y => (y.streams[u.stream]?).map (fun s => (p, s))))) with
  | some (p, s) =>
    let k := valueBytes s.format
    let raw ← devRead (slotAddr s u.num + 64) (k * s.map.length)
    let es := (s.map.zip (chunks k s.map.length raw)).map (fun e => { a := e.1.1, b := e.1.2, v := leNat e.2 : UpdEntry })
    let (p', n) := applyEntries p (s.mode == 1) s.format none es
    change (modCtx c (fun x => { x with problem := some p' }))
    change (modFRun c f (fun r =>
      { r with applied := r.applied + 1, late := r.late + ofBool u.late, values := r.values + n.applied
               saturated := r.saturated + n.saturated, refused := r.refused + n.refused }))
    change (modStream c f u.stream (fun s => freeApplied s.depth { s with applied := s.applied ++ [u.num] }))
  | none => pure ()

/-- The DELTA records due before epoch `k` apply; the answer says how many. -/
def applyDeltas (c f k : Nat) : Act Nat := do
  let d ← get
  match (ctxOf d c).bind (fun x => flightOf x f) with
  | some y => do
    let l ← dueDeltas y k
    l.forM (applyDelta c f)
    pure l.length
  | none => pure 0

end Sys2Proof.Machine
end

