-- ==== Sys2Proof/Machine/BoundaryRun.lean ====
section
/-! DEFINITION. What a partitioned run does: hellos, frames and newels, installs, checkpoints and verdicts (R207 to
R217). -/

namespace Sys2Proof.Machine

def modBRun (c : Nat) (f : BRun → BRun) (d : Dev) : Dev :=
  modCtx c (fun x => { x with boundary := x.boundary.map (fun b => { b with run := f b.run }) }) d

def boundaryPeers (b : Boundary) : List Peer := b.peers.filter (fun p => p.boundary)

/- Hellos (R213). -/

/-- The hello of a peer agrees with the part's own values. -/
def helloAgrees (b : Boundary) (p : Problem) (g : Run) (e : Peer) (m : HelloMsg) : Bool :=
  let own := helloOf b p g e
  m.partCount == own.partCount && m.staleness == own.staleness && m.checkEvery == own.checkEvery &&
    m.epochSweeps == own.epochSweeps && m.stand == own.stand && m.total == own.total && m.loopEntry == own.loopEntry &&
    m.entryCount == own.entryCount && m.seed == own.seed && m.quantum == own.quantum && m.boundary == own.boundary &&
    m.exportCount == own.importCount && m.importCount == own.exportCount && m.parent == own.child && m.child == own.parent

/-- The part of the first hello that is a mismatch. -/
def helloBad (b : Boundary) (p : Problem) (g : Run) : Option Nat :=
  (b.run.hellos.find? (fun h =>
    match b.peers.find? (fun e => e.part == h.1) with
    | some e => !helloAgrees b p g e h.2
    | none => true)).map (fun h => h.1)

def hellosIn (b : Boundary) : Bool := b.peers.all (fun e => b.run.hellos.any (fun h => h.1 == e.part))

/- Frames (R207 to R211). -/

/-- The bits of the frame that goes to a peer. -/
def frameBits (p : Problem) (b : Boundary) (e : Peer) : List Bool :=
  let lead := leadSpins p
  ((b.exports.drop e.exportFirst).take e.exportCount).map (fun i => valueOf p lead i == 1)

def frameCrc (bits : List Bool) : Nat := crc32c (packBits (ceilDiv bits.length 8) bits)

/-- A frame and its newel leave for a peer. -/
def sendFrame (b : Boundary) (e : Peer) (k : Nat) (bits : List Bool) (d : Dev) : Dev :=
  sendTo e.chain (.newel b.part k bits.length (frameCrc bits)) (sendTo e.chain (.frame b.part k bits) d)

/-- Slots that each store holds for one BOUNDARY peer (R209). -/
def slotCount (b : Boundary) : Nat := 2 * b.stale + 2

/-- The stores and the snapshot of a part lie in its work area: what the area's bytes read as once the part has written
there is not stated (R209, R216, log 70). -/
def workWritten (b : Boundary) (d : Dev) : Dev := fillFresh b.workAddr b.workBytes d

/-- The frame of an epoch takes its slot of the send store (R209). -/
def keepSent (b : Boundary) (f : SentFrame) (l : List SentFrame) : List SentFrame :=
  l.filter (fun s => !(s.part == f.part && s.epoch % slotCount b == f.epoch % slotCount b)) ++ [f]

/-- Frame and newel `k` leave for every BOUNDARY peer, and stay in the send store (R209, R212). -/
def sendFrames (c k : Nat) (p : Problem) (b : Boundary) (d : Dev) : Dev :=
  (boundaryPeers b).foldl
    (fun d e =>
      let bits := frameBits p b e
      sendFrame b e k bits (workWritten b
        (modBRun c (fun r => { r with sent := keepSent b { part := e.part, epoch := k, bits := bits } r.sent }) d))) d

/-- R208: a frame has arrived: its newel is there, and the bits held agree with it. -/
def slotWhole (s : FrameSlot) : Bool :=
  match s.bits, s.newel with
  | some bits, some (n, crc) => bits.length == n && frameCrc bits == crc
  | _, _ => false

/-- The frame of a peer and epoch, if it has arrived. -/
def frameHeld (b : Boundary) (part epoch : Nat) : Option (List Bool) :=
  match b.run.frames.find? (fun s => s.part == part && s.epoch == epoch) with
  | some s => if slotWhole s then s.bits else none
  | none => none

def framesIn (b : Boundary) (epoch : Nat) : Bool := (boundaryPeers b).all (fun e => (frameHeld b e.part epoch).isSome)

/-- Import values with the frames of an epoch placed in them. -/
def framedImports (b : Boundary) (epoch : Nat) (imports : List Bool) : List Bool :=
  (boundaryPeers b).foldl
    (fun l e =>
      match frameHeld b e.part epoch with
      | some bits => bits.zipIdx.foldl (fun l y => l.set (e.importFirst + y.2) y.1) l
      | none => l) imports

/-- The frames of an epoch are installed: fields, energies and bests change by the exact amounts (R211). -/
def installFrames (c epoch : Nat) (p : Problem) (b : Boundary) (d : Dev) : Dev :=
  let new := { p with imports := framedImports b epoch p.imports }
  let d := modCtx c (fun x => { x with problem := some (rescore p new) }) d
  modBRun c (fun r => { r with frames := r.frames.filter (fun s => decide (epoch ≤ s.epoch)) }) d

/- Checkpoints (R214 to R216). -/

/-- The boundary edges of a part. -/
def boundaryEdges (p : Problem) : List Edge := p.edges.filter (fun e => e.imp)

/-- Σ J·s·x over boundary edges, with `spins` for the local spins and `imports` for the remote ones. -/
def boundarySum (p : Problem) (es : List Edge) (spins : List (List Bool)) (imports : List Bool) : Int :=
  sumInt (es.map (fun e => e.val * valueOf p spins e.a * sgn (imports.getD e.b false)))

/-- A_p: the system energy without its boundary edges. -/
def partEnergy (p : Problem) : Int := p.energy + boundarySum p (boundaryEdges p) (leadSpins p) p.imports

/-- The checkpoint snapshot and part energy of epoch `k` (R214, R216). -/
def takeCheckpoint (c k : Nat) (p : Problem) (b : Boundary) (d : Dev) : Dev :=
  workWritten b (modBRun c (fun r =>
    { r with point := some { epoch := k, energy := partEnergy p, boundary := none, spins := leadSpins p
                             edges := boundaryEdges p, temps := p.temps, sentUp := false } }) d)

/-- The total epochs of a run. -/
def runEpochs (g : Run) : Nat :=
  ceilDiv (if g.desc.stand then sweepLimit else totalSweeps g.entries) g.desc.epochSweeps

def isCheckpoint (b : Boundary) (g : Run) (k : Nat) : Bool := k % b.checkEvery == 0 || k == runEpochs g

/-- The last checkpoint epoch before `k`. -/
def checkpointBefore (b : Boundary) (k : Nat) : Nat := (k - 1) / b.checkEvery * b.checkEvery

/-- The image of a part's checkpoint: CURRENT of replica 0, energies G_k, counters zero (R216). -/
def checkImage (p : Problem) (pt : CheckPoint) (g : Int) (sweeps : Nat) : Bytes :=
  let img := { p with
    energy := g
    best := g
    sweeps := sweeps
    temps := pt.temps
    blocks := p.blocks.zipIdx.map (fun y =>
      { y.1 with count := {}, reps := y.1.reps.map (fun r => { r with spins := pt.spins.getD y.2 [], energy := g, accepts := 0 }) }) }
  stateImage img { cur := true, best := false, fields := false, mask := 1 } 0 img.blocks.length

/-- The checkpoint record (Table 8.5). -/
def checkRecord (v : VerdictMsg) (pt : CheckPoint) (r : BRun) : Bytes :=
  let h := leBytes 6 v.epoch ++
    leBytes 2 (ofBool v.final + 2 * ofBool v.newBest + 4 * ofBool v.asymmetry + 8 * ofBool v.targetMet) ++
    leBytes 8 (ofInt 64 v.energy) ++ leBytes 8 (ofInt 64 v.best) ++ leBytes 8 (low 48 v.bestEpoch) ++
    leBytes 8 (ofInt 64 pt.energy) ++ leBytes 8 (ofInt 64 (pt.boundary.getD 0))
  h ++ leBytes 4 (min r.frameWaits (2 ^ 32 - 1)) ++ leBytes 4 (min r.verdictWaits (2 ^ 32 - 1)) ++ leBytes 4 (crc32c h) ++
    leBytes 4 0

/-- What a part writes when a verdict arrives (R216). -/
def verdictWrites (b : Boundary) (p : Problem) (g : Run) (v : VerdictMsg) (pt : CheckPoint) : Act Unit := do
  let slot := b.ring + 64 * (b.run.records % b.ringEntries)
  checkDest slot 64
  checkDest b.countAddr 8
  if v.newBest && b.bestAddr != 0 then wr b.bestAddr (checkImage p pt v.energy (v.epoch * g.desc.epochSweeps)) else pure ()
  wr slot (checkRecord v pt b.run)
  change (countStore b.countAddr (b.run.records + 1))

/-- A verdict goes to the children (R215). -/
def forwardVerdict (b : Boundary) (v : VerdictMsg) (d : Dev) : Dev :=
  (b.peers.filter (fun e => e.child)).foldl (fun d e => sendTo e.chain (.verdict v) d) d

/-- A verdict for the pending checkpoint is taken: forwarded, then written (R215, R216). `none`: its writes must wait. -/
def takeVerdict (c : Nat) (v : VerdictMsg) (d : Dev) : Option Dev :=
  match ctxOf d c with
  | some { boundary := some b, problem := some p, run := some g, .. } =>
    match b.run.point with
    | some pt =>
      if pt.epoch = v.epoch ∧ pt.boundary.isSome then
        match tryAct c (verdictWrites b p g v pt) d with
        | some (d, bad) =>
          let d := forwardVerdict b v d
          let d := modBRun c (fun r =>
            { r with point := none, kept := if v.newBest then some pt else r.kept
                     verdict := some v, lastCheck := some v.epoch, records := r.records + 1
                     best := some (v.best, v.bestEpoch), frameWaits := 0, verdictWaits := 0 }) d
          match bad with
          | some (st, detail) => some (stopRun c (.status st detail) d)
          | none => some d
        | none => none
      else some d
    | none => some d
  | _ => some d

/-- A verdict that arrived is taken, as soon as its writes may leave. -/
def settleVerdict (c : Nat) (d : Dev) : Dev :=
  match (ctxOf d c).bind (fun x => x.boundary.bind (fun b => b.run.due)) with
  | none => d
  | some v =>
    match takeVerdict c v d with
    | some d => modBRun c (fun r => { r with due := none }) d
    | none => d

/-- The sums of a part's subtree for a checkpoint, when they are complete: ΣA, ΣB, parts. -/
def subtreeSums (b : Boundary) (pt : CheckPoint) : Option (Int × Int × Nat) :=
  match pt.boundary with
  | none => none
  | some own =>
    (b.peers.filter (fun e => e.child)).foldl
      (fun s e =>
        match s, b.run.checks.find? (fun k => k.part == e.part && k.epoch == pt.epoch) with
        | some (x, y, n), some k => some (x + k.sumA, y + k.sumB, n + k.parts)
        | _, _ => none) (some (pt.energy, own, 1))

/-- The root's verdict (R214, R215). -/
def formVerdict (b : Boundary) (g : Run) (k : Nat) (a bsum : Int) : VerdictMsg :=
  let e := a + bsum / 2
  let new := match b.run.best with
    | some (old, _) => decide (e < old)
    | none => true
  let (best, at') := if new then (e, k) else b.run.best.getD (e, k)
  { epoch := k, energy := e, best := best, bestEpoch := at', newBest := new, asymmetry := decide (bsum % 2 = 1)
    targetMet := g.desc.stopAtTarget && decide (e ≤ g.desc.target), final := k == runEpochs g }

/-- B_p is completed when every peer's frame has arrived; then the sums go up the tree, and the root forms its verdict
(R214, R215). -/
def checkProgress (c : Nat) (d : Dev) : Dev :=
  match ctxOf d c with
  | some { boundary := some b, problem := some p, run := some g, .. } =>
    match b.run.point with
    | none => d
    | some pt =>
      if pt.sentUp then d
      else
        let pt := if pt.boundary.isNone && framesIn b pt.epoch then
            { pt with boundary := some (0 - boundarySum p pt.edges pt.spins (framedImports b pt.epoch p.imports)) }
          else pt
        let d := modBRun c (fun r => { r with point := some pt }) d
        match subtreeSums b pt with
        | none => d
        | some (x, y, n) =>
          if b.part = 0 then
            if n ≠ b.parts then
              logOpen 0x05 13 dieNorth pt.epoch n 0 (stopRun c (.status stDeviceFault anyDetail) (modBRun c (fun r =>
                { r with point := some { pt with sentUp := true } }) d))
            else
              match takeVerdict c (formVerdict b g pt.epoch x y) d with
              | some d => d
              | none => d
          else
            let up := (b.peers.filter (fun e => e.parent))
            up.foldl (fun d e => sendTo e.chain (.checkUp b.part pt.epoch x y n) d)
              (modBRun c (fun r => { r with point := some { pt with sentUp := true }
                                            checks := r.checks.filter (fun k => decide (pt.epoch < k.epoch)) }) d)
  | _ => d

end Sys2Proof.Machine
end

