-- ==== Sys2Proof/Machine/RunStages.lean ====
section
/-! DEFINITION. The end of a sweep and of an epoch, the end of a run, and ANNEAL and STAND (R89 to R91, R99, R104 to R107,
R114 to R117, R192 to R197, R212 to R219). -/

namespace Sys2Proof.Machine

/- Step 1: the racing corrections. -/

/-- Step 1 of R99, after the bus has carried the sweep's last flips: the racing conflicts that are left are counted, and
fields and energies are exact. -/
def settleFlips (g : Run) (p : Problem) : Problem :=
  refresh (closeSet (g.clusters.all (fun k => k.2.1 == 0)) g p).2

/- Step 3: replica exchange (R104, R105). -/

def exchangePoint (g : Run) : Bool :=
  let x := (runEntry g).exchange
  x != 0 && (g.entrySweep + 1) % x == 0

/-- The exchange of one block at point `k`: the replicas after it, tries and accepts. -/
def exchangeBlock (g : Run) (k b : Nat) (x : PBlock) : PBlock :=
  let n := x.reps.length
  let pairs := (List.range n).filter (fun r => r % 2 == k % 2 && decide (r + 1 < n))
  let ok := pairs.filter (fun r =>
    exchangeRule (rungTemp g.ladders (runEntry g) b r) (rungTemp g.ladders (runEntry g) b (r + 1)) (repAt x r).energy
      (repAt x (r + 1)).energy (moveVariate g b r 0 768))
  let spins (r : Nat) : List Bool :=
    if ok.contains r then (repAt x (r + 1)).spins
    else if r != 0 && ok.contains (r - 1) then (repAt x (r - 1)).spins
    else (repAt x r).spins
  { x with
    reps := x.reps.zipIdx.map (fun y => { y.1 with spins := spins y.2 })
    count := { x.count with exchangeTries := sat32 x.count.exchangeTries pairs.length
                            exchangeAccepts := sat32 x.count.exchangeAccepts ok.length } }

/-- Every dense block with more than one replica tries its pairs against the energies before the point. -/
def exchangeAll (g : Run) (p : Problem) : Problem :=
  refresh { p with blocks := p.blocks.zipIdx.map (fun y =>
    if y.1.dense && decide (2 ≤ y.1.reps.length) then exchangeBlock g g.exchanges y.2 y.1 else y.1) }

/- Step 4: the trace (R114, R115). -/

/-- A trace entry of number `q` (Table 4.9). -/
def traceEntry (g : Run) (q rep : Nat) (energy best : Int) (accepts block : Nat) : TraceItem :=
  let n := g.desc.ringEntries
  { addr := g.desc.ringAddr + 32 * (q % n)
    data := leBytes 6 (g.sweep + 1) ++ leBytes 2 (rep + 64 * (q / n % 2)) ++ leBytes 8 (ofInt 64 energy) ++
      leBytes 8 (ofInt 64 best) ++ leBytes 4 (min accepts (2 ^ 32 - 1)) ++ leBytes 2 (low 12 g.entry) ++ leBytes 2 block
    entry := true }

/-- What a trace point shows: replica, energy, best, accepts, block. -/
def tracePoint (g : Run) (p : Problem) : List (Nat × Int × Int × Nat × Nat) :=
  let all := (p.blocks.flatMap (fun x => x.reps.map (fun r => r.traceAccepts))).foldl (· + ·) 0
  let sys := if g.desc.traceSystem then [(0, p.energy, p.best, all, 0xFFFF)] else []
  let reps := match p.blocks[g.desc.traceBlock]? with
    | some x => (includedReps x g.desc.traceReplicas).map (fun r =>
        (r, (repAt x r).energy, (if r = 0 then p.best else (repAt x r).best), (repAt x r).traceAccepts, g.desc.traceBlock))
    | none => []
  sys ++ reps

/-- The entries of a trace point and the count after them. -/
def traceItems (g : Run) (p : Problem) : List TraceItem :=
  let l := tracePoint g p
  l.zipIdx.map (fun y => traceEntry g (g.traced + y.2) y.1.1 y.1.2.1 y.1.2.2.1 y.1.2.2.2.1 y.1.2.2.2.2) ++
    [{ addr := g.desc.countAddr, data := leBytes 8 (g.traced + l.length), entry := false }]

def entriesIn (l : List TraceItem) : Nat := (l.filter (fun t => t.entry)).length

/-- Writes move into the staging while it holds fewer than 64 entries (R116); the rest wait. -/
def fillStaging : List TraceItem → List TraceItem → List TraceItem × List TraceItem
  | st, [] => (st, [])
  | st, t :: l => if t.entry && decide (64 ≤ entriesIn st) then (st, t :: l) else fillStaging (st ++ [t]) l

def stageItems (items : List TraceItem) (g : Run) : Run :=
  let r := fillStaging g.staging (g.unstaged ++ items)
  { g with staging := r.1, unstaged := r.2 }

/-- Step 4 of R99. The entries of a sweep that is no trace point are kept for the run's last sweep. -/
def traceSweep (g : Run) (p : Problem) : Run × Problem :=
  if !g.desc.trace then (g, p)
  else
    let items := traceItems g p
    if (g.sweep + 1) % g.desc.traceEvery = 0 then
      (stageItems items { g with traced := g.traced + entriesIn items, spare := [] },
       { p with blocks := p.blocks.map (fun x => { x with reps := x.reps.map (fun r => { r with traceAccepts := 0 }) }) })
    else ({ g with spare := items }, p)

/- Step 6 and the numbers of sweeps. -/

/-- A sweep is counted; at the end of an entry the next one takes effect, and a STAND repeats from its loop entry. -/
def countSweep (g : Run) : Run :=
  let g := { g with sweep := g.sweep + 1, inSweep := false, started := [], moved := [], entrySweep := g.entrySweep + 1 }
  if decide ((runEntry g).sweeps ≤ g.entrySweep) then
    { g with entrySweep := 0
             entry := if g.entry + 1 < g.entries.length then g.entry + 1 else if g.desc.stand then g.desc.loopEntry else g.entry }
  else g

/-- The number of the epoch to start next. -/
def nextEpoch (g : Run) : Nat := ceilDiv g.sweep g.desc.epochSweeps

/-- The number of the next epoch to start, also while an epoch's first sweep is in progress (R194). -/
def epochToStart (g : Run) : Nat := if g.inSweep then g.sweep / g.desc.epochSweeps + 1 else nextEpoch g

/-- The streams of the run's flight with their numbers. -/
def runStreams (x : Ctx) (g : Run) : List (FStream × Nat) :=
  match g.flight.bind (flightOf x) with
  | some y => numbered y
  | none => []

/-- STATE streams that take a record at the end of the epoch before `k` (R181). -/
def tapStreams (x : Ctx) (g : Run) (k : Nat) : List Nat :=
  ((runStreams x g).filter (fun s => s.1.kind == skState && k % s.1.tapEvery == 0)).map (fun s => s.2)

/-- What an epoch's end does (R99, R193, R212). -/
def epochStages (x : Ctx) (g : Run) : List Stage :=
  let part := x.boundary.isSome
  [.staged, .checks, .snapshots] ++ (tapStreams x g (nextEpoch g)).map .stateRecord ++ [.emit, .pace, .updates, .counters, .mirror] ++
  (if part then [.verdict, .sendFrame, .checkpoint, .final] else []) ++ [.march] ++ (if part then [.frames] else []) ++
  [.lastUpdates, .flush, .lastSnapshots, .finish]

/-- What a stopped run still does (R107). -/
def stopStages : List Stage := [.staged, .snapshots, .lastUpdates, .flush, .lastSnapshots, .finish]

/- The stages. -/

/-- A stage ends the run. -/
def endRun (c : Nat) (e : RunEnd) (d : Dev) : Dev :=
  modRun c (fun g => if g.ending.isNone then { g with ending := some e } else g) d

/-- A write that failed ends the run with its status. -/
def endBad (c : Nat) (bad : Option (Nat × Nat)) (d : Dev) : Dev :=
  match bad with
  | some (st, detail) => endRun c (.status st detail) d
  | none => d

def doneIf (o : Option (Dev × Option (Nat × Nat))) (c : Nat) (d : Dev) : Bool × Dev :=
  match o with
  | some (d', bad) => (true, endBad c bad d')
  | none => (false, d)

/-- The stop fence's value (R192): read by the curator, so that a bad word ends the run (R254); `none`: the read waits. -/
def readStop (c : Nat) (g : Run) (d : Dev) : Option (Nat × Dev) :=
  let a := g.desc.stopAddr
  if a = 0 then some (0, d)
  else if isHost a then
    match hostReadNow c a 8 d with
    | .ok fence d => some (leNat fence, d)
    | .error _ _ => none
  else if accessWaits d a then none
  else
    match curatorRead a 8 d with
    | (some (st, detail), _, d) => some (0, endRun c (.status st detail) d)
    | (none, fence, d) => some (leNat fence, d)

/-- The target and stop-fence checks (R99, R193); the schedule's end outside a partitioned run. -/
def stageChecks (c : Nat) (x : Ctx) (g : Run) (p : Problem) (d : Dev) : Bool × Dev :=
  match readStop c g d with
  | none => (false, d)
  | some (v, d) =>
  let reached := g.desc.stopAtTarget && x.boundary.isNone && decide (p.best ≤ g.desc.target)
  let fenced := g.desc.stopAddr != 0 && decide (g.desc.stopValue ≤ v)
  let d := modRun c (fun g => { g with reached := reached, fenced := fenced }) d
  (true,
   if reached then endRun c .target d
   else if fenced then endRun c .stopFence d
   else if scheduleOver g && x.boundary.isNone then endRun c .schedule d
   else d)

/-- A STATE record (R181): it waits for a credit. -/
def stageState (c : Nat) (x : Ctx) (g : Run) (p : Problem) (i : Nat) (d : Dev) : Bool × Dev :=
  match g.flight, (runStreams x g).find? (fun s => s.2 == i) with
  | some f, some (s, _) =>
    if s.credits = 0 then (false, d)
    else
      let act : Act Unit := do
        devWrite (slotAddr s s.produced) (stateRecord p s (nextEpoch g - 1))
        change (modStream c f i (fun s => recordDone { s with credits := s.credits - 1 }))
      doneIf (tryAct c act d) c d
  | _, _ => (true, d)

/-- The run ends by an abort or a fault. -/
def endsBadly (g : Run) : Bool :=
  match g.ending with
  | some (.status ..) => true
  | _ => false

/-- Decision emission (R196). A run that is stopped, or that a fault of this boundary ends, emits nothing. In the safe state
nothing is written, and nothing counts as written (R191, R198). -/
def stageEmit (c : Nat) (g : Run) (p : Problem) (d : Dev) : Bool × Dev :=
  match g.decision with
  | none => (true, d)
  | some k =>
    if endsBadly g then (true, d)
    else
    let final := g.ending.isSome || scheduleOver g
    let act : Act Unit := do
      let (k', n, lost) ← emitDecision p g.desc.part (nextEpoch g - 1) final k
      change (modRun c (fun g => { g with decision := some k' }))
      match g.flight with
      | some f => change (modFRun c f (fun r =>
          { r with decisions := r.decisions + (if d.fc.safeState then 0 else n), superseded := r.superseded + lost }))
      | none => pure ()
    doneIf (tryAct c act d) c d

/-- R194: every DELTA stream's watermark has reached the epoch. -/
def paceMet (x : Ctx) (g : Run) : Bool :=
  ((runStreams x g).filter (fun s => s.1.kind == skDelta)).all (fun s =>
    match s.1.watermark with
    | some w => decide (nextEpoch g ≤ w)
    | none => false)

/-- The pace wait. -/
def stagePace (c : Nat) (x : Ctx) (g : Run) (d : Dev) : Bool × Dev :=
  if !g.desc.pace || g.ending.isSome || scheduleOver g || paceMet x g then (true, modRun c (fun g => { g with waited := false }) d)
  else if g.waited then (false, d)
  else
    let d := modRun c (fun g => { g with waited := true }) d
    (false, match g.flight with
      | some f => modFRun c f (fun r => { r with paceWaits := r.paceWaits + 1 }) d
      | none => d)

def markApplied (c k : Nat) (d : Dev) : Dev :=
  modRun c (fun g => { g with decision := g.decision.map (fun y => { y with applied := some k }) }) d

/-- Updates and DELTA records due at the boundary (R66, R67, R183). -/
def stageUpdates (c : Nat) (x : Ctx) (g : Run) (d : Dev) : Bool × Dev :=
  if g.ending.isSome || scheduleOver g then (true, d)
  else
    let k := nextEpoch g
    let l := dueUpdates x k
    match applyDues c k k l d with
    | (false, d) => (false, d)
    | (true, d) =>
      let d := if l.isEmpty then d else markApplied c k d
      match g.flight with
      | none => (true, d)
      | some f =>
        let act : Act Unit := do
          let n ← applyDeltas c f k
          if n = 0 then pure () else change (markApplied c k)
        doneIf (tryAct c act d) c d

/-- The flight's counter record after an epoch (R191). -/
def stageCounters (c : Nat) (g : Run) (d : Dev) : Bool × Dev :=
  match g.flight with
  | none => (true, d)
  | some f =>
    let d := modFRun c f (fun r => { r with epoch := some (nextEpoch g - 1) }) d
    doneIf (tryAct c (writeCounters c f) d) c d

/-- A mirror checkpoint at the end of every CHECK_EVERY-th epoch (R238). -/
def stageMirror (c : Nat) (g : Run) (d : Dev) : Bool × Dev :=
  match mirrorCtx d c with
  | none => (true, d)
  | some m =>
    if nextEpoch g % m.checkEvery ≠ 0 then (true, d)
    else if forwards d c then (true, sendPoint c true true (nextEpoch g - 1) d)
    else if isSecondary d && m.mark == 0 && hushed d c then (false, reachPoint c d)
    else if isSecondary d && m.mark == 2 && mirrorGoes d c then (true, leavePoint c d)
    else if isSecondary d && m.mark != 0 then (false, d)
    else (true, d)

/-- The verdict of the previous checkpoint (R212, step 1). -/
def stageVerdict (c : Nat) (b : Boundary) (g : Run) (d : Dev) : Bool × Dev :=
  let k := nextEpoch g
  if !isCheckpoint b g k || k == 0 || g.ending.isSome then (true, d)
  else if b.run.lastCheck = some (checkpointBefore b k) then
    let d := modBRun c (fun r => { r with vwaited := false }) d
    match b.run.verdict with
    | some v => (true, if v.targetMet then endRun c .target (modRun c (fun g => { g with reached := true }) d) else d)
    | none => (true, d)
  else
    (false, if b.run.vwaited then d
            else modBRun c (fun r => { r with vwaited := true, verdictWaits := r.verdictWaits + 1 }) d)

/-- The frames of epoch max(0, k − L) (R212, step 5). -/
def stageFrames (c : Nat) (b : Boundary) (g : Run) (p : Problem) (d : Dev) : Bool × Dev :=
  let e := nextEpoch g - b.stale
  if g.ending.isSome then (true, d)
  else if framesIn b e then (true, installFrames c e p b (modBRun c (fun r => { r with waited := false }) d))
  else
    (false, if b.run.waited then d
            else modBRun c (fun r => { r with waited := true, frameWaits := r.frameWaits + 1 }) d)

/-- Hellos (R213): the run begins when every entry's hello has come and none is a mismatch. -/
def stageHellos (c : Nat) (b : Boundary) (g : Run) (p : Problem) (d : Dev) : Bool × Dev :=
  if g.ending.isSome then (true, d)
  else
    match helloBad b p g with
    | some part => (true, endRun c (.status stBadFormat (itemReason part rsHello)) d)
    | none => if hellosIn b then (true, beginRun c d) else (false, d)

/-- The updates that wait on a run when it ends (R66, R68). -/
def stageLastUpdates (c : Nat) (x : Ctx) (g : Run) (d : Dev) : Bool × Dev :=
  if g.ending.isNone then (true, d)
  else
    let k := nextEpoch g
    let here (u : Update) : Bool := !u.explicit || decide (u.epoch < k)
    match applyDues c noEpoch k (sortUpdates k (x.updates.filter here)) d with
    | (false, d) => (false, d)
    | (true, d) => (true, (x.updates.filter (fun u => !here u)).foldl (fun d u => registerUpdate c u d) d)

/-- A run that ends waits until its trace is written. -/
def stageFlush (c : Nat) (g : Run) (d : Dev) : Bool × Dev :=
  if g.ending.isNone then (true, d)
  else
    let g' := stageItems g.spare { g with traced := g.traced + entriesIn g.spare, spare := [] }
    (g'.staging.isEmpty && g'.unstaged.isEmpty, modRun c (fun _ => g') d)

/-- Step 4 of R99 ends when every entry of the sweep is in the staging. -/
def stageStaged (c : Nat) (g : Run) (d : Dev) : Bool × Dev :=
  let g' := stageItems [] g
  (g'.unstaged.isEmpty, modRun c (fun _ => g') d)

/-- READ_STATEs that still wait when a run ends (R117). -/
def stageLastSnapshots (c : Nat) (x : Ctx) (g : Run) (d : Dev) : Bool × Dev :=
  if g.ending.isNone then (true, d) else takeSnapshots c x.snapshots d

/- The end of a run. -/

/-- The detail word of a run (R107, R192). -/
def runDetail (g : Run) : Nat :=
  low 48 g.sweep + ofBool g.reached * 2 ^ 48 + ofBool g.fenced * 2 ^ 49

/-- What a run ends with: status and detail word. -/
def runStatus (g : Run) (e : RunEnd) : Nat × Nat :=
  match e with
  | .schedule | .target => (stOk, runDetail g)
  | .stopFence => (stOk, runDetail { g with fenced := true })
  | .status code detail =>
    if code = stOk ∨ code = stAborted ∨ code = stAbortedDisabled then (code, runDetail g) else (code, detail)

/-- The end record and the notices of a partitioned run (R218, R219): a run that ends by its schedule or its target, and
one that a notice ended, sends none. -/
def endPart (b : Boundary) (g : Run) (e : RunEnd) (d : Dev) : Dev :=
  let kind := endKindOf e (match e with | .status _ detail => bits detail 48 8 | _ => 0)
  let d := writeEnd b g kind d
  if b.run.notice.isSome || kind == .schedule || kind == .target then d else sendNotices b b.part kind d

/-- A decision record still held goes to the ring, or stays with its channel (R197). -/
def endDecision (c : Nat) (k : Decision) (d : Dev) : Dev :=
  let d := { d with channels := d.channels.erase k.channel }
  if k.held.isNone then d else writeLeft k.channel { d with heldOut := d.heldOut ++ [(c, k)] }

/-- A run leaves its context, and its op, or its flight, has the outcome (R107, R189, R192). -/
def finishRun (c : Nat) (x : Ctx) (g : Run) (e : RunEnd) (d : Dev) : Dev :=
  let (st, detail) := runStatus g e
  let d := match x.boundary with
    | some b => asCtx c (endPart b g e) d
    | none => d
  let d := match g.decision with
    | some k => endDecision c k d
    | none => d
  let d := modCtx c (fun x => { x with run := none, boundary := x.boundary.map (fun b => { b with run := {} }) }) d
  match g.flight with
  | some f => settleFlight c f (modFRun c f (fun r => { r with ended := some (st, detail, g.desc.seed, g.desc.drawn) }) d)
  | none => opOutcome g.q g.idx { status := st, detail := detail, seed := g.desc.seed, seedDrawn := g.desc.drawn } d

/-- One stage: whether it is done, and the device after it. -/
def stageDo (c : Nat) (s : Stage) (d : Dev) : Bool × Dev :=
  match ctxOf d c with
  | some x =>
    match x.run, x.problem with
    | some g, some p =>
      let k := nextEpoch g
      match s with
      | .staged => stageStaged c g d
      | .checks => stageChecks c x g p d
      | .snapshots => takeSnapshots c x.snapshots d
      | .stateRecord i => stageState c x g p i d
      | .emit => stageEmit c g p d
      | .pace => stagePace c x g d
      | .updates => stageUpdates c x g d
      | .counters => stageCounters c g d
      | .mirror => stageMirror c g d
      | .march => (g.ending.isSome || !marchHolds d x, d)
      | .lastUpdates => stageLastUpdates c x g d
      | .flush => stageFlush c g d
      | .lastSnapshots => stageLastSnapshots c x g d
      | .finish =>
        match g.ending with
        | some e => (true, finishRun c x g e d)
        | none => (true, d)
      | s =>
        match x.boundary with
        | none => (true, d)
        | some b =>
          match s with
          | .hellos => stageHellos c b g p d
          | .verdict =>
            let d := settleVerdict c (checkProgress c d)
            stageVerdict c (((ctxOf d c).bind (fun x => x.boundary)).getD b) g d
          | .sendFrame => (true, if g.ending.isSome then d else sendFrames c k p b d)
          | .checkpoint =>
            (true, if g.ending.isSome || !isCheckpoint b g k then d else checkProgress c (takeCheckpoint c k p b d))
          | .final =>
            let d := settleVerdict c (checkProgress c d)
            let b := ((ctxOf d c).bind (fun x => x.boundary)).getD b
            if g.ending.isSome || k != runEpochs g then (true, d)
            else if b.run.lastCheck = some k then
              (true, endRun c .schedule (modRun c (fun g =>
                { g with reached := (match b.run.verdict with | some v => v.targetMet | none => false) }) d))
            else (false, d)
          | .frames => stageFrames c b g p d
          | _ => (true, d)
    | _, _ => (true, d)
  | none => (true, d)

def setTodo (c : Nat) (l : List Stage) (d : Dev) : Dev := modRun c (fun g => { g with todo := l }) d

/-- Stages run in order until one must wait. -/
def advance (c : Nat) : List Stage → Dev → Dev
  | [], d => setTodo c [] d
  | s :: t, d =>
    match stageDo c s d with
    | (true, d) => advance c t d
    | (false, d) => setTodo c (s :: t) d

/-- The run stops now: it was told to, no sweep is in progress, and its end was not fixed before, or its last decision or
STATE record has still to wait, which a stop does not write (R107, R190). -/
def stopsNow (g : Run) : Bool :=
  g.stop.isSome && (g.ending.isNone ||
    (match g.todo with
     | .stateRecord _ :: _ | .emit :: _ => true
     | _ => false))

/-- A run that waits goes on as far as it may; one that was told to stop and has no sweep in progress ends. -/
def resumeRun (c : Nat) (d : Dev) : Dev :=
  match (ctxOf d c).bind (fun x => x.run) with
  | none => d
  | some g =>
    if g.inSweep then d
    else if !mirrorGoes d c && g.stop.isNone then d
    else if stopsNow g then
      advance c stopStages (modRun c (fun g => { g with ending := g.stop }) d)
    else advance c g.todo d

/-- Every run that waits goes on. -/
def resumeRuns (d : Dev) : Dev := d.ctxs.foldl (fun d p => resumeRun p.1 d) d

/- SWEEP_END (R99). -/

/-- The sweep in progress has nothing left to decide, and no tread of the problem is held (R25, R268). -/
def sweepDue (d : Dev) (c : Nat) (g : Run) (p : Problem) : Bool :=
  phaseDecided g p && decide (g.phase + 1 = sweepPhases g p) && clustersOver d c g p && !p.blocks.any (spanWaits d)

/-- The halls whose buses have still to carry flips of a run. -/
def flipsDue (c : Nat) (d : Dev) : List Nat :=
  match (ctxOf d c).bind (fun x => x.run) with
  | some g => (g.flips.flatMap (fun f => f.halls)).eraseDups
  | none => []

/-- Bus cycles until a run's last flips are carried (R99, step 1); a bus that cannot advance leaves them. -/
def carryLast (c : Nat) : Nat → Dev → Dev
  | 0, d => d
  | n + 1, d =>
    match flipsDue c d with
    | [] => d
    | l => carryLast c n (l.foldl (fun d h => flipSlotGrant h d) d)

/-- Cycles that carry every flip that waits on a bus. -/
def cyclesDue (d : Dev) : Nat :=
  (d.ctxs.map (fun x => match x.2.run with | some g => g.flips.length | none => 0)).foldl (· + ·) 0

/-- CLUSTER records of ended epochs leave their slots. -/
def freeRecords (c : Nat) (g : Run) (d : Dev) : Dev :=
  match g.flight with
  | some f => modFlight c f (fun y =>
      { y with streams := y.streams.map (fun s => if s.kind = skCluster then freeClusters (g.sweep / g.desc.epochSweeps) s else s) }) d
  | none => d

/-- Steps 1 to 4 and 6 of R99: the run and the problem after them. -/
def sweepActions (g : Run) (p : Problem) : Run × Problem :=
  let p := compareBests (settleFlips g p)
  let z := if exchangePoint g then ({ g with exchanges := g.exchanges + 1 }, exchangeAll g p) else (g, p)
  let z := traceSweep z.1 z.2
  let g := countSweep z.1
  (g, { z.2 with sweeps := g.sweep })

/-- Words of a problem's block storage and spill area that a sweep reads and that do not read clean: the first word of each
range, where an armed error shows, and the words with errors (R253, R254). -/
def badWords (p : Problem) (m : Memory) : List Nat :=
  let rs := p.blocks.flatMap storageRanges
  let all := rs ++ p.spillArea.toList
  rs.map (fun r => r.1 / 8 * 8) ++
    (m.ue ++ m.writeback).filter (fun w => all.any (fun r => decide (r.1 < w + 8) && decide (w < r.1 + r.2)))

/-- The sweep's reads of block storage: an uncorrectable word fails the run (R254). -/
def readStorage (c : Nat) (p : Problem) (d : Dev) : Dev :=
  match readWords (badWords p d.mem) d with
  | (some w, d) => stopRun c (.status stDeviceFault (detailDevAddr w)) d
  | (none, d) => d

/-- A sweep whose flips are carried ends; at the end of an epoch, of the schedule or of a stopped run the further actions
follow. -/
def closeSweep (c : Nat) (d : Dev) : Dev :=
  match runOf d c with
  | none => d
  | some (g, p) =>
    if sweepDue d c g p && g.flips.isEmpty then
      let (g, p) := sweepActions g p
      let epoch := g.sweep % g.desc.epochSweeps == 0 || scheduleOver g
      let g := if epoch then { g with clusters := g.clusters.map (fun k => (k.1, 0, 0)) } else g
      let d := readStorage c p (opSteps g.q 1 (setRunProblem c g p d))
      match ctxOf d c with
      | some x =>
        if (x.run.bind (fun g => g.stop)).isSome then resumeRun c d
        else if epoch then advance c (epochStages x g) (freeRecords c g d)
        else advance c [.staged] d
      | none => d
    else d

/-- A sweep ends once its last flips are carried. -/
def sweepEnd (c : Nat) (d : Dev) : Dev :=
  match runOf d c with
  | none => d
  | some (g, p) => if sweepDue d c g p then closeSweep c (carryLast c (cyclesDue d) d) else d

/-- SWEEP_END (R99): the end of the sweep in progress, or what an earlier end left waiting. -/
def execSweepEnd (c : CtxId) (s : State) : Host.Outcome State Fault Refusal :=
  onMem (fun d => resumeRun c.val (sweepEnd c.val d)) s

/- The trace staging (R116). -/

/-- One staged write: an entry, or the count. -/
def stagedWrite (t : TraceItem) : Act Unit :=
  if t.entry || !isHost t.addr then wr t.addr t.data
  else do
    checkDest t.addr 8
    change (countStore t.addr (leNat t.data))

/-- An entry is written at `a` into the ring of the run: it is counted, and rings of other runs that held the slot lose
their entries (R116). -/
def countEntry (g : Run) (a : Nat) (l : List (Nat × Nat × Nat)) : List (Nat × Nat × Nat) :=
  l.filterMap (fun r =>
    if r.1 = g.desc.ringAddr ∧ r.2.1 = g.desc.ringEntries then some (r.1, r.2.1, r.2.2 + 1)
    else if r.1 < a + 32 ∧ a < r.1 + 32 * r.2.1 then none
    else some r)

/-- Staged writes in order, as far as none must wait; a failing one ends the run with its status. -/
def drainStaging (c : Nat) (g : Run) : List TraceItem → Dev → Dev
  | [], d => modRun c (fun g => stageItems [] { g with staging := [] }) d
  | t :: l, d =>
    match tryAct c (stagedWrite t) d with
    | none => modRun c (fun g => stageItems [] { g with staging := t :: l }) d
    | some (d, some (st, detail)) =>
      modRun c (fun g =>
        { g with staging := [], unstaged := [], spare := [], desc := { g.desc with trace := false }
                 ending := g.ending.map (fun _ => .status st detail) }) (stopRun c (.status st detail) d)
    | some (d, none) =>
      drainStaging c g l (if t.entry then
        modCtx c (fun x => { x with traceRings := countEntry g t.addr x.traceRings }) d else d)

/-- TRACE_STAGING_DRAIN (R116). -/
def execTraceStagingDrain (c : CtxId) (s : State) : Host.Outcome State Fault Refusal :=
  onMem (fun d =>
    match (ctxOf d c.val).bind (fun x => x.run) with
    | some g => resumeRun c.val (drainStaging c.val g g.staging d)
    | none => d) s

/-- Space in the ring of a decision channel: a held record is written, a waiting run goes on (R197). -/
def ringSpace (ch : Nat) (d : Dev) : Dev :=
  let d := writeLeft ch d
  d.ctxs.foldl
    (fun d p =>
      match p.2.run.bind (fun g => g.decision.map (fun k => (g, k))) with
      | some (g, k) =>
        if k.channel = ch then
          let act : Act Unit := do
            let k' ← writeHeld k
            change (modRun p.1 (fun g => { g with decision := some k' }))
            match g.flight with
            | some f => change (modFRun p.1 f (fun r => { r with decisions := r.decisions + (if d.fc.safeState then 0 else k'.seq - k.seq) }))
            | none => pure ()
          resumeRun p.1 (match tryAct p.1 act d with
            | some (d', bad) => endBad p.1 bad d'
            | none => d)
        else d
      | none => d) d

/-- DECISION_RING_SPACE (R197). -/
def execDecisionRingSpace (channel : Fin 64) (s : State) : Host.Outcome State Fault Refusal :=
  onMem (ringSpace channel.val) s

/-- PACE_RELEASE (R194). -/
def execPaceRelease (c : CtxId) (s : State) : Host.Outcome State Fault Refusal :=
  onMem (resumeRun c.val) s

/- ANNEAL and STAND. -/

def bodyRun (stand : Bool) : Body := fun env r => do
  let h ← descriptor env r 128
  let plan ← runChecks env stand false (fun _ => pure ()) h
  let (seed, drawn) ← seedOf env (u64 h 8)
  change (setupRun env none (runDescOf stand h seed drawn) plan)
  pure (.running .run 0)

/-- What follows the issue of an op; nothing does where none issued. -/
def afterIssue (f : Dev → Dev) (d d' : Dev) : Dev := if d' = d then d else f d'

/-- An op row whose op starts a run: the run's first stages follow its issue. -/
def runRow (q : QRef) (code : Nat) (body : Body) (s : State) : Host.Outcome State Fault Refusal :=
  onMem (fun d =>
    afterIssue (resumeRun ((queueOf d q).cur.map (fun e => e.ctx) |>.getD 0xFFFF)) d
      (issueOp q (isOpcode code) body d)) s

/-- ANNEAL (R107). -/
def execAnneal (q : QRef) (s : State) : Host.Outcome State Fault Refusal := runRow q 0x43 (bodyRun false) s

/-- STAND (R192). -/
def execStand (q : QRef) (s : State) : Host.Outcome State Fault Refusal := runRow q 0x44 (bodyRun true) s

end Sys2Proof.Machine
end

