-- ==== Sys2Proof/Machine/Tiles.lean ====
section
/-! DEFINITION. Tiles on their way out: END requests, swaps, drains, the end of the ops that wait for them, and context
switches (R154 to R157, R165 to R167). -/

namespace Sys2Proof.Machine

/-- The landing copies of a granule range are free (R154). -/
def landingFree (x : Ctx) (h t a n : Nat) : Bool :=
  x.tiles.all (fun k => !((k.state == .landed || k.state == .draining) && k.hall == h && k.tread == t &&
    granulesMeet k.granule (tileSize k) a n))

/-- The tile of a tread that drains next: the first that swapped (R155). -/
def nextDrain (x : Ctx) (h t : Nat) : Option Nat :=
  let l := x.tiles.filter (fun k => k.state == .landed && k.hall == h && k.tread == t)
  l.foldl (fun m k => match m with
    | none => some k.order
    | some o => some (min o k.order)) none

/-- With the output path idle, the next LANDED tile starts to drain. -/
def startDrain (h t : Nat) (x : Ctx) : Ctx :=
  if x.tiles.any (fun k => k.state == .draining && k.hall == h && k.tread == t) then x
  else
    match nextDrain x h t with
    | some o => { x with tiles := x.tiles.map (fun k => if k.state == .landed && k.order == o then { k with state := .draining } else k) }
    | none => x

/-- A tile swaps: it becomes LANDED. -/
def swapTile (k : Tile) (x : Ctx) : Ctx :=
  { x with tiles := x.tiles.map (fun t => if t == k then { t with state := .landed, order := x.tileOrder } else t)
           tileOrder := x.tileOrder + 1 }

/-- The tile of a tread that starts at a granule, in a state. -/
def tileAt (x : Ctx) (h t g : Nat) (st : TileState) : Option Tile :=
  x.tiles.find? (fun k => k.state == st && k.hall == h && k.tread == t && k.granule == g)

/-- The tread holds the context's tiles now (R165). -/
def onTread (d : Dev) (c h t : Nat) : Bool := tabGet? (640 * h + t) d.treadCtx == some c

/- Context switches (R165, R166). -/

/-- An op of the context still sums into tiles of the tread, or one drains there. -/
def treadBusy (x : Ctx) (h t : Nat) : Bool :=
  x.tiles.any (fun k => k.hall == h && k.tread == t && (k.state == .draining || (k.state == .opened && k.endReq.isSome)))

/-- The next drain of a tread starts, unless the tread waits for a switch (R155, R165). -/
def drainNext (c h t : Nat) (d : Dev) : Dev :=
  if (tabGet? (640 * h + t) d.switches).isSome then d else modCtx c (startDrain h t) d

/-- The incoming context's granules and tile map are back on the tread: its LANDED tiles drain in their order (R166). -/
def arrive (c h t : Nat) (d : Dev) : Dev :=
  drainNext c h t (takeTreads c h [t] { d with switches := tabDel (640 * h + t) d.switches })

/-- A switch that a tread waits for is made with no op of the outgoing context and no drain on it: the outgoing context's
tiles go to its save area, whose layout is no part of the interface (R165). -/
def trySwitch (h t : Nat) (d : Dev) : Dev :=
  match tabGet? (640 * h + t) d.switches with
  | none => d
  | some c =>
    if (ctxOf d c).isNone then { d with switches := tabDel (640 * h + t) d.switches }
    else match (tabGet? (640 * h + t) d.treadCtx).bind (fun o => ctxOf d o) with
    | none => arrive c h t d
    | some y =>
      if treadBusy y h t then d
      else if y.tiles.all (fun k => !(k.hall == h && k.tread == t)) || y.saveBytes == 0 then arrive c h t d
      else arrive c h t (freshMark (.span y.saveBase y.saveBytes) d)

/-- CONTEXT_SWITCH: the switch is made at once, or after the drain in progress and the tails of the ops on the tread. -/
def contextSwitch (h t c : Nat) (d : Dev) : Dev :=
  match ctxOf d c with
  | none => d
  | some x =>
    if !usesGallery x h (t / 32) || onTread d c h t then d
    else trySwitch h t { d with switches := tabSet (640 * h + t) c d.switches }

/-- END_REQUEST (R154). -/
def endRequest (c h t g : Nat) (d : Dev) : Dev :=
  if !onTread d c h t then d
  else
    trySwitch h t (drainNext c h t (modCtx c (fun x =>
      match tileAt x h t g .opened with
      | some k =>
        if k.endReq.isNone then x
        else if landingFree x h t g (tileSize k) then swapTile k x
        else { x with tiles := x.tiles.map (fun y => if y == k then { y with state := .swapPending } else y) }
      | none => x) d))

/-- TILE_SWAP (R154). -/
def tileSwap (c h t g : Nat) (d : Dev) : Dev :=
  if !onTread d c h t then d
  else
    drainNext c h t (modCtx c (fun x =>
      match tileAt x h t g .swapPending with
      | some k => if landingFree x h t g (tileSize k) then swapTile k x else x
      | none => x) d)

/- The ops that wait for tiles. -/

/-- The end of a body op is kept with its firing; a failure stops the flight (R190). -/
def bodyOutcome (c f step num status detail : Nat) (d : Dev) : Dev :=
  let entry := (((ctxOf d c).bind (fun x => tabGet? f x.flights)).bind (fun y => (y.steps[step]?).bind (fun s =>
    s.firing.bind (fun g => (g.ops.find? (fun o => o.num == num)).map (fun o => o.entry))))).getD 0xFFFF
  let d := modCtx c (fun x =>
    { x with flights := x.flights.map (fun y =>
        if y.1 = f then
          (y.1, { y.2 with steps := modAt step (fun s =>
              { s with firing := s.firing.map (fun g =>
                  { g with ops := g.ops.map (fun o =>
                      if o.num = num then { o with status := some (status, detail) } else o) }) }) y.2.steps })
        else y) }) d
  if stGood status then d
  else
    stopFlight c f status detail (modCtx c (fun x =>
      { x with flights := x.flights.map (fun y =>
          if y.1 = f then
            (y.1, { y.2 with run := y.2.run.map (fun r =>
                if r.failStep.isNone && r.stop.isNone then { r with failStep := some (step, entry) } else r) })
          else y) }) d)

/-- What an op that ended its tiles reports (R146, R156, R167). -/
def tileOut (o : TileOp) : OpOut :=
  match o.stop, o.bad with
  | _, some a => { status := stDeviceFault, detail := a, longRed := o.long }
  | some st, none => { status := st, detail := countDetail o.nan o.inf o.poison, longRed := o.long }
  | none, none => { detail := countDetail o.nan o.inf o.poison, longRed := o.long }

/-- An op whose last tile has gone has its outcome. -/
def settleTiles (c : Nat) (u : TileUser) (d : Dev) : Dev :=
  match ctxOf d c with
  | none => d
  | some x =>
    if x.tiles.any (fun t => t.user == some u) then d
    else
      match x.tileOps.find? (fun o => o.user == u) with
      | none => d
      | some o =>
        let d := setCtx c { x with tileOps := x.tileOps.filter (fun p => p.user != u) } d
        let r := tileOut o
        match u with
        | .op q i => opOutcome q i r d
        | .body f s e => bodyOutcome c f s e r.status r.detail d

/- Drains. -/

/-- The vector element of a row or a column of the output record. -/
def vecElem (e : OpEnv) (mode a fixed row col : Nat) : Act FV := do
  if mode = 1 then pure (f32Of fixed)
  else if mode = 2 then do
    let b ← rd e (low 64 (a + 4 * col)) 4
    pure (f32Of (leNat b))
  else if mode = 3 then do
    let b ← rd e (low 64 (a + 4 * row)) 4
    pure (f32Of (leNat b))
  else pure FV.zero

/-- The columns of a tile that lie inside M × N. -/
def tileCols (t : Tile) (o : TileOut) : Nat := min t.w (o.n - o.col)

/-- One row of a tile is converted and written (R157, R160, R161). -/
def drainRow (e : OpEnv) (t : Tile) (o : TileOut) (i : Nat) : Act Unit := do
  let r := o.record
  let row := o.row + i
  let cols := tileCols t o
  let codes ← (List.range cols).mapM (fun j => do
    let col := o.col + j
    let s ← vecElem e (oScaleMode r) (u64 r 0x18) (u32 r 0x14) row col
    let b ← vecElem e (oBiasMode r) (u64 r 0x20) (u32 r 0x28) row col
    pure (outElem r s b (slotNum t.fmt (t.vals.getD (i * t.w + j) 0))))
  let a := low 64 (oAddr r + o.offset + row * oLd r + o.col * fmtBits (oFmt r) / 8)
  let n := packedBytes (oFmt r) cols
  let d ← get
  wr a (packCodes (oFmt r) ((fetch d (a + n - 1) 1).headD 0) codes)

/-- The elements of a tile inside M × N that are NaN, infinite or poison (R146). -/
def tileCount (t : Tile) (o : TileOut) : NumCount :=
  (List.range t.h).foldl (fun k i =>
    if o.row + i < o.m then
      (List.range (tileCols t o)).foldl (fun k j => countNum k (slotNum t.fmt (t.vals.getD (i * t.w + j) 0))) k
    else k) {}

/-- All of a tile's elements are written. -/
def drainTileOut (e : OpEnv) (t : Tile) (o : TileOut) : Act Unit :=
  ((List.range t.h).filter (fun i => decide (o.row + i < o.m))).forM (drainRow e t o)

def addCount (u : Option TileUser) (k : NumCount) (x : Ctx) : Ctx :=
  { x with tileOps := x.tileOps.map (fun p =>
      if u = some p.user then
        { p with nan := p.nan + k.nan, inf := p.inf + k.inf, poison := p.poison + k.poison, left := p.left - 1 }
      else p) }

/-- A drain of an op met an uncorrectable word: the op stops (R254). -/
def failTileOp (u : Option TileUser) (a : Nat) (x : Ctx) : Ctx :=
  { x with tiles := stopTiles (fun v => u == some v) x.tiles
           tileOps := x.tileOps.map (fun p => if u = some p.user then { p with bad := some a } else p) }

/-- The op steps of a tile written out (Table 12.13). -/
def tileStep (u : Option TileUser) (d : Dev) : Dev :=
  match u with
  | some (.op q _) => opSteps q 1 d
  | _ => d

/-- TILE_DRAIN_END (R155, R156): the tile's elements reach memory, its landing copies are free, and the next drain
starts; an op whose last tile this was has its outcome. -/
def tileDrainEnd (c h t : Nat) (d : Dev) : Dev :=
  match ctxOf d c with
  | none => d
  | some x =>
    match x.tiles.find? (fun k => k.state == .draining && k.hall == h && k.tread == t) with
    | none => d
    | some k =>
      if !onTread d c h t then d
      else
        match k.endReq with
        | none => d
        | some o =>
          let e : OpEnv := { q := .kernel 0, idx := 0, off := 0, ctx := c, drawn := none, hostOk := true }
          let gone (x : Ctx) : Ctx := { x with tiles := x.tiles.filter (fun y => y != k) }
          let settle (d : Dev) : Dev :=
            let d := trySwitch h t (drainNext c h t d)
            match k.user with
            | some u => settleTiles c u { d with actor := none }
            | none => { d with actor := none }
          match (drainTileOut e k o).run { d with actor := some c } with
          | .ok _ d => settle (modCtx c (fun x => gone (addCount k.user (tileCount k o) x)) (tileStep k.user d))
          | .error (.fail _ a) d => settle (modCtx c (fun x => gone (failTileOp k.user a x)) d)
          | .error _ _ => d

/-- END_REQUEST (R154). -/
def execEndRequest (c : CtxId) (h : Hall) (t : HTread) (granule : Fin 32) (s : State) :
    Host.Outcome State Fault Refusal :=
  onDev (endRequest c.val h.val t.val granule.val) s

/-- TILE_SWAP (R154). -/
def execTileSwap (c : CtxId) (h : Hall) (t : HTread) (granule : Fin 32) (s : State) :
    Host.Outcome State Fault Refusal :=
  onDev (tileSwap c.val h.val t.val granule.val) s

/-- TILE_DRAIN_END (R155). -/
def execTileDrainEnd (c : CtxId) (h : Hall) (t : HTread) (s : State) : Host.Outcome State Fault Refusal :=
  onMem (tileDrainEnd c.val h.val t.val) s

/-- CONTEXT_SWITCH (R165). -/
def execContextSwitch (h : Hall) (t : HTread) (c : CtxId) (s : State) : Host.Outcome State Fault Refusal :=
  onDev (contextSwitch h.val t.val c.val) s

end Sys2Proof.Machine
end

