-- ==== Sys2Proof/Machine/Flights.lean ====
section
/-! DEFINITION. FLIGHT_RUN and what its steps do: firings and their body ops, notices and credits, measurement ingest (R178
to R189, R191, R194). -/

namespace Sys2Proof.Machine

/- FLIGHT_RUN (Table 7.13, R188). -/

def frKind (h : Bytes) : Nat := bits (u16 h 2) 2 2

def flightRunBad (h : Bytes) : Option Nat :=
  lowestBad
    [(0, u16 h 0 == 3), (2, bits (u16 h 2) 4 12 == 0 && frKind h != 3), (8, frKind h != 0 || u64 h 8 == 0),
     (0x10, u64 h 0x10 % 8 == 0), (0x18, (nonzeroIn h 0x18 40).isNone)]

/-- R184: the first CLUSTER stream whose slot cannot hold an epoch's proposals. -/
def clusterShort (y : Flight) (es : List SchedEntry) (epochSweeps : Nat) : Option Nat :=
  let most := es.foldl (fun n e => max n e.clusters) 0
  y.streams.findIdx? (fun s => s.kind == skCluster && decide (s.slotBytes < epochSweeps * most * clusterStride s))

/-- R184's check of the CLUSTER streams against the schedule. -/
def clusterRoom (y : Flight) (epochSweeps : Nat) (es : List SchedEntry) : Act Unit :=
  match clusterShort y es epochSweeps with
  | some i => badFormat i rsStream
  | none => pure ()

/-- R188: the loaded problem still matches the build under R173, CLUSTER blocks too; any failure gives reason PROBLEM. -/
def checkStillFits (x : Ctx) (y : Flight) : Act Unit :=
  match y.steps.findIdx? (fun s => s.kind == fkAnneal) with
  | none => pure ()
  | some i =>
    requireFmt ((match y.steps[i]? with | some s => problemFits x y.problemId s | none => false) &&
      y.streams.all (fun s =>
        (s.kind != skDelta || mapFits x s.map) &&
        (s.kind != skCluster || (match x.problem with | some p => decide (s.block < p.blocks.length) | none => false))))
      i rsProblem

/-- The flight at the start of a run: streams reset, steps at rest. -/
def startFlight (r : FlightRun) (y : Flight) : Flight :=
  { y with
    streams := y.streams.map resetStream
    steps := y.steps.map (fun s =>
      { s with firing := none, firings := 0, creditWaits := 0, waited := false, tailSeen := s.consumed, frame := none,
               frames := 0 })
    run := some r }

/-- Null DATA records are slots of zero bytes (R179). -/
def placeNulls (y : Flight) : Act Unit :=
  y.streams.forM (fun s =>
    if s.kind = skData then
      (List.range s.prime).forM (fun k => devWrite (slotAddr s k) (List.replicate s.slotBytes 0))
    else pure ())

/-- FLIGHT_RUN (R188). -/
def bodyFlightRun : Body := fun env r => do
  let h ← descriptor env r 64
  let x ← needCtx env
  match flightRunBad h with
  | some o => badFormat o rsFHeader
  | none => pure ()
  let f := bits (u16 h 2) 0 2
  let kind := frKind h
  match flightOf x f with
  | none => failWith stBadContext anyDetail
  | some y => do
    requireFmt ((kind == 0) == y.steps.all (fun s => s.kind != fkAnneal)) 2 rsFRun
    checkStillFits x y
    if u64 h 0x10 = 0 then pure () else checkDest (u64 h 0x10) (128 + 16 * y.steps.length)
    let fr : FlightRun := { q := env.q, idx := env.idx, kind := kind, frameLimit := u32 h 4, counters := u64 h 0x10 }
    if kind = 0 then do
      require y.run.isNone stBusy anyDetail
      placeNulls y
      change (modFlight env.ctx f (startFlight fr))
      pure (.running (.flight f) 0)
    else do
      let stand := kind == 2
      let rh ← rd env (u64 h 8) 128
      let plan ← runChecks env stand (y.streams.any (fun s => s.kind == skDelta)) (clusterRoom y (u16 rh 0x10)) rh
      require y.run.isNone stBusy anyDetail
      let (seed, drawn) ← seedOf env (u64 rh 8)
      placeNulls y
      change (modFlight env.ctx f (startFlight fr))
      change (setupRun env (some f) (runDescOf stand rh seed drawn) plan)
      pure (.running (.flight f) 0)

/- The end of a run without an anneal (R189). -/

def inputsOf (y : Flight) (i : Nat) : List (FStream × Nat) := (numbered y).filter (fun s => s.1.consumer == i)
def outputsOf (y : Flight) (i : Nat) : List (FStream × Nat) := (numbered y).filter (fun s => s.1.producer == i)

def inputsHeld (y : Flight) (i : Nat) : Bool := (inputsOf y i).all (fun s => recordHeld s.1)
def creditsHeld (y : Flight) (i : Nat) : Bool := (outputsOf y i).all (fun s => decide (0 < s.1.credits))

/-- Steps that a set of steps feeds, in `n` rounds. -/
def fedBy (y : Flight) : Nat → List Nat → List Nat
  | 0, l => l
  | n + 1, l => fedBy y n ((l ++ (y.streams.filter (fun s => l.contains s.producer)).map (fun s => s.consumer)).eraseDups)

/-- The steps whose firings depend on frames: INGEST steps and those they feed, directly or through others (R189). -/
def frameSteps (y : Flight) : List Nat :=
  fedBy y y.steps.length ((y.steps.zipIdx.filter (fun s => s.1.kind == fkIngest)).map (fun s => s.2))

/-- Every INGEST step has delivered its frames, and every firing that depends on them has ended. -/
def framesOver (y : Flight) (r : FlightRun) : Bool :=
  let dep := frameSteps y
  r.kind == 0 && r.frameLimit != 0 &&
    y.steps.all (fun s => s.kind != fkIngest || decide (r.frameLimit ≤ s.frames)) &&
    y.streams.all (fun s => !dep.contains s.producer || s.flying == 0) &&
    y.steps.zipIdx.all (fun s => !dep.contains s.2 || s.1.kind != fkCompute || (s.1.firing.isNone && !inputsHeld y s.2))

/-- A flight's run completes when it is over. -/
def flightProgress (c f : Nat) (d : Dev) : Dev :=
  let d :=
    match (ctxOf d c).bind (fun x => flightOf x f) with
    | some y =>
      match y.run with
      | some r =>
        if framesOver y r && r.ended.isNone && r.stop.isNone then modFRun c f (fun r => { r with ended := some (stOk, 0, 0, false) }) d
        else d
      | none => d
    | none => d
  settleFlight c f d

/-- A flight's run that has been set up goes on: the stages of its anneal, then its end, if it is over. -/
def flightGoes (c : Nat) (d : Dev) : Dev := (List.range 4).foldl (fun d f => flightProgress c f d) (resumeRun c d)

/-- FLIGHT_RUN (R188). -/
def execFlightRun (q : QRef) (s : State) : Host.Outcome State Fault Refusal :=
  onMem (fun d =>
    afterIssue (flightGoes ((queueOf d q).cur.map (fun e => e.ctx) |>.getD 0xFFFF)) d
      (issueOp q (isOpcode 0x81) bodyFlightRun d)) s

/- Firings (R178). -/

/-- A run that starts firings and takes records. -/
def runLive (y : Flight) : Bool :=
  match y.run with
  | some r => r.ended.isNone && r.stop.isNone
  | none => false

/-- A tread of a step is held: its clock stands or it is under test (R25, R268). -/
def stepWaits (d : Dev) (s : FStep) : Bool :=
  s.ranges.any (fun r => (List.range (32 * r.2.2)).any (fun t => accessWaits d (scratchAddr r.1 (32 * r.2.1 + t))))

/-- A COMPUTE step fires: it takes its output credits. With every input held and a credit missing it waits. -/
def computeFiring (c f i : Nat) (d : Dev) : Dev :=
  match (ctxOf d c).bind (fun x => flightOf x f) with
  | none => d
  | some y =>
    match y.steps[i]? with
    | none => d
    | some s =>
      if s.kind != fkCompute || !runLive y || s.firing.isSome || !inputsHeld y i || !mirrorGoes d c || stepWaits d s then d
      else if creditsHeld y i then
        modFlight c f (fun y =>
          { y with
            streams := y.streams.map (fun t => if t.producer = i then { t with credits := t.credits - 1 } else t)
            steps := modAt i (fun s => { s with firing := some { next := 0, loops := [], ops := [] }, waited := false }) y.steps }) d
      else if s.waited then d
      else modStep c f i (fun s => { s with waited := true, creditWaits := s.creditWaits + 1 }) d

/-- The slot that the current firing uses of a stream (R176). -/
def firingSlot (y : Flight) (out : Bool) (k : Nat) : Nat :=
  match y.streams[k]? with
  | some s => slotAddr s (if out then s.produced else s.consumed)
  | none => 0

/-- Where the sequencer of a firing stands: the next op entry and the loop indices. -/
def firingAt (s : FStep) (g : Firing) : Nat × List (Nat × Nat) := passLoops s.body s.body.length g.next g.loops

/-- The wait of a body op: the previous op has completed, or OVERLAP (R177). -/
def bodyMayIssue (g : Firing) (b : BodyEntry) : Bool :=
  b.overlap || (match g.ops.getLast? with | some o => o.status.isSome | none => true)

/-- A body op has issued. -/
def bodyIssued (c f step i : Nat) (loops : List (Nat × Nat)) (status : Option (Nat × Nat)) (d : Dev) : Dev :=
  modStep c f step (fun s =>
    { s with firing := s.firing.map (fun g =>
        { next := i + 1, loops := loops, issued := g.issued + 1
          ops := g.ops.filter (fun o => o.status.isNone) ++ [{ num := g.issued, entry := i, status := status }] }) }) d

/-- BODY_OP_ISSUE (R176, R177). -/
def bodyOpIssue (c f step : Nat) (d : Dev) : Dev :=
  match (ctxOf d c).bind (fun x => flightOf x f) with
  | none => d
  | some y =>
    match y.run, y.steps[step]? with
    | some r, some s =>
      match s.firing with
      | none => d
      | some g =>
        let (i, loops) := firingAt s g
        match s.body[i]? with
        | none => d
        | some b =>
          if bodyMayIssue g b && mirrorGoes d c then
            let e : OpEnv := { q := r.q, idx := r.idx, off := 0, ctx := c, drawn := none, hostOk := true }
            let (desc, out) := bindEntry s.bindings i (innerIndex s.body loops i) (firingSlot y) b.desc b.out
            match bodyOpRun e (.body f step g.issued) b.opcode desc out { d with actor := some c } with
            | .ok (.done o _) d => bodyIssued c f step i loops (some (o.status, o.detail)) { d with actor := none }
            | .ok (.running _ _) d => bodyIssued c f step i loops none { d with actor := none }
            | .ok (.jump _ _) _ => d
            | .error (.fail st detail) d =>
              bodyOutcome c f step g.issued st detail (bodyIssued c f step i loops none { d with actor := none })
            | .error _ _ => d
          else d
    | _, _ => d

/-- R182: the header of a DELTA record, from the firing's inputs. -/
def deltaHeader (y : Flight) (i : Nat) (s : FStream) : Act Bytes := do
  let ins := inputsOf y i
  let (w, horizon, seq) ←
    match ins.find? (fun t => t.1.kind == skFrame) with
    | some t => do
      let h ← devRead (slotAddr t.1 t.1.consumed) 64
      pure (bits (u64 h 0) 0 49, bits (u64 h 8) 0 48, u64 h 0x10)
    | none =>
      match ins.find? (fun t => t.1.kind == skState) with
      | some t => do
        let h ← devRead (slotAddr t.1 t.1.consumed) 64
        let k := bits (u64 h 0) 0 48
        pure (low 48 (k + 1 + s.lag) + 2 ^ 48, 0, k)
      | none => pure (0, 0, 0)
  pure (padTo 64 (leBytes 8 w ++ leBytes 8 horizon ++ leBytes 8 seq ++ leBytes 4 s.map.length))

/-- The headers of the DELTA records that a firing produced are written. -/
def writeDeltaHeaders (y : Flight) (i : Nat) : Act Unit :=
  ((outputsOf y i).filter (fun s => s.1.kind == skDelta)).forM (fun s => do
    let h ← deltaHeader y i s.1
    devWrite (slotAddr s.1 s.1.produced) h)

/-- The records a firing consumed and produced: notices and credits leave. -/
def firingStreams (i : Nat) (l : List FStream) : List FStream :=
  l.map (fun s =>
    let s := if s.consumer = i then recordsFreed 1 s else s
    if s.producer = i then recordDone s else s)

/-- FIRING_END (R178). -/
def firingEnd (c f i : Nat) (d : Dev) : Dev :=
  match (ctxOf d c).bind (fun x => flightOf x f) with
  | none => d
  | some y =>
    match y.run, y.steps[i]? with
    | some r, some s =>
      match s.firing with
      | none => d
      | some g =>
        if mirrorGoes d c && decide (s.body.length ≤ (firingAt s g).1) && g.ops.all (fun o => o.status.isSome) then
          match tryAct c (writeDeltaHeaders y i) d with
          | none => d
          | some (d, some (st, detail)) => flightProgress c f (stopFlight c f st detail d)
          | some (d, none) =>
            let d := modFlight c f (fun y =>
              { y with streams := firingStreams i y.streams
                       steps := modAt i (fun s => { s with firing := none, firings := s.firings + 1 }) y.steps }) d
            flightProgress c f (opSteps r.q 1 d)
        else d
    | _, _ => d

/-- COMPUTE_FIRING (R178). -/
def execComputeFiring (c : CtxId) (f : Fin 4) (step : Fin 16) (s : State) : Host.Outcome State Fault Refusal :=
  onDev (computeFiring c.val f.val step.val) s

/-- BODY_OP_ISSUE (R177). -/
def execBodyOpIssue (c : CtxId) (f : Fin 4) (step : Fin 16) (s : State) : Host.Outcome State Fault Refusal :=
  onMem (bodyOpIssue c.val f.val step.val) s

/-- FIRING_END (R178). -/
def execFiringEnd (c : CtxId) (f : Fin 4) (step : Fin 16) (s : State) : Host.Outcome State Fault Refusal :=
  onMem (firingEnd c.val f.val step.val) s

/- Notices and credits (R179, R194). -/

def streamOfRun (d : Dev) (c f k : Nat) : Option FStream :=
  (ctxOf d c).bind (fun x => (flightOf x f).bind (fun y => if y.run.isSome then y.streams[k]? else none))

/-- A slot notice reaches its consumer. -/
def slotNotice (c f k : Nat) (d : Dev) : Dev :=
  match streamOfRun d c f k with
  | some s =>
    if s.kind = skDelta ∨ s.flying = 0 then d
    else flightProgress c f (modStream c f k (fun s => { s with flying := s.flying - 1, arrived := s.arrived + 1 }) d)
  | none => d

/-- A credit returns to its producer; a run that waits for a STATE credit goes on. -/
def streamCredit (c f k : Nat) (d : Dev) : Dev :=
  match streamOfRun d c f k with
  | some s =>
    if s.returning = 0 then d
    else resumeRun c (modStream c f k (fun s => { s with returning := s.returning - 1, credits := s.credits + 1 }) d)
  | none => d

/-- What a DELTA record adds to its stream's watermark (R194). -/
def deltaMark (d : Dev) (c : Nat) (h : DeltaHead) : Nat :=
  if h.explicit then max h.epoch (h.horizon - 1)
  else
    match (ctxOf d c).bind (fun x => x.run) with
    | some g => epochToStart g
    | none => 0

/-- A DELTA record arrives at the anneal step. -/
def deltaArrive (c f k : Nat) (d : Dev) : Dev :=
  match streamOfRun d c f k with
  | some s =>
    if s.kind ≠ skDelta ∨ s.flying = 0 ∨ !mirrorGoes d c then d
    else
      let act : Act Unit := do
        let h ← devRead (slotAddr s s.arrived) 64
        let d ← get
        let m := deltaMark d c (deltaHead h)
        change (modStream c f k (fun s =>
          { s with flying := s.flying - 1, arrived := s.arrived + 1
                   watermark := some (match s.watermark with | some w => max w m | none => m) }))
      match tryAct c act d with
      | none => d
      | some (d, some (st, detail)) => resumeRun c (stopRun c (.status st detail) d)
      | some (d, none) => resumeRun c d
  | none => d

/-- STREAM_SLOT_NOTICE (R179). -/
def execStreamSlotNotice (c : CtxId) (f : Fin 4) (stream : Fin 96) (s : State) : Host.Outcome State Fault Refusal :=
  onMem (slotNotice c.val f.val stream.val) s

/-- STREAM_CREDIT (R179). -/
def execStreamCredit (c : CtxId) (f : Fin 4) (stream : Fin 96) (s : State) : Host.Outcome State Fault Refusal :=
  onMem (streamCredit c.val f.val stream.val) s

/-- DELTA_RECORD_ARRIVE (R194). -/
def execDeltaRecordArrive (c : CtxId) (f : Fin 4) (stream : Fin 96) (s : State) : Host.Outcome State Fault Refusal :=
  onMem (deltaArrive c.val f.val stream.val) s

/- Measurement ingest (R185 to R187). -/

/-- A measurement record's header (Table 7.12). -/
def recEpoch (r : Bytes) : Nat := bits (u64 r 0) 0 48
def recExplicit (r : Bytes) : Bool := bit (u64 r 0) 48
def recEndFrame (r : Bytes) : Bool := bit (u64 r 0) 49
def recHorizon (r : Bytes) : Nat := bits (u64 r 8) 0 48
def recLength (r : Bytes) : Nat := bits (u64 r 8) 48 16

/-- R187: the record is invalid in its frame. -/
def recInvalid (slot : Nat) (b : FrameBuild) (r : Bytes) : Bool :=
  bits (u64 r 0) 50 14 != 0 || decide (slot - 16 < recLength r) || recEpoch r != b.epoch ||
    recExplicit r != b.explicit || (!recEndFrame r && recHorizon r != 0)

/-- A record as it is kept: header and payload, padded to 16 bytes. -/
def recKept (r : Bytes) : Bytes := padTo (ceilDiv (16 + recLength r) 16 * 16) (r.take (16 + recLength r))

/-- A record taken into its frame, of which the slot holds `room` bytes. -/
def takeRecord (slot room : Nat) (r : Bytes) (b : FrameBuild) : FrameBuild :=
  if recInvalid slot b r then { b with invalid := b.invalid + 1 }
  else if room < 64 + b.kept.length + (recKept r).length then { b with overflow := b.overflow + 1 }
  else { b with kept := b.kept ++ recKept r, records := b.records + 1 }

/-- The FRAME record of a closed frame (Table 7.11). -/
def frameRecord (b : FrameBuild) (seq horizon : Nat) : Bytes :=
  padTo 64 (leBytes 8 (b.epoch + 2 ^ 48 * ofBool b.explicit) ++ leBytes 8 horizon ++ leBytes 8 seq ++ leBytes 4 b.records ++
    leBytes 4 b.kept.length ++ leBytes 4 b.invalid ++ leBytes 4 b.overflow) ++ b.kept

/-- The head count of a step that owes it is written, once the link has acknowledged the log (R239). -/
def payHead (c f i : Nat) (d : Dev) : Dev :=
  match (ctxOf d c).bind (fun x => (flightOf x f).bind (fun y => y.steps[i]?)) with
  | some { source := some r, headOwed := true, consumed := n, .. } =>
    if mirrorPending d c || hostWaits d then d
    else modStep c f i (fun s => { s with headOwed := false }) (asCtx c (countStore r.head n) d)
  | _ => d

/-- Every head count that a context owes. -/
def payHeads (c : Nat) (d : Dev) : Dev :=
  match ctxOf d c with
  | none => d
  | some x =>
    x.flights.foldl (fun d y => (List.range y.2.steps.length).foldl (fun d i => payHead c y.1 i d) d) d

/-- Reads of the rings of INGEST steps: the log holds the records, not the reads (R236). -/
def ringEnv : OpEnv := { q := .kernel 0, idx := 0, off := 0, ctx := 0xFFFF, drawn := none, hostOk := true }

/-- The next record of an INGEST step, and what taking it does to the device: from the mirror log of a suppressed copy,
from its link, or from its ring, whose head count it writes (R186, R236). -/
def takeNext (c f i : Nat) (s : FStep) (r : FSource) : Act Bytes := do
  let d ← get
  match (copyOf d c).bind (fun m => m.log.find? (fun y => match y with
      | .record g k _ => g == f && k == i
      | _ => false)) with
  | some (.record g k data) => do
    change (takeEntry c (.record g k data))
    if r.chain then pure data
    else do
      if isHost r.head then change (countStore r.head (s.consumed + 1)) else devWrite r.head (leBytes 8 (s.consumed + 1))
      change (modStep c f i (fun s => { s with consumed := s.consumed + 1 }))
      pure data
  | _ =>
  if (hushed d c && isSecondary d) || logHolds d c then throw .notYet
  else if r.chain then
    match s.inbox with
    | b :: t => do
      change (modStep c f i (fun s => { s with inbox := t }))
      change (forwardLog c (.record f i b))
      pure b
    | [] => throw .notYet
  else if s.consumed < s.tailSeen then do
    let b ← rd ringEnv (low 64 (r.ring + s.consumed % r.slots * r.slotBytes)) r.slotBytes
    if forwards d c && isHost r.head then do
      change (forwardLog c (.record f i b))
      change (modStep c f i (fun s => { s with consumed := s.consumed + 1, headOwed := true }))
      change (payHead c f i)
      pure b
    else do
      checkDest r.head 8
      if isHost r.head then change (countStore r.head (s.consumed + 1)) else devWrite r.head (leBytes 8 (s.consumed + 1))
      change (modStep c f i (fun s => { s with consumed := s.consumed + 1 }))
      change (forwardLog c (.record f i b))
      pure b
  else throw .notYet

/-- A frame is closed and delivered (FRAME_CLOSE). -/
def closeFrame (c f i k : Nat) (t : FStream) (s : FStep) (b : FrameBuild) (horizon : Nat) : Act Unit := do
  devWrite (slotAddr t t.produced) (frameRecord b s.frames horizon)
  change (modStream c f k recordDone)
  change (modStep c f i (fun s => { s with frame := none, frames := s.frames + 1 }))
  change (modFRun c f (fun r =>
    { r with frames := r.frames + 1, records := r.records + b.records, invalid := r.invalid + b.invalid
             overflow := r.overflow + b.overflow }))
  if b.invalid + b.overflow = 0 then pure ()
  else change (logOpen 0x05 12 diePackage (c + 65536 * f + 1048576 * i) b.invalid b.overflow)

/-- One measurement record is consumed. -/
def ingestAct (c f i k : Nat) (t : FStream) (s : FStep) (src : FSource) (kind : Nat) : Act Unit := do
  let r ← takeNext c f i s src
  let b := s.frame.getD { epoch := recEpoch r, explicit := recExplicit r, kept := [], records := 0, invalid := 0, overflow := 0 }
  let b := takeRecord src.slotBytes t.slotBytes r b
  if s.frame.isNone then change (modStream c f k (fun t => { t with credits := t.credits - 1 })) else pure ()
  if recEndFrame r then do
    closeFrame c f i k t s b (recHorizon r)
    if kind = 0 then writeCounters c f else pure ()
  else change (modStep c f i (fun s => { s with frame := some b }))

/-- INGEST_RECORD (R187). -/
def ingestRecord (c f i : Nat) (d : Dev) : Dev :=
  match (ctxOf d c).bind (fun x => flightOf x f) with
  | none => d
  | some y =>
    match y.run, y.steps[i]? with
    | some r, some s =>
      match s.source, (outputsOf y i).head? with
      | some src, some (t, k) =>
        if !runLive y || !mirrorGoes d c || (r.kind == 0 && r.frameLimit != 0 && decide (r.frameLimit ≤ s.frames)) ||
            (s.frame.isNone && t.credits == 0) then d
        else
          match tryAct c (ingestAct c f i k t s src r.kind) d with
          | none => d
          | some (d, some (st, detail)) => flightProgress c f (stopFlight c f st detail d)
          | some (d', none) =>
            let n := match (ctxOf d' c).bind (fun x => (flightOf x f).bind (fun y => y.steps[i]?)) with
              | some s' => s'.frames - s.frames
              | none => 0
            flightProgress c f (opSteps r.q n d')
      | _, _ => d
    | _, _ => d

/-- INGEST_RECORD (R187). -/
def execIngestRecord (c : CtxId) (f : Fin 4) (step : Fin 16) (s : State) : Host.Outcome State Fault Refusal :=
  onMem (ingestRecord c.val f.val step.val) s

/-- A waiting ring source reads its tail count again (R186). -/
def tailPoll (c f i : Nat) (d : Dev) : Dev :=
  match (ctxOf d c).bind (fun x => flightOf x f) with
  | none => d
  | some y =>
    match y.steps[i]? with
    | none => d
    | some s =>
      match s.source with
      | none => d
      | some r =>
        if r.chain || !runLive y || decide (s.consumed < s.tailSeen) || (hushed d c && isSecondary d) then d
        else
          let act : Act Unit := do
            let v ← rd64 ringEnv r.tail
            change (modStep c f i (fun s => { s with tailSeen := v }))
          match tryAct c act d with
          | none => d
          | some (d, some (st, detail)) => flightProgress c f (stopFlight c f st detail d)
          | some (d, none) => d

/-- TAIL_POLL (R186). -/
def execTailPoll (c : CtxId) (f : Fin 4) (step : Fin 16) (s : State) : Host.Outcome State Fault Refusal :=
  onMem (tailPoll c.val f.val step.val) s

end Sys2Proof.Machine
end

