-- ==== Sys2Proof/Machine/Areas.lean ====
section
/-! DEFINITION. The byte areas that an op in progress addresses, as a placement and a gated island ask for them (R23,
R333). -/

namespace Sys2Proof.Machine

/- What the ops in progress of a context use. -/

/-- Bytes of the descriptor at OPERAND0. -/
def descBytes (code : Nat) : Nat :=
  match code with
  | 0x40 | 0x43 | 0x44 | 0x60 => 128
  | 0x61 => 192
  | 0x47 => 128
  | 0x46 => 32
  | _ => 64

/-- Byte areas of a problem header's arrays. -/
def loadAreas (h : Bytes) : List (Nat × Nat) :=
  [(u64 h 0x10, 64 * hBlocks h), (u64 h 0x18, 16 * hEdges h), (u64 h 0x28, 16 * hGroups h),
   (u64 h 0x58, if u64 h 0x58 = 0 then 0 else 64)]

/-- Byte areas of a block descriptor's arrays. -/
def blockAreas (fmt : Nat) (b : Bytes) : List (Nat × Nat) :=
  let n := u32 b 8
  [(u64 b 0x10, if u8 b 0 = 0 then n * n * coeffBytes fmt else 0),
   (u64 b 0x18, if u64 b 0x18 = 0 then 0 else n * coeffBytes fmt),
   (u64 b 0x20, if u64 b 0x20 = 0 then 0 else ceilDiv n 8), (u64 b 0x28, if u64 b 0x28 = 0 then 0 else n)]

/-- Byte areas of an output-path record: rows and vectors. -/
def outAreas (o : Bytes) (offset m n : Nat) : List (Nat × Nat) :=
  [(oAddr o + offset, (m - 1) * oLd o + packedBytes (oFmt o) n),
   (u64 o 0x18, if oScaleMode o = 2 then 4 * n else if oScaleMode o = 3 then 4 * m else 0),
   (u64 o 0x20, if oBiasMode o = 2 then 4 * n else if oBiasMode o = 3 then 4 * m else 0)]

/-- Byte areas of an operand of a matrix op. -/
def rowsArea (o : TOperand) (batch rows : Nat) : List (Nat × Nat) :=
  (List.range batch).map (fun b => (rowAddr o b 0, (rows - 1) * o.ld + o.bytes))

/-- Byte areas that a tensor descriptor addresses. -/
def tensorAreas (d : Dev) (code : Nat) (x : Bytes) : List (Nat × Nat) :=
  match code with
  | 0x60 | 0x61 =>
    match mPath x with
    | some p =>
      let q := matmulReq (code == 0x61) x p
      rowsArea q.a q.grid.batch q.grid.m ++ rowsArea q.b q.grid.batch q.grid.n ++
        (if p == .mx then rowsArea q.sa q.grid.batch q.grid.m ++ rowsArea q.sb q.grid.batch q.grid.n else []) ++
        (if q.ends then
          (u64 x 0x50, 64) :: (List.range q.grid.batch).flatMap (fun b =>
            outAreas (fetch d (u64 x 0x50) 64) (b * q.strideOut) q.grid.m q.grid.n)
         else [])
    | none => []
  | 0x62 =>
    let n := u32 x 0xC
    [(u64 x 0x10, n * elemSize (bits (u8 x 4) 0 4)),
     (u64 x 0x18, if eUsesB x then (if eScalar x then 1 else n) * elemSize (bits (u8 x 4) 4 4) else 0),
     (u64 x 0x20, packedBytes (bits (u8 x 5) 0 4) n)]
  | 0x63 =>
    [((reduceIn x).base, (u32 x 0xC - 1) * (reduceIn x).ld + (reduceIn x).bytes),
     (u64 x 0x20, packedBytes (bits (u8 x 4) 4 4) (reduceOuts x))]
  | 0x64 | 0x65 | 0x66 =>
    let op : MoveOp := if code = 0x64 then .gather else if code = 0x65 then .scatter else .convert
    let (a, b, c) := moveRegions op x
    [(u64 x 0x18, a), (u64 x 0x20, b), (u64 x 0x28, c)]
  | 0x67 =>
    if bit (u8 x 2) 0 then []
    else
      let g := drainGrid x
      (u64 x 0x18, 64) :: (List.range g.batch).flatMap (fun b =>
        outAreas (fetch d (u64 x 0x18) 64) (b * u64 x 0x20) g.m g.n)
  | _ => []

/-- The record of an op in progress with its indirect operands read. -/
def recordNow (d : Dev) (e : Entry) (i : OpIssue) : Bytes := operandsNow d e i.record

/-- A record at an address, where the address is nonzero. -/
def areaAt (a n : Nat) : List (Nat × Nat) := if a = 0 then [] else [(a, n)]

/-- Byte areas of a start image: for each block its record, and its replicas with the sections that the record names. -/
def startAreas (d : Dev) (bs : List PBlock) (a : Nat) : List (Nat × Nat) :=
  if a = 0 then []
  else
    [(a, bs.foldl (fun n x =>
      let secs := u8 (fetch d (a + n) 128) 0x68
      n + 128 + x.reps.length *
        (64 + (ofBool (bit secs 0) + ofBool (bit secs 1)) * sectionBytes x.n + ofBool (bit secs 2) * fieldBytes x.n)) 0)]

/-- Byte areas that a run descriptor addresses: ring and count of its trace, ladders, start image, stop fence, decision
record. -/
def runAreas (d : Dev) (p : Problem) (stand : Bool) (h : Bytes) : List (Nat × Nat) :=
  (if dTrace h then [(u64 h 0x18, 32 * u32 h 0x20), (u64 h 0x30, 8)] else []) ++
    areaAt (u64 h 0x38) (128 * p.blocks.length) ++ startAreas d p.blocks (u64 h 0x40) ++
    (if stand then areaAt (u64 h 0x58) 8 ++ areaAt (u64 h 0x68) 64 else [])

/-- Byte areas of a body op: its descriptor, and what that addresses. -/
def bodyAreas (d : Dev) (b : Bytes) : List (Nat × Nat) :=
  let code := bits (u64 b 0) 8 8
  if bits (u64 b 0) 0 4 = 1 then []
  else
    (u64 b 8, bodyDescBytes code) :: areaAt ((bodyOutAddr code (fetch d (u64 b 8) (bodyDescBytes code))).getD 0) 64

/-- Byte areas of the tables that a flight descriptor and its step and stream descriptors name. -/
def buildAreas (d : Dev) (h : Bytes) : List (Nat × Nat) :=
  let steps := chunks 64 (u8 h 4) (fetch d (u64 h 0x10) (64 * u8 h 4))
  let streams := chunks 64 (u8 h 5) (fetch d (u64 h 0x18) (64 * u8 h 5))
  [(u64 h 0x10, 64 * u8 h 4), (u64 h 0x18, 64 * u8 h 5)] ++
    steps.flatMap (fun b =>
      [(u64 b 8, 4 * u8 b 1), (u64 b 0x18, 16 * u16 b 4)] ++ areaAt (u64 b 0x20) 64 ++
        (if u8 b 0 = fkCompute then
          (u64 b 0x10, 16 * u16 b 2) ::
            (chunks 16 (u16 b 2) (fetch d (u64 b 0x10) (16 * u16 b 2))).flatMap (bodyAreas d)
         else [])) ++
    streams.flatMap (fun b => [(u64 b 0x20, 8 * u32 b 0x28), (u64 b 0x28, 8 * u16 b 0x24)])

/-- Byte areas that an anneal-class or flight-class op addresses beyond its descriptor. -/
def annealAreas (d : Dev) (x : Ctx) (code : Nat) (r h : Bytes) : List (Nat × Nat) :=
  match code, x.problem with
  | 0x40, _ =>
    loadAreas h ++ (chunks 64 (hBlocks h) (fetch d (u64 h 0x10) (64 * hBlocks h))).flatMap (blockAreas (hFmt h))
  | 0x41, _ => (u64 h 0x18, 16 * updCountOf h) :: areaAt (u64 h 0x20) 32
  | 0x42, _ => [(u64 h 8, 16 * u16 h 4)]
  | 0x43, some p => runAreas d p false h
  | 0x44, some p => runAreas d p true h
  | 0x45, some p => [(u64 h 0x10, imageBytes p (readForm h) (u16 h 4) (u16 h 6))]
  | 0x46, _ => [(opnd r 1, opnd r 2), (opnd r 3, opnd r 4)]
  | 0x47, _ => [(u64 h 0x10, 32 * u8 h 0xA), (u64 h 0x18, 4 * u32 h 0x20)]
  | 0x80, _ => buildAreas d h
  | 0x81, _ => areaAt (u64 h 8) 128 ++ areaAt (u64 h 0x10) 128
  | _, _ => []

/-- Byte areas that the operands, destinations, records and fences of an op of a context address (R333). -/
def opAreas (d : Dev) (x : Ctx) (r : Bytes) : List (Nat × Nat) :=
  let code := recOpcode r
  let a := opnd r 0
  match opClass code with
  | .control => if code = 0 then [] else [(a, 8)]
  | .memory =>
    if code = 0x20 then [(a, opnd r 2), (opnd r 1, opnd r 2)] else if code = 0x21 then [(a, opnd r 2)] else [(a, opnd r 1)]
  | .privileged => if code < 0xC2 then [] else [(a, 64)]
  | .tensor => (a, descBytes code) :: tensorAreas d code (fetch d a (descBytes code))
  | _ => (a, descBytes code) :: annealAreas d x code r (fetch d a 128)


end Sys2Proof.Machine
end

