-- ==== Sys2Proof/Machine/March.lean ====
section
/-! DEFINITION. The march tests of R262 and R263 as data: elements, backgrounds, and what an element does to the words
under test. -/

namespace Sys2Proof.Machine

/-- One operation on a word: a read that expects the background, or its complement, and a write of one of them. -/
inductive MarchOp where
  | read (inv : Bool)
  | write (inv : Bool)
  deriving DecidableEq, Repr

/-- An element: ascending or descending address order, and its operations on each word. -/
structure MarchElement where
  up : Bool
  ops : List MarchOp
  deriving DecidableEq, Repr

/-- Table 10.5, M0 to M5. -/
def marchC : List MarchElement :=
  [ ⟨true, [.write false]⟩, ⟨true, [.read false, .write true]⟩, ⟨true, [.read true, .write false]⟩,
    ⟨false, [.read false, .write true]⟩, ⟨false, [.read true, .write false]⟩, ⟨true, [.read false]⟩ ]

/-- Table 10.6, P0 to P5: the background of a word is its own content when the test starts. -/
def marchPreserving : List MarchElement :=
  [ ⟨true, [.read false]⟩, ⟨true, [.read false, .write true]⟩, ⟨true, [.read true, .write false]⟩,
    ⟨false, [.read false, .write true]⟩, ⟨false, [.read true, .write false]⟩, ⟨true, [.read false]⟩ ]

/-- The raw code word of a background on chip: D_0 all zeros; bit i of D_k is bit k − 1 of the number i (R262). -/
def background (k : Nat) : BitVec 72 :=
  (List.range 72).foldl (fun w i => setBit w i (k != 0 && i.testBit (k - 1))) 0#72

/-- The backgrounds that a destructive test runs with: 8 on chip, D_0 alone on the lines of LPDDR5X (R262). -/
def backgrounds (onChip : Bool) : List Nat := if onChip then List.range 8 else [0]

/-- An operation on a word that stands for its background as `false` and for the complement as `true`: the word after it,
and whether a read met what it did not expect. -/
def marchOp (w : Bool) (op : MarchOp) : Bool × Bool :=
  match op with
  | .read inv => (w, w != inv)
  | .write inv => (inv, false)

/-- An element's operations on one word. -/
def marchWord (w : Bool) (ops : List MarchOp) : Bool × Bool :=
  ops.foldl (fun s op => ((marchOp s.1 op).1, s.2 || (marchOp s.1 op).2)) (w, false)

/-- A whole test of one sound word: what it holds after the elements, and whether it was found failing. -/
def marchSound (els : List MarchElement) (w : Bool) : Bool × Bool :=
  els.foldl (fun s e => ((marchWord s.1 e.ops).1, s.2 || (marchWord s.1 e.ops).2)) (w, false)

/-- Operations per word of a test with `n` backgrounds. -/
def marchOps (els : List MarchElement) (n : Nat) : Nat := n * (els.map (fun e => e.ops.length)).foldl (· + ·) 0

/-- The words of a bank in the order of an element: each element finishes on every word before the next begins. -/
def marchOrder (e : MarchElement) (rows : Nat) : List Nat := if e.up then List.range rows else (List.range rows).reverse

end Sys2Proof.Machine
end

