-- ==== Sys2Proof/Machine/Power.lean ====
section
/-! DEFINITION. Power, clocks and live calibration (R419 to R437). -/

namespace Sys2Proof.Machine

def setPower (p : Power) (d : Dev) : Dev := { d with power := p }

/-- A step of 25 MHz, downward. -/
def round25 (f : Nat) : Nat := f / 25 * 25

/- V/F tables (R423). -/

/-- The 8 points of a table of 32 bytes: (mV, MHz). -/
def vfPoints (b : Bytes) : List (Nat × Nat) :=
  (List.range 8).map (fun k => (bits (u32 b (4 * k)) 16 10, bits (u32 b (4 * k)) 0 12))

/-- The offset of the first byte that breaks R423 in a table. -/
def vfBad (b : Bytes) : Option Nat :=
  let pts := vfPoints b
  let ok (k : Nat) : Bool :=
    let (v, f) := pts.getD k (0, 0)
    bits (u32 b (4 * k)) 12 4 == 0 && bits (u32 b (4 * k)) 26 6 == 0 &&
      decide (400 ≤ f) && decide (f ≤ 2000) && f % 25 == 0 && decide (600 ≤ v) && decide (v ≤ 900) && v % 5 == 0 &&
      (k == 0 || (decide ((pts.getD (k - 1) (0, 0)).1 < v) && decide ((pts.getD (k - 1) (0, 0)).2 < f)))
  ((List.range 8).find? (fun k => !ok k)).map (fun k => 4 * k)

/-- F(V): 0 below the first point, linear between points rounded down to 25 MHz, the last point's MHz above. -/
def tableF : List (Nat × Nat) → Int → Nat
  | [], _ => 0
  | [(v, f)], x => if x < (v : Int) then 0 else f
  | (v, f) :: (w, g) :: t, x =>
    if x < (v : Int) then 0
    else if x < (w : Int) then round25 (f + (g - f) * (x - v).toNat / (w - v))
    else tableF ((w, g) :: t) x

/-- The table of an island: expert, loaded calibration, or built in. -/
def islandTable (d : Dev) (i : Nat) : List (Nat × Nat) :=
  match tabGet? i d.power.expertVf with
  | some t => t
  | none =>
    match d.trust.calLoaded.bind (fun b => calSection b 2) with
    | some s => vfPoints ((s.drop (32 * i)).take 32)
    | none => [(850, 1000)]

/-- The required voltage for a frequency: the smallest step with F(V − TUNE) ≥ f, up to 900 mV. -/
def requiredMv (t : List (Nat × Nat)) (tune : Int) (f : Nat) : Nat :=
  (((List.range 51).map (fun (k : Nat) => 650 + 5 * k)).find?
    (fun (v : Nat) => decide (f ≤ tableF t ((v : Int) - tune)))).getD 900

/-- The setpoint of a wing (R420): the highest voltage any island that is not gated needs. -/
def wingSetpoint (d : Dev) (w : Nat) : Nat :=
  ((hallsOfWing w).flatMap (fun h => (List.range 40).map (fun k => 40 * h + k))).foldl
    (fun m i =>
      let x := islandOf d i
      if x.gated then m
      else
        let f := max x.mhz (max (x.waits.getD 0) (x.relock.getD 0))
        max m (min 900 (requiredMv (islandTable d i) x.tune f))) 650

/-- The setpoint of a wing is set anew; a rail above it falls with it (R420). -/
def settleRail (w : Nat) (d : Dev) : Dev :=
  let v := wingSetpoint d w
  setPower { d.power with setpoint := setAt w v d.power.setpoint, rail := modAt w (min v) d.power.rail } d

/-- The highest frequency an island's table allows at the present voltage of its wing's rail (R18, R420). -/
def railMhz (d : Dev) (i : Nat) : Nat :=
  tableF (islandTable d i) ((d.power.rail.getD (hallWing (i / 40)) 650 : Int) - (islandOf d i).tune)

/- Island targets (R422). -/

def classCeil (p : Power) (cls : Nat) : Nat :=
  match cls with
  | 1 => p.ceilT
  | 2 => p.ceilO
  | 3 => p.ceilF
  | _ => 2000

/-- The terms of R422 with their LIMIT codes (Table 17.5). -/
def targetTerms (d : Dev) (i : Nat) : List (Nat × Nat) :=
  let x := islandOf d i
  [ (classCeil d.power x.cls, 1), (d.power.therm.getD (hallWing (i / 40)) 2000, 2),
    (min d.power.preset (d.power.hallCeil.getD (i / 40) 2000), 3), (tableF (islandTable d i) (900 - x.tune), 4) ]

def lowestTerm (l : List (Nat × Nat)) : Nat × Nat := l.foldl (fun m t => if t.1 < m.1 then t else m) (2000, 0)

def ownTarget (d : Dev) (i : Nat) : Nat := round25 (lowestTerm (targetTerms d i)).1

/-- An island with an attached tap runs at the lowest target among the hall's attached islands. -/
def islandTarget (d : Dev) (i : Nat) : Nat :=
  if tapAttached d i then
    ((List.range 40).map (fun k => 40 * (i / 40) + k)).foldl
      (fun m j => if tapAttached d j && !(islandOf d j).gated then min m (ownTarget d j) else m) (ownTarget d i)
  else ownTarget d i

/-- An island's PLL is set to `f`, or to what the rail allows, which the rest waits for (R18, R420): downward the relock
comes at once, upward the rail comes first. With no frequency allowed the clock stands. -/
def moveTo (i f : Nat) (d : Dev) : Dev :=
  let x := islandOf d i
  let g := min f (railMhz d i)
  if g < x.mhz then
    setIsland i { x with
      mhz := if g < 400 then 0 else x.mhz
      relock := if g < 400 then none else some g
      waits := if g < f then some f else none } d
  else if x.mhz < f then setIsland i { x with waits := some f } d
  else setIsland i { x with waits := none } d

/-- An island moves toward its target (R420, R422). -/
def retarget (i : Nat) (d : Dev) : Dev :=
  let x := islandOf d i
  if x.gated then d
  else moveTo i (islandTarget d i) (setIsland i { x with limit := (lowestTerm (targetTerms d i)).2 } d)

/- The control period (R425, R426, R429). -/

/-- The islands with state. -/
def liveIslands (d : Dev) : List Nat := d.power.islands.map (fun p => p.1)

/-- R425: the class of an island over the period just ended. -/
def classify (busy : List Nat) (d : Dev) (i : Nat) : Nat :=
  if (islandOf d i).gated then 0 else if tapAttached d i then 3 else if busy.contains i then 1 else 2

def lowerStep (f : Nat) : Nat := max 400 (f - 100)
def raiseStep (f : Nat) : Nat := min 2000 (f + 100)

/-- R426: exactly one action on the class ceilings. -/
def capStep (p : Power) : Power :=
  if p.powerW > p.cap then
    if 400 < p.ceilT then { p with ceilT := lowerStep p.ceilT, throttle := satAdd 64 p.throttle 1 }
    else if 400 < p.ceilO then { p with ceilO := lowerStep p.ceilO, throttle := satAdd 64 p.throttle 1 }
    else if 400 < p.ceilF then { p with ceilF := lowerStep p.ceilF, throttle := satAdd 64 p.throttle 1 }
    else p
  else if p.powerW * 100 < 95 * p.cap then
    if p.ceilF < 2000 then { p with ceilF := raiseStep p.ceilF }
    else if p.ceilO < 2000 then { p with ceilO := raiseStep p.ceilO }
    else if p.ceilT < 2000 then { p with ceilT := raiseStep p.ceilT }
    else p
  else p

/-- All three ceilings stand at 400 MHz and the power is above the cap. -/
def capMissed (p : Power) : Bool :=
  decide (p.powerW > p.cap) && p.ceilT == 400 && p.ceilO == 400 && p.ceilF == 400

/-- The sensors of a wing: its halls' and every edge die's (R428). -/
def wingTemps (temps : List Int) (w : Nat) : List Int :=
  (hallsOfWing w).flatMap (fun h => (List.range 4).map (fun q => temps.getD (4 * h + q) 0)) ++ temps.drop 64

/-- R429: one wing's thermal ceiling. -/
def thermStep (temps : List Int) (c w : Nat) : Nat :=
  let l := wingTemps temps w
  if l.any (fun t => decide (400 ≤ t)) then lowerStep c
  else if l.all (fun t => decide (t < 380)) then raiseStep c
  else c

def thermSteps (temps : List Int) (p : Power) : Power :=
  let new := (List.range 4).map (fun w => thermStep temps (p.therm.getD w 2000) w)
  let falls := ((List.range 4).filter (fun w => decide (new.getD w 0 < p.therm.getD w 2000))).length
  { p with therm := new, throttle := satAdd 64 p.throttle falls }

/-- The hottest reading and its sensor. -/
def hottest (temps : List Int) : Int × Nat :=
  match temps with
  | [] => (0, 0)
  | t :: _ => ((List.range temps.length).foldl (fun m i => if m.1 < temps.getD i 0 then (temps.getD i 0, i) else m) (t, 0))

/-- THERM_HIGH (325): present from 105 °C until every sensor reads below 102 °C. -/
def thermHigh (temps : List Int) (d : Dev) : Dev :=
  if temps.any (fun t => decide (420 ≤ t)) then raise 325 ((hottest temps).1 / 4).toNat d
  else if temps.all (fun t => decide (t < 408)) && !d.fc.injectedNow.contains 325 then causeEnds 325 d
  else d

/-- V/F tables that act from this period end (R433): replaced with TUNE 0, or restored. -/
def applyVf (d : Dev) : Dev :=
  let d' := d.power.expertNext.foldl
    (fun d p =>
      match p.2 with
      | some t =>
        setIsland p.1 { islandOf d p.1 with tune := 0 } (setPower { d.power with expertVf := tabSet p.1 t d.power.expertVf } d)
      | none => setPower { d.power with expertVf := tabDel p.1 d.power.expertVf } d) d
  setPower { d'.power with expertNext := [] } d'

/-- CONTROL_PERIOD_END (R425, R426, R429, R431). -/
def periodEnd (x : PeriodSample) (d : Dev) : Dev :=
  if !d.boot.ready then d
  else
    let d := applyVf d
    let d := (liveIslands d).foldl (fun d i => setIsland i { islandOf d i with cls := classify x.busy d i } d) d
    let p := { d.power with
      seq := low 32 (d.power.seq + 1), powerW := x.powerW, cap := d.power.capNext, preset := d.power.presetNext,
      hallCeil := d.power.hallCeilNext, temps := x.temps, railMv := x.railMv, railMa := x.railMa }
    let q := thermSteps x.temps (capStep p)
    let unmet := capMissed p
    let d := setPower { q with capUnmet := unmet || (q.capUnmet && decide (p.powerW > p.cap)) } d
    let d := if unmet && !p.capUnmet then logOpen 0x0A 9 dieNorth p.powerW p.cap 0 d else d
    let d := thermHigh x.temps d
    let d := (liveIslands d).foldl (fun d i => retarget i d) d
    (List.range 4).foldl (fun d w => settleRail w d) d

def execControlPeriodEnd (sample : PeriodSample) (s : State) : Host.Outcome State Fault Refusal := onMem (periodEnd sample) s

/-- AVS_SETTLED (R420): the rail stands at its setpoint, and the relocks that waited for it start, as far as the rail
allows. -/
def avsSettled (w : Nat) (d : Dev) : Dev :=
  let d := setPower { d.power with rail := setAt w (d.power.setpoint.getD w 650) d.power.rail } d
  (liveIslands d).foldl
    (fun d i =>
      let x := islandOf d i
      match x.waits with
      | some f =>
        if hallWing (i / 40) = w ∧ f ≤ railMhz d i then setIsland i { x with relock := some f, waits := none } d else d
      | none => d) d

def execAvsSettled (wing : Fin 4) (s : State) : Host.Outcome State Fault Refusal := onMem (avsSettled wing.val) s

/-- PLL_RELOCK_DONE (R420, R422): the clock runs again, no faster than the rail allows now. -/
def relockDone (i : Nat) (d : Dev) : Dev :=
  let x := islandOf d i
  match x.relock with
  | some f => settleRail (hallWing (i / 40)) (setIsland i { x with mhz := min f (railMhz d i), relock := none } d)
  | none => d

def execPllRelockDone (island : Fin 640) (s : State) : Host.Outcome State Fault Refusal := onMem (relockDone island.val) s

/-- ISLAND_WAKE (R18, R23): the clock restarts, no faster than the rail allows now. Where the rail allows no frequency,
or less than the island's target, the setpoint rises, and the clock stands, or stays lower, until the rail has settled. -/
def islandWake (i : Nat) (d : Dev) : Dev :=
  let x := islandOf d i
  if x.gated && !d.boot.thermtrip && d.avail.halls.getLsbD (i / 40) && d.boot.ready then
    let f := islandTarget d i
    let g := min (if x.mhz = 0 then f else min f x.mhz) (railMhz d i)
    let x := { x with gated := false, cls := 2, relock := none, mhz := if g < 400 then 0 else g
                      waits := if g < f then some f else none }
    settleRail (hallWing (i / 40)) (setIsland i x d)
  else d

def execIslandWake (island : Fin 640) (s : State) : Host.Outcome State Fault Refusal := onMem (islandWake island.val) s

/-- CANARY_FAIL (R424): one step of 25 MHz down at once, and further to what the rail allows with the new TUNE (R18); the
setpoint follows. -/
def canaryFail (i : Nat) (d : Dev) : Dev :=
  let x := islandOf d i
  if islandStopped d i then d
  else
    let d := setIsland i { x with tune := min 40 (x.tune + 10), limit := 5 } d
    let g := min (max 400 (x.mhz - 25)) (railMhz d i)
    let y := islandOf d i
    let d := setIsland i { y with mhz := if g < 400 then 0 else g, waits := if g < 400 then some (islandTarget d i) else y.waits } d
    logOpen 0x0A 10 (i / 40) i 0 0
      (settleRail (hallWing (i / 40)) (setPower { d.power with canaryFails := satAdd 32 d.power.canaryFails 1 } d))

def execCanaryFail (island : Fin 640) (s : State) : Host.Outcome State Fault Refusal := onDev (canaryFail island.val) s

/-- The contexts that hold an island's gallery. -/
def islandCtxs (d : Dev) (i : Nat) : List Nat :=
  (d.ctxs.filter (fun p => usesGallery p.2 (i / 40) (i % 40 / 2))).map (fun p => p.1)

/-- CALIBRATE ops that waited for an island's sweep go on (R437). -/
def sweepDone (i : Nat) (d : Dev) : Dev :=
  (allQueues d).foldl
    (fun d q =>
      let x := queueOf d q
      match x.cur with
      | some e =>
        e.issues.foldl
          (fun d j =>
            match j.wait with
            | .calibrate l detail partly =>
              let l := l.filter (· != i)
              if l.isEmpty then
                opSteps q 1 (opOutcome q j.idx { status := if partly then stPartial else stOk, detail := detail } d)
              else modIssue q j.idx (fun k => { k with wait := .calibrate l detail partly }) d
            | _ => d) d
      | none => d) d

/-- CANARY_SWEEP (R436): taken at a quiet point of every context on the island; a relock due waits. -/
def canarySweep (i : Nat) (pass : Bool) (d : Dev) : Dev :=
  if (islandCtxs d i).all (fun c => ctxQuiet d c (fun h g => h == i / 40 && g == i % 40 / 2)) then
    let x := islandOf d i
    let d := if pass then setIsland i { x with tune := max (-40) (x.tune - 5) } d else d
    sweepDone i d
  else d

def execCanarySweep (island : Fin 640) (pass : Bool) (s : State) : Host.Outcome State Fault Refusal :=
  onDev (canarySweep island.val pass) s

/-- SENSOR_TRIM_REFRESH (R435). -/
def execSensorTrimRefresh (s : State) : Host.Outcome State Fault Refusal :=
  onDev (fun d => setPower { d.power with trimsFresh := d.clock } d) s

/-- THERMTRIP (R430): the latch, every half-gallery island gated, setpoints 0.65 V, source 326. -/
def thermtrip (reading : Int) (d : Dev) : Dev :=
  if reading < 460 then d
  else
    let d := { d with boot := { d.boot with thermtrip := true } }
    let d := setPower { d.power with
      islands := d.power.islands.map (fun p => (p.1, { p.2 with gated := true, cls := 0, relock := none, waits := none }))
      setpoint := List.replicate 4 650
      rail := List.replicate 4 650 } d
    raise 326 (reading / 4).toNat d

def execThermtrip (_sensor : Fin 80) (reading : Int) (s : State) : Host.Outcome State Fault Refusal :=
  onMem (thermtrip reading) s

/-- AVSBUS_NO_ANSWER (R446, R460): a wing reset. -/
def execAvsbusNoAnswer (wing : Fin 4) (s : State) : Host.Outcome State Fault Refusal :=
  onMem (blockReset (.wing wing.val) stAbortedDisabled) s

/-- POWER_CAP (R427). -/
def bodyPowerCap : MailBody := fun _ p => do
  let w := u16 p 0
  if w < 300 ∨ 1200 < w then mailBad 0
  else if u16 p 2 ≠ 0 then mailBad 2
  else do
    let d ← get
    change (fun d => setPower { d.power with capNext := w } d)
    pure (some (leBytes 4 d.power.capNext))

def execPowerCap (ch : Chan) (s : State) : Host.Outcome State Fault Refusal :=
  mailRow ch ⟨0x70, [(4, 4)], true, false⟩ anyMessage bodyPowerCap s

/- POWER_STATE (R431 to R433). -/

def powerAction (d : Dev) (r : Bytes) : Nat := bits (u16 (fetch d (opnd r 0) 64) 2) 0 3

/-- The first failing field of a POWER_STATE descriptor. -/
def powerDescrBad (b : Bytes) : Option Nat :=
  let act := bits (u16 b 2) 0 3
  let vf := act == 4 || act == 5
  if u16 b 0 ≠ 3 then some 0
  else if 6 ≤ act ∨ bits (u16 b 2) 4 12 ≠ 0 then some 2
  else if bits (u16 b 6) 2 14 ≠ 0 then some 6
  else if act = 1 ∧ (u16 b 8 < 400 ∨ 2000 < u16 b 8 ∨ u16 b 8 % 25 ≠ 0) then some 8
  else if vf ∧ 640 ≤ u16 b 0xA then some 0xA
  else if vf ∧ (u16 b 0xC = 0 ∨ 640 - u16 b 0xA < u16 b 0xC) then some 0xC
  else if u16 b 0xE ≠ 0 then some 0xE
  else nonzeroIn b 0x18 40

def presetMhz (p : Nat) : Nat :=
  match p with
  | 0 => 2000
  | 1 => 1600
  | 2 => 1000
  | _ => 400

/-- The first placed unit of the masked halls: hall, gallery or 0xFF, context (R333). -/
def placedInHall (d : Dev) (h : Nat) : Option (Nat × Nat) :=
  match (List.range 20).findSome? (fun g =>
      (d.ctxs.find? (fun p => usesGallery p.2 h g)).map (fun p => (g, p.1))) with
  | some x => some x
  | none => (d.ctxs.find? (fun p => usesHall p.2 h)).map (fun p => (0xFF, p.1))

/-- HALL_OFF (R432). -/
def hallsOff (mask : Nat) (force : Bool) : Act OpRes := do
  let d ← get
  let halls := setBits (BitVec.ofNat 16 mask)
  match halls.findSome? (fun h => (placedInHall d h).map (fun p => (h, p))) with
  | some (h, g, c) =>
    if force then
      change (fun d => (d.ctxs.filter (fun p => halls.any (usesHall p.2))).foldl
        (fun d p => if p.2.terminated then d else terminateCtx p.1 stAbortedDisabled d) d)
    else failWith stBusy (detailBusyPlace h g (some c))
  | none => pure ()
  let changed := halls.filter (fun h => d.avail.halls.getLsbD h)
  change (fun d => changed.foldl
    (fun d h =>
      let d := setAvail { d.avail with halls := setBit d.avail.halls h false } d
      settleRail (hallWing h) (setPower { d.power with islands := d.power.islands.map (fun p =>
        if p.1 / 40 = h then (p.1, { p.2 with gated := true, cls := 0, relock := none, waits := none }) else p) } d)) d)
  doneOk (changed.foldl (fun m h => m + 2 ^ h) 0)

/-- The availability of a hall after its march: every unit that passed (R269, R432). -/
def hallAfterMarch (h : Nat) (mine : List MarchFinding) (a : Avail) : Avail :=
  mine.foldl (fun a f => unitOut f.unit a)
    { a with halls := setBit a.halls h true, galleries := setAt h 0xFFFFF#20 a.galleries }

/-- HALL_ON (R432): a reset, which starts the hall's routers again, the destructive march, and every unit that passed back
in service, as one change of the map. -/
def hallsOn (mask : Nat) (findings : List MarchFinding) : Act OpRes := do
  let d ← get
  let halls := setBits (BitVec.ofNat 16 mask)
  let changed := halls.filter (fun h => !d.avail.halls.getLsbD h)
  change (fun d => halls.foldl
    (fun d h =>
      let hh : Hall := Fin.ofNat 16 h
      let d := blockReset (.hall h) stAbortedDisabled d
      let d := zeroMark (.hall hh) d
      let d := { d with avail := { d.avail with routersOut := setBit d.avail.routersOut h false } }
      let mine := findings.filter (fun f =>
        match f.unit with
        | .scratch k _ => k == hh
        | .shared k => k == hh
        | .channel _ => false)
      mine.foldl (fun d f => logUnit f d) (setAvail (hallAfterMarch h mine d.avail) d)) d)
  let e ← get
  let changed := changed.filter (fun h => e.avail.halls.getLsbD h)
  doneOk (changed.foldl (fun m h => m + 2 ^ h) 0)

/-- The first failing byte of a run of V/F tables. -/
def tablesBad (b : Bytes) (n : Nat) : Option Nat :=
  (List.range n).findSome? (fun i => (vfBad ((b.drop (32 * i)).take 32)).map (fun o => 32 * i + o))

/-- SET_VF (R433): format before privilege (R14). -/
def setVf (env : OpEnv) (first n addr : Nat) : Act OpRes := do
  let b ← rd env addr (32 * n)
  match tablesBad b n with
  | some o => badFormat (0x00010000 + o) 0
  | none => do
    needExpert exPower
    change (fun d =>
      let next := (List.range n).foldl (fun t i => tabSet (first + i) (some (vfPoints ((b.drop (32 * i)).take 32))) t)
        d.power.expertNext
      setPower { d.power with expertNext := next } d)
    doneOk anyDetail

def clearVf (first n : Nat) : Act OpRes := do
  change (fun d =>
    let next := (List.range n).foldl (fun t i => tabSet (first + i) none t) d.power.expertNext
    setPower { d.power with expertNext := next } d)
  doneOk anyDetail

/-- POWER_STATE's actions. -/
def powerBody (findings : List MarchFinding) : Body := fun env r => do
  let b ← descriptor env r 64
  match powerDescrBad b with
  | some o => badFormat o 0
  | none =>
    match bits (u16 b 2) 0 3 with
    | 0 => do
      change (fun d => setPower { d.power with presetNext := presetMhz (bits (u16 b 6) 0 2) } d)
      doneOk 0
    | 1 => do
      change (fun d =>
        let next := (setBits (BitVec.ofNat 16 (u16 b 4))).foldl (fun l h => setAt h (u16 b 8) l) d.power.hallCeilNext
        setPower { d.power with hallCeilNext := next } d)
      doneOk 0
    | 2 => hallsOff (u16 b 4) (bit (u16 b 2) 3)
    | 3 => hallsOn (u16 b 4) findings
    | 4 => setVf env (u16 b 0xA) (u16 b 0xC) (u64 b 0x10)
    | _ => clearVf (u16 b 0xA) (u16 b 0xC)

def powerRow (q : QRef) (act : Nat) (f : List MarchFinding) (s : State) : Host.Outcome State Fault Refusal :=
  actionRow q 0xC3 powerAction act [0, 1, 2, 3, 4, 5] (powerBody f) s

def execPreset (q : QRef) (s : State) : Host.Outcome State Fault Refusal := powerRow q 0 [] s
def execHallCeiling (q : QRef) (s : State) : Host.Outcome State Fault Refusal := powerRow q 1 [] s
def execHallOff (q : QRef) (s : State) : Host.Outcome State Fault Refusal := powerRow q 2 [] s

/-- What a command found stays with its queue, for an op that goes on later (R262, R437). -/
def keepFound (q : QRef) (f : List MarchFinding) (channels : Nat) (s : State) : State :=
  { s with dev := setQueue q { queueOf s.dev q with found := (f, channels) } s.dev }

def execHallOn (q : QRef) (findings : List MarchFinding) (s : State) : Host.Outcome State Fault Refusal :=
  powerRow q 3 findings (keepFound q findings (queueOf s.dev q).found.2 s)
def execSetVf (q : QRef) (s : State) : Host.Outcome State Fault Refusal := powerRow q 4 [] s
def execClearVf (q : QRef) (s : State) : Host.Outcome State Fault Refusal := powerRow q 5 [] s

/- CALIBRATE (R437). -/

def calibrateBad (b : Bytes) : Option Nat :=
  if u16 b 0 ≠ 3 then some 0
  else if bits (u16 b 2) 4 12 ≠ 0 then some 2
  else nonzeroIn b 0x0C 52

/-- A channel that fails its retraining leaves service and raises its source (R261, R437). -/
def channelFails (c : Nat) (d : Dev) : Dev :=
  raise 18 c (setAvail { d.avail with channels := setBit d.avail.channels c false } d)

/-- CALIBRATE: sweeps wait for quiet points; the other items end at once. -/
def calibrateBody (failed : Nat) : Body := fun env r => do
  let b ← descriptor env r 64
  match calibrateBad b with
  | some o => badFormat o 0
  | none => do
    let d ← get
    let items := u16 b 2
    let halls := if bit items 1 then setBits (BitVec.ofNat 16 (u16 b 4)) else []
    let isl := halls.flatMap (fun h => (List.range 40).map (fun k => 40 * h + k))
    let chans := if bit items 2 then (setBits (BitVec.ofNat 32 (u32 b 8))).filter (fun c => d.mem.mapping.contains c) else []
    let bad := chans.filter (fun c => bit failed c)
    let links := if bit items 3 then setBits (BitVec.ofNat 16 (u16 b 6)) else []
    change (fun d => bad.foldl (fun d c => channelFails c d)
      (if bit items 0 then setPower { d.power with trimsFresh := d.clock } d else d))
    let detail := isl.length + (chans.length - bad.length) * 2 ^ 16 + links.length * 2 ^ 24 + ofBool (bit items 0) * 2 ^ 40
    if isl.isEmpty then
      pure (.done { status := if bad.isEmpty then stOk else stPartial, detail := detail } 1)
    else pure (.running (.calibrate isl detail (!bad.isEmpty)) 0)

def execCalibrate (q : QRef) (failedChannels : BitVec 32) (s : State) : Host.Outcome State Fault Refusal :=
  opRow q 0xC5 (calibrateBody failedChannels.toNat) (keepFound q (queueOf s.dev q).found.1 failedChannels.toNat s)

end Sys2Proof.Machine
end

