-- ==== Sys2Proof/Machine/Memories.lean ====
section
/-! DEFINITION. March tests, the scrubber, write-backs and the LPDDR5X background activities (R253 to R269, R435). -/

namespace Sys2Proof.Machine

/- The march request (Table 10.8). -/

/-- A march request read from its 64 bytes. -/
structure MarchAsk where
  preserving : Bool
  live : Bool
  lpddr : Bool
  units : List MarchUnit
  result : Nat
  deriving DecidableEq, Repr

/-- The units a request selects: hall shared memories, scratchpads by package tread index, channels. -/
def marchUnits (b : Bytes) : List MarchUnit :=
  let m := u16 b 2
  let halls := setBits (BitVec.ofNat 16 (u16 b 4))
  let gals := setBits (BitVec.ofNat 20 (u32 b 8))
  (if bit m 3 then halls.map (fun h => .shared (Fin.ofNat 16 h)) else []) ++
  (if bit m 2 then halls.flatMap (fun h => gals.flatMap (fun g =>
      (List.range 32).map (fun t => .scratch (Fin.ofNat 16 h) (Fin.ofNat 640 (32 * g + t))))) else []) ++
  (if bit m 4 then (setBits (BitVec.ofNat 32 (u32 b 0xC))).map (fun c => .channel (Fin.ofNat 32 c)) else [])

def marchAsk (b : Bytes) : MarchAsk :=
  { preserving := bit (u16 b 2) 0, live := bit (u16 b 2) 1, lpddr := bit (u16 b 2) 4, units := marchUnits b,
    result := u64 b 0x10 }

/-- R267, check 1. -/
def marchHeaderBad (b : Bytes) : Option Nat :=
  if u16 b 0 ≠ 3 then some 0
  else if u16 b 2 / 32 ≠ 0 then some 2
  else if u16 b 6 ≠ 0 then some 6
  else if u32 b 8 / 2 ^ 20 ≠ 0 then some 8
  else if u64 b 0x10 % 64 ≠ 0 then some 0x10
  else nonzeroIn b 0x18 40

/-- R267, check 2. -/
def marchModeBad (a : MarchAsk) : Bool := (a.preserving && a.lpddr) || (a.live && !a.preserving) || a.units.isEmpty

/-- A unit in service. -/
def unitInService (d : Dev) (u : MarchUnit) : Bool :=
  match u with
  | .scratch h t => d.avail.halls.getLsbD h.val && (d.avail.galleries.getD h.val 0#20).getLsbD (t.val / 32)
  | .shared h => d.avail.halls.getLsbD h.val
  | .channel c => d.avail.channels.getLsbD c.val

/-- The units a request will test: in service, and not skipped as placed. -/
def marchTests (d : Dev) (a : MarchAsk) : List MarchUnit :=
  a.units.filter (fun u => unitInService d u && (!a.preserving || a.live || !unitPlaced d u))

/-- R267, check 3: the record lies in a unit under test. -/
def resultInside (d : Dev) (a : MarchAsk) : Bool :=
  a.result != 0 && !isHost a.result &&
    (firstIn a.result 16448 (fun x =>
      match unitOf d.mem x with
      | some u => (marchTests d a).contains u
      | none => false)).isSome

/- The result record (R269). -/

/-- The first device address of a unit. -/
def unitKind (u : MarchUnit) : Nat × Nat × Nat :=
  match u with
  | .scratch h t => (0, h.val, t.val)
  | .shared h => (1, h.val, 0xFFFF)
  | .channel c => (2, c.val, 0xFFFF)

/-- The place of a unit in the record's order. -/
def unitRank (u : MarchUnit) : Nat :=
  match u with
  | .shared h => h.val
  | .scratch h t => 16 + 640 * h.val + t.val
  | .channel c => 16 + 10240 + c.val

def insertFinding (f : MarchFinding) : List MarchFinding → List MarchFinding
  | [] => [f]
  | g :: t => if unitRank f.unit ≤ unitRank g.unit then f :: g :: t else g :: insertFinding f t

def sortFindings (l : List MarchFinding) : List MarchFinding := l.foldr insertFinding []

def findingBytes (f : MarchFinding) : Bytes :=
  let (kind, place, tread) := unitKind f.unit
  leBytes 1 kind ++ leBytes 1 place ++ leBytes 2 tread ++ leBytes 4 (min f.words (2 ^ 32 - 1)) ++ leBytes 8 f.first

/-- The 16,448 bytes of a march's result. -/
def marchRecord (r : MarchReq) : Bytes :=
  let l := (sortFindings r.found).take 1024
  padTo 16448
    (padTo 64 (le4s [r.tested, r.skipped, r.found.length, l.length,
      min (r.found.foldl (fun n f => n + f.words) 0) (2 ^ 32 - 1)]) ++ l.flatMap findingBytes)

/-- R267: tested, skipped, with errors. -/
def marchDetail (r : MarchReq) : Nat :=
  low 16 r.tested + low 16 r.skipped * 2 ^ 16 + low 16 r.found.length * 2 ^ 32

def marchStatus (r : MarchReq) : Nat := if r.skipped = 0 then stOk else stPartial

/-- A request with nothing left to test completes: the record, then the op's outcome or the response (R267, R269). -/
def marchComplete (r : MarchReq) (d : Dev) : Dev :=
  let d := if r.result = 0 then d else curatorStore r.result (marchRecord r) d
  match r.user with
  | .op q i => opSteps q 1 (opOutcome q i { status := marchStatus r, detail := marchDetail r } d)
  | .mail ch => respond ch (marchStatus r) (leBytes 8 (marchDetail r)) d

/-- Whether a request's record can be written now: a host record waits for bus mastering (R337), a record in device
memory for a unit under test or in reset (R268). -/
def marchMayEnd (d : Dev) (r : MarchReq) : Bool :=
  r.running.isEmpty && r.deferred.isEmpty &&
    (r.result == 0 || (!(isHost r.result && hostWaits d && !d.host.quiesced) && !rangeWaits d r.result 16448))

/-- Requests that are done complete. -/
def marchFinish (d : Dev) : Dev :=
  let done := d.march.reqs.filter (marchMayEnd d)
  done.foldl (fun d r => marchComplete r d)
    { d with march := { d.march with reqs := d.march.reqs.filter (fun r => !marchMayEnd d r) } }

def unitRunning (d : Dev) (u : MarchUnit) : Bool := d.march.reqs.any (fun r => r.running.contains u)

/-- A request starts: unplaced units at once, placed ones skipped or deferred, units out of service skipped (R265,
R268). A unit that another request is testing is deferred too. -/
def marchStart (user : MarchUser) (a : MarchAsk) (d : Dev) : Dev :=
  let tests := marchTests d a
  let now := tests.filter (fun u => !unitPlaced d u && !unitRunning d u)
  let r : MarchReq :=
    { user := user, preserving := a.preserving, result := a.result, running := now,
      deferred := tests.filter (fun u => !now.contains u), tested := 0, skipped := a.units.length - tests.length,
      found := [] }
  { d with march := { d.march with reqs := d.march.reqs ++ [r] } }

/-- The checks of R267; `base` is what ITEM counts from. -/
def marchChecked (base : Nat) (b : Bytes) : Act MarchAsk := do
  match marchHeaderBad b with
  | some o => badFormat (base + o) rsMarchHeader
  | none =>
    let a := marchAsk b
    requireFmt (!marchModeBad a) (base + 2) rsMarchMode
    let d ← get
    requireFmt (!resultInside d a) (base + 0x10) rsMarchResult
    require (a.preserving || !(a.units.any (unitPlaced d))) stBusy 0
    if a.result = 0 then pure a
    else do
      checkDest a.result 16448
      pure a

/-- SELFTEST. A request with nothing to test ends at once. -/
def bodySelftest : Body := fun env r => do
  let b ← descriptor env r 64
  let a ← marchChecked 0 b
  let d ← get
  change (marchStart (.op env.q env.idx) a)
  if (marchTests d a).isEmpty then do
    let rq : MarchReq :=
      { user := .op env.q env.idx, preserving := a.preserving, result := a.result, running := [], deferred := [],
        tested := 0, skipped := a.units.length, found := [] }
    set d
    if a.result = 0 then pure () else wr a.result (marchRecord rq)
    pure (.done { status := marchStatus rq, detail := marchDetail rq } 1)
  else pure (.running .march 0)

/-- SELFTEST (R267). -/
def execSelftest (q : QRef) (s : State) : Host.Outcome State Fault Refusal := opRow q 0xC4 bodySelftest s

/-- SELFTEST_REQ: a request whose units are all skipped responds at once. -/
def bodySelftestReq : MailBody := fun env p => do
  let a ← marchChecked 16 p
  change (marchStart (.mail env.ch) a)
  pure none

def cmdSelftestReq : MailCmd := ⟨0x80, [(64, 64)], true, false⟩

/-- SELFTEST_REQ (R346). -/
def execSelftestReq (ch : Chan) (s : State) : Host.Outcome State Fault Refusal :=
  onMem (fun d => marchFinish (serveMail ch cmdSelftestReq anyMessage bodySelftestReq d)) s

/-- A deferred unit starts its test at the quiet point of every context placed on it (R268). One that has left service
meanwhile is skipped. -/
def marchQuiet (u : MarchUnit) (d : Dev) : Dev :=
  if unitRunning d u || !unitQuiet d u then d
  else
    match d.march.reqs.findIdx? (fun r => r.deferred.contains u) with
    | none => d
    | some i =>
      let live := unitInService d u
      let start (r : MarchReq) : MarchReq :=
        { r with deferred := r.deferred.filter (fun v => !(v == u))
                 running := if live then r.running ++ [u] else r.running
                 skipped := if live then r.skipped else r.skipped + 1 }
      marchFinish { d with march := { d.march with reqs := modAt i start d.march.reqs } }

/-- MARCH_QUIET_POINT (R268). -/
def execMarchQuietPoint (unit : MarchUnit) (s : State) : Host.Outcome State Fault Refusal := onMem (marchQuiet unit) s

/-- The source a failing placed unit raises (Table 16.1), with its detail word. -/
def unitSource (d : Dev) (f : MarchFinding) : Nat × Nat :=
  match f.unit with
  | .scratch h t => (73 + 16 * h.val, t.val)
  | .shared h => (73 + 16 * h.val, 0xFFFF)
  | .channel _ => (16, memDetail d.mem 16 f.first)

/-- A unit that failed its march (R269). -/
def unitFails (f : MarchFinding) (d : Dev) : Dev :=
  let d := logUnit f d
  if unitPlaced d f.unit then
    let d := { d with march := { d.march with leave := d.march.leave ++ [f.unit] } }
    raise (unitSource d f).1 (unitSource d f).2 d
  else setAvail (unitOut f.unit d.avail) d

/-- Failed units that no context holds any longer leave service (R269). -/
def leaveUnits (d : Dev) : Dev :=
  let go := d.march.leave.filter (fun u => !unitPlaced d u)
  go.foldl (fun d u => setAvail (unitOut u d.avail) d)
    { d with march := { d.march with leave := d.march.leave.filter (unitPlaced d) } }

/-- The words of a unit in a list, or the lines of a channel. -/
def inUnit (m : Memory) (u : MarchUnit) (l : List Nat) : List Nat := l.filter (fun a => unitOf m a == some u)

/-- The failing words of a test in the order in which it found them, each with whether it is among the uncorrectable ones
(R262, R263). -/
def markLost (found lost : List Nat) : List (Nat × Bool) := found.map (fun a => (a, lost.contains a))

/-- What a preserving test finds: the words known to be uncorrectable and those that still hold a single-bit error, and
what the engine found beside them (R263). -/
def preservedFound (m : Memory) (u : MarchUnit) (l : List (Nat × Bool)) : List (Nat × Bool) :=
  let known := (inUnit m u m.ue).map (fun a => (a, true)) ++ (inUnit m u m.writeback).map (fun a => (a, false))
  known ++ l.filter (fun p => !(known.any (fun k => k.1 == p.1)))

/-- What a preserving test leaves (R263): correctable words are written back, and the content of a word newly found
uncorrectable is lost. -/
def preservingLeaves (u : MarchUnit) (l : List (Nat × Bool)) (m : Memory) : Memory :=
  { m with
    ue := m.ue ++ ((l.filter (fun p => p.2)).map (fun p => p.1)).filter (fun a => !m.ue.contains a)
    writeback := m.writeback.filter (fun a => !(unitOf m a == some u)) }

/-- A unit's test ends (R262, R263, R268, R269). A destructive test leaves zeros. -/
def marchUnitEnd (u : MarchUnit) (found : List (Nat × Bool)) (d : Dev) : Dev :=
  match d.march.reqs.find? (fun r => r.running.contains u) with
  | none => d
  | some r =>
    let here := (found.map (fun p => (wordOf p.1, p.2))).filter (fun p => unitOf d.mem p.1 == some u)
    let all := if r.preserving then preservedFound d.mem u here else here
    let d := if r.preserving then { d with mem := preservingLeaves u all d.mem } else zeroMark (.unit u) d
    let f : MarchFinding := { unit := u, found := all }
    let r' := { r with running := r.running.filter (fun v => !(v == u)), tested := r.tested + 1
                       found := if all.isEmpty then r.found else r.found ++ [f] }
    let d := { d with march := { d.march with reqs := d.march.reqs.map (fun x => if x = r then r' else x) } }
    let d := if all.isEmpty then d else unitFails f d
    marchFinish d

/- The scrubber and write-backs (R253, R255). -/

/-- The scrubber of a bank reads its next row, in ascending order, and wraps around (R255). A word of another row is not
due; one under test, in reset or out of service is not read. -/
def scrubRead (w : Nat) (found : Syndrome) (d : Dev) : Dev :=
  let a := wordOf w
  match bankRow a with
  | some (k, row) =>
    if row != tabGet 0 k d.mem.scrub || accessWaits d a || !inService d a then d
    else
      let d := { d with mem := { d.mem with scrub := tabSet k ((row + 1) % bankRows k) d.mem.scrub } }
      match injectionAt d a with
      | some _ => (readWord a d).2
      | none =>
        match found with
        | .clean => (readWord a d).2
        | .correctable => if d.mem.ue.contains a then reportUe a false d else reportCe a false d
        | .uncorrectable =>
          let d := if d.mem.ue.contains a then d else { d with mem := { d.mem with ue := d.mem.ue ++ [a] } }
          reportUe a false d
  | none => d

/-- SCRUB_READ (R255). -/
def execScrubRead (word : BitVec 48) (found : Syndrome) (s : State) : Host.Outcome State Fault Refusal :=
  onMem (scrubRead word.toNat found) s

/-- ECC_WRITEBACK (R253): the corrected word is in the array again. -/
def execEccWriteback (word : BitVec 48) (s : State) : Host.Outcome State Fault Refusal :=
  onDev (fun d => { d with mem := { d.mem with writeback := d.mem.writeback.filter (· != wordOf word.toNat) } }) s

/- Background activities of LPDDR5X (R260, R435): each counts, and none changes a result. -/

def countOf (k : Nat) (t : List (Nat × Nat)) : List (Nat × Nat) := tabSet k (tabGet 0 k t + 1) t

/-- LPDDR_REFRESH (R435). -/
def execLpddrRefresh (channel : Fin 32) (_bank : Nat) (s : State) : Host.Outcome State Fault Refusal :=
  onDev (fun d => { d with mem := { d.mem with refresh := countOf channel.val d.mem.refresh } }) s

/-- LPDDR_ZQ_LATCH (R435). -/
def execLpddrZqLatch (channel : Fin 32) (s : State) : Host.Outcome State Fault Refusal :=
  onDev (fun d => { d with mem := { d.mem with zq := countOf channel.val d.mem.zq } }) s

/-- LPDDR_PERIODIC_RETRAIN (R435). -/
def execLpddrPeriodicRetrain (channel : Fin 32) (s : State) : Host.Outcome State Fault Refusal :=
  onDev (fun d => { d with mem := { d.mem with retrain := countOf channel.val d.mem.retrain } }) s

end Sys2Proof.Machine
end

