-- ==== Sys2Proof/Machine/Contexts.lean ====
section
/-! DEFINITION. CONTEXT_CREATE, CONTEXT_DESTROY and PLACE (R292, R331 to R333). -/

namespace Sys2Proof.Machine

/-- The tread range of an op: hall, first tread, treads. -/
def opTreads (d : Dev) (r : Bytes) : List (Nat × Nat × Nat) :=
  let code := recOpcode r
  if code = 0x22 then [(bits (opnd r 3) 0 8, bits (opnd r 3) 16 16, bits (opnd r 3) 32 16)]
  else if opClass code = .tensor then (bodyRange code (fetch d (opnd r 0) 192)).toList
  else []

/-- Galleries that the tread range, span or steps of an op name (R333). -/
def opGalleries (d : Dev) (r : Bytes) : List (Nat × Nat) :=
  let code := recOpcode r
  let x := fetch d (opnd r 0) 192
  let treads (y : Nat × Nat × Nat) : List (Nat × Nat) :=
    if y.2.2 = 0 then []
    else (List.range ((y.2.1 + y.2.2 - 1) / 32 + 1 - y.2.1 / 32)).map (fun k => (y.1, y.2.1 / 32 + k))
  if opHasTreads r then (opTreads d r).flatMap treads
  else if code = 0x40 then
    (chunks 64 (hBlocks x) (fetch d (u64 x 0x10) (64 * hBlocks x))).flatMap (fun b =>
      treads (u8 b 2, descTread b, descTreads b))
  else if code = 0x80 then
    (chunks 64 (u8 x 4) (fetch d (u64 x 0x10) (64 * u8 x 4))).flatMap (fun b =>
      rangeGalleries ((chunks 4 (u8 b 1) (fetch d (u64 b 8) (4 * u8 b 1))).map rangeOf))
  else []

/-- The ops in progress of a context, but for one: the entry and the issue. -/
def openOps (d : Dev) (c : Nat) (but : QRef × Nat) : List (Entry × OpIssue) :=
  (allQueues d).flatMap (fun q =>
    match (queueOf d q).cur with
    | some e =>
      if e.ctx = c then
        (e.issues.filter (fun i => issueOpen i && !(q == but.1 && i.idx == but.2))).map (fun i => (e, i))
      else []
    | none => [])

/- CONTEXT_CREATE and CONTEXT_DESTROY. -/

def bodyContextCreate : Body := fun env _ => do
  let d ← get
  require (!((ctxOf d env.ctx).any (fun x => x.terminated))) stBadContext anyDetail
  require (ctxOf d env.ctx).isNone stBusy anyDetail
  change (setCtx env.ctx {})
  doneOk anyDetail

/-- CONTEXT_CREATE (R331). -/
def execContextCreate (q : QRef) (s : State) : Host.Outcome State Fault Refusal := opRow q 0xC0 bodyContextCreate s

/-- What the end of a context's existence frees (R292, R331). -/
def destroyCtx (c : Nat) (d : Dev) : Dev :=
  let d := discardUpdates c d
  let d := (boundQueues d c).foldl (fun d q => setQueue q {} d) d
  let d := modMirror (fun m => { m with ctxs := m.ctxs.filter (fun x => x.ctx != c) }) d
  leaveUnits { d with ctxs := tabDel c d.ctxs, treadCtx := d.treadCtx.filter (fun p => p.2 != c) }

def bodyContextDestroy : Body := fun env _ => do
  let d ← get
  require (ctxOf d env.ctx).isSome stBadContext anyDetail
  require ((boundQueues d env.ctx).all (fun q => (queueOf d q).state == .disabled)) stBusy anyDetail
  require (openOps d env.ctx (env.q, env.idx)).isEmpty stBusy anyDetail
  change (destroyCtx env.ctx)
  doneOk anyDetail

/-- CONTEXT_DESTROY (R292, R331). -/
def execContextDestroy (q : QRef) (s : State) : Host.Outcome State Fault Refusal := opRow q 0xC1 bodyContextDestroy s

/- PLACE. -/

/-- The hall records of a placement. -/
def hallRecords (n : Nat) (raw : Bytes) : List HallPlace :=
  (chunks 16 n raw).map (fun b =>
    { hall := u8 b 0, mask := BitVec.ofNat 20 (u32 b 4), sharedFirst := u16 b 8, sharedCount := u16 b 0xA })

/-- The checks of a hall record: ITEM's offset in the record, and the check. -/
def hallRecordBad (before : List Bytes) (b : Bytes) : Option Nat :=
  lowestBad
    [(0, decide (u8 b 0 < 16) && before.all (fun x => u8 x 0 != u8 b 0)), (1, (nonzeroIn b 1 3).isNone),
     (4, u32 b 4 / 2 ^ 20 == 0), (8, decide (u16 b 8 ≤ 255)), (0xA, decide (u16 b 0xA ≤ 256) && decide (u16 b 8 + u16 b 0xA ≤ 256)),
     (0xC, u32 b 0xC == 0)]

/-- The first failing hall record: its number and offset. -/
def hallTableBad : Nat → List Bytes → List Bytes → Option (Nat × Nat)
  | _, _, [] => none
  | k, before, b :: t =>
    match hallRecordBad before b with
    | some f => some (k, f)
    | none => hallTableBad (k + 1) (before ++ [b]) t

def treadsPlaced (l : List HallPlace) : Nat := l.foldl (fun n p => n + 32 * (setBits p.mask).length) 0

/-- R333, step 1, of the fields at and after SAVE_BASE: ITEM and REASON. -/
def placeBad (m : Memory) (h : Bytes) (l : List HallPlace) (recs : List Bytes) : Option (Nat × Nat) :=
  let base := u64 h 0x10
  let bytes := u64 h 0x18
  if treadsPlaced l = 0 ∧ base ≠ 0 then some (0x10, rsPlace)
  else if base % 4096 ≠ 0 ∨ (bytes ≠ 0 ∧ lpBytes m < base + bytes) then some (0x10, rsSave)
  else
    match nonzeroIn h 0x20 32 with
    | some o => some (o, rsPlace)
    | none => (hallTableBad 0 [] recs).map (fun y => (0x10000 + 16 * y.1 + y.2, rsPlace))

/-- Halls and galleries of a test, in the order in which BUSY reports them. -/
def firstGallery (p : Nat → Nat → Bool) : Option (Nat × Nat) :=
  ((List.range 320).find? (fun k => p (k / 20) (k % 20))).map (fun k => (k / 20, k % 20))

/-- A byte run of a hall's shared memory that a placement uncovers: inside the old range, not inside the new. -/
def uncovers (old new : Nat × Nat) (a n : Nat) : Bool :=
  let lo := max a old.1
  let hi := min (a + n) old.2
  decide (lo < hi) && !(decide (new.1 ≤ lo) && decide (hi ≤ new.2))

/-- R333: the bytes of a hall's shared memory that hold something of the context's. -/
def sharedHeld (x : Ctx) (areas : List (Nat × Nat)) (h : Nat) : List (Nat × Nat) :=
  let blocks := match x.problem with
    | some p => p.blocks.flatMap (fun b => if b.hall = h then b.shared else [])
    | none => []
  let ranges := blocks ++ bufferRanges x 1 h 0
  ranges.map (fun r => (r.first, r.bytes)) ++
    areas.filterMap (fun a =>
      if isHost a.1 then none
      else
        let s := sharedAddr h
        if a.1 + a.2 ≤ s then none else some (a.1 - s, a.1 + a.2 - max a.1 s))

/-- A gallery holds a span or a step of a context. -/
def galleryHeld (x : Ctx) (h g : Nat) : Bool :=
  flightGalleries x |>.contains (h, g) |> (· ||
    (match x.problem with
     | some p => (problemGalleries p).contains (h, g)
     | none => false))

/-- R333, step 2: the BUSY cases in order; the detail word of the first. -/
def placeBusy (d : Dev) (c : Nat) (x y : Ctx) (but : QRef × Nat) (recs : List HallPlace) : Option Nat :=
  let ops := openOps d c but
  let used := ops.flatMap (fun o => opGalleries d (recordNow d o.1 o.2))
  let outs := x.tiles.flatMap (fun t =>
    match t.endReq with
    | some o => outAreas o.record o.offset o.m o.n
    | none => [])
  let areas := ops.flatMap (fun o => opAreas d x (recordNow d o.1 o.2)) ++ outs
  let gone (h g : Nat) : Bool := usesGallery x h g && !usesGallery y h g
  let comes (h g : Nat) : Bool := usesGallery y h g && !usesGallery x h g
  let other (h g : Nat) : Option Nat := (d.ctxs.find? (fun p => p.1 != c && galleryHeld p.2 h g)).map (fun p => p.1)
  let meets (h : Nat) : Option Nat :=
    let a := sharedRange y h
    (d.ctxs.find? (fun p =>
      let b := sharedRange p.2 h
      p.1 != c && decide (a.1 < a.2) && decide (b.1 < b.2) && decide (a.1 < b.2) && decide (b.1 < a.2))).map (fun p => p.1)
  let dead (h g : Nat) : Bool :=
    usesGallery y h g && !(d.avail.halls.getLsbD h && (d.avail.galleries.getD h 0#20).getLsbD g)
  let deadHall (h : Nat) : Bool := recs.any (fun p => p.hall == h) && !d.avail.halls.getLsbD h
  let deadSave : Bool := d.mem.mapping.any (fun k => !d.avail.channels.getLsbD k && rangeOnChannel d.mem y.saveBase y.saveBytes k)
  if x.run.isSome || x.flights.any (fun f => f.2.run.isSome) then some (detailBusyOwn 0xFF 0xFF c)
  else
    match firstGallery (fun h g => gone h g && galleryHeld x h g) with
    | some p => some (detailBusyOwn p.1 p.2 c)
    | none =>
      match (List.range 16).find? (fun h => (sharedHeld x areas h).any (fun r => uncovers (sharedRange x h) (sharedRange y h) r.1 r.2)) with
      | some h => some (detailBusyOwn h 0xFF c)
      | none =>
        match firstGallery (fun h g => gone h g && (used.contains (h, g) || x.tiles.any (fun t => t.hall == h && t.tread / 32 == g))) with
        | some p => some (detailBusyOwn p.1 p.2 c)
        | none =>
          match firstGallery (fun h g => comes h g && (other h g).isSome) with
          | some p => some (detailBusyPlace p.1 p.2 (other p.1 p.2))
          | none =>
            match (List.range 16).find? (fun h => (meets h).isSome) with
            | some h => some (detailBusyPlace h 0xFF (meets h))
            | none =>
              match (List.range 16).find? (fun h => deadHall h || (List.range 20).any (dead h)) with
              | some h => some (detailBusyPlace h (((List.range 20).find? (dead h)).getD 0xFF) none)
              | none => if deadSave then some (detailBusyPlace 0xFF 0xFF none) else none

def bodyPlace : Body := fun env r => do
  let d ← get
  let x ← match ctxOf d env.ctx with
    | some x => pure x
    | none => failWith stBadContext anyDetail
  let h ← descriptor env r 64
  match lowestBad [(0, u16 h 0 == 3), (2, decide (u8 h 2 ≤ 16)), (3, (nonzeroIn h 3 5).isNone), (8, u8 h 2 != 0 || u64 h 8 == 0)] with
  | some o => badFormat o rsPlace
  | none => pure ()
  let raw ← if u8 h 2 = 0 then pure [] else rd env (u64 h 8) (16 * u8 h 2)
  let recs := hallRecords (u8 h 2) raw
  match placeBad d.mem h recs (chunks 16 (u8 h 2) raw) with
  | some b => badFormat b.1 b.2
  | none => pure ()
  let d ← get
  let y := { x with place := recs, saveBase := u64 h 0x10, saveBytes := u64 h 0x18 }
  match placeBusy d env.ctx x y (env.q, env.idx) recs with
  | some detail => failWith stBusy detail
  | none => pure ()
  let need := 66560 * treadsPlaced recs
  require (decide (need ≤ u64 h 0x18)) stDoesNotFit (fitDetail (need - u64 h 0x18) 0 rsSave 0)
  change (fun d => leaveUnits (modCtx env.ctx (fun x => { x with place := recs, saveBase := u64 h 0x10, saveBytes := u64 h 0x18 }) d))
  doneOk anyDetail

/-- PLACE (R332, R333). -/
def execPlace (q : QRef) (s : State) : Host.Outcome State Fault Refusal := opRow q 0xC2 bodyPlace s

end Sys2Proof.Machine
end

