-- ==== Sys2Proof/Machine/Boundary.lean ====
section
/-! DEFINITION. BOUNDARY_LOAD (R203 to R205) and what the messages of boundary exchange do when they arrive (R207 to
R218). -/

namespace Sys2Proof.Machine

/- Reason codes of Table 8.3. -/
def rsMapHeader : Nat := 0x50
def rsMapPart : Nat := 0x51
def rsMapImport : Nat := 0x52
def rsCheckRing : Nat := 0x55

/-- A peer-table entry (Table 8.2). -/
def peerOf (b : Bytes) : Peer :=
  { part := bits (u16 b 0) 0 11, chain := bits (u16 b 2) 0 11, boundary := bit (u32 b 4) 0, parent := bit (u32 b 4) 1,
    child := bit (u32 b 4) 2, importFirst := bits (u32 b 8) 0 23, importCount := bits (u32 b 0xC) 0 24,
    exportFirst := u32 b 0x10, exportCount := u32 b 0x14 }

/-- The reserved fields of a peer-table entry, and the counts that need BOUNDARY. -/
def peerFormOk (b : Bytes) : Bool :=
  bits (u16 b 0) 11 5 == 0 && bits (u16 b 2) 11 5 == 0 && bits (u32 b 4) 3 29 == 0 && bits (u32 b 8) 23 9 == 0 &&
    bits (u32 b 0xC) 24 8 == 0 && (nonzeroIn b 0x18 8).isNone &&
    (bit (u32 b 4) 0 || (bits (u32 b 0xC) 0 24 == 0 && u32 b 0x14 == 0))

/-- The fields of the descriptor (Table 8.1) that reason HEADER names. -/
def mapHeaderOk (m : Memory) (h : Bytes) : Bool :=
  u16 h 0 == 3 && bits (u16 h 2) 11 5 == 0 && bits (u16 h 4) 12 4 == 0 && bits (u16 h 6) 4 12 == 0 &&
    decide (1 ≤ bits (u16 h 4) 0 12) && decide (bits (u16 h 4) 0 12 ≤ 2048) && decide (1 ≤ u16 h 8) &&
    decide (u8 h 0xA ≤ 64) && u8 h 0xB == 0 && decide (u32 h 0xC ≤ 8388608) && (u8 h 0xA != 0 || u64 h 0x10 == 0) &&
    decide (u32 h 0x20 ≤ 16777216) && u32 h 0x24 == 0 && 
    (!addrForm (u64 h 0x28) || (u64 h 0x28 % 64 == 0 && decide (u64 h 0x28 + u64 h 0x30 ≤ lpBytes m))) && u32 h 0x44 == 0 && (nonzeroIn h 0x68 24).isNone

/-- A map as its descriptor and peer table give it. -/
def mapOf (h : Bytes) (peers : List Peer) (exports : List Nat) : Boundary :=
  { part := bits (u16 h 2) 0 11, parts := bits (u16 h 4) 0 12, stale := bits (u16 h 6) 0 4, checkEvery := u16 h 8,
    peers := peers, imports := u32 h 0xC, exports := exports, workAddr := u64 h 0x28, workBytes := u64 h 0x30,
    ring := u64 h 0x38, ringEntries := u32 h 0x40, countAddr := u64 h 0x48, bestAddr := u64 h 0x50,
    bestBytes := u64 h 0x58, endAddr := u64 h 0x60 }

/-- Reason PART: the failing entry, or none for a field of the descriptor. -/
def mapPartBad (b : Boundary) : Option Nat :=
  if b.parts ≤ b.part then some noItem
  else
    let bad (y : Peer × Nat) : Bool :=
      let before := b.peers.take y.2
      decide (b.parts ≤ y.1.part) || y.1.part == b.part || before.any (fun e => e.part == y.1.part) ||
        (y.1.parent && (b.part == 0 || before.any (fun e => e.parent))) || (y.1.parent && y.1.child) ||
        !(y.1.boundary || y.1.parent || y.1.child)
    match b.peers.zipIdx.find? bad with
    | some y => some y.2
    | none => if b.part != 0 && !b.peers.any (fun e => e.parent) then some noItem else none

/-- Reason IMPORT, but for a loaded problem's boundary indices. -/
def mapImportBad (b : Boundary) : Option Nat :=
  let meets (x y : Peer) : Bool :=
    decide (x.importFirst < y.importFirst + y.importCount) && decide (y.importFirst < x.importFirst + x.importCount)
  let bad (y : Peer × Nat) : Bool :=
    y.1.boundary && decide (0 < y.1.importCount) &&
      (decide (b.imports < y.1.importFirst + y.1.importCount) ||
       (b.peers.take y.2).any (fun e => decide (0 < e.importCount) && meets e y.1))
  match b.peers.zipIdx.find? bad with
  | some y => some y.2
  | none => if b.peers.foldl (fun n e => n + e.importCount) 0 = b.imports then none else some noItem

/-- Reason EXPORT: the first entry whose export range leaves the list. -/
def mapExportBad (b : Boundary) (count : Nat) : Option Nat :=
  b.peers.findIdx? (fun e => e.boundary && decide (0 < e.exportCount) && decide (count < e.exportFirst + e.exportCount))

/-- Every boundary index of a loaded problem lies below the map's import count. -/
def importsFit (x : Ctx) (n : Nat) : Bool :=
  match x.problem with
  | some p => p.edges.all (fun e => !e.imp || decide (e.b < n))
  | none => true

/-- A loaded problem holds one import value for each import of the map, −1 where it is new (R200). -/
def withImports (n : Nat) (p : Problem) : Problem :=
  { p with imports := (p.imports ++ List.replicate (n - p.imports.length) false).take n }

def failItem (b : Option Nat) (reason : Nat) : Act Unit :=
  match b with
  | some i => badFormat i reason
  | none => pure ()

def bodyBoundaryLoad : Body := fun env r => do
  let x ← needCtx env
  let h ← descriptor env r 128
  let d ← get
  requireFmt (mapHeaderOk d.mem h) noItem rsMapHeader
  let raw ← if u8 h 0xA = 0 then pure [] else rd env (u64 h 0x10) (32 * u8 h 0xA)
  let entries := chunks 32 (u8 h 0xA) raw
  failItem (entries.findIdx? (fun b => !peerFormOk b)) rsMapHeader
  let b := mapOf h (entries.map peerOf) []
  failItem (mapPartBad b) rsMapPart
  failItem (mapImportBad b) rsMapImport
  requireFmt (importsFit x b.imports) noItem rsMapImport
  failItem (mapExportBad b (u32 h 0x20)) rsExport
  let list ← if u32 h 0x20 = 0 then pure [] else rd env (u64 h 0x18) (4 * u32 h 0x20)
  let b := { b with exports := u32sOf (u32 h 0x20) list }
  match x.problem with
  | some p => failItem (exportBad (spinCount p.blocks) b) rsExport
  | none => pure ()
  let need := workNeed b 0
  require (decide (need ≤ b.workBytes)) stDoesNotFit (fitDetail (need - b.workBytes) 0 rsWork 0)
  requireFmt (b.ring % 64 == 0 && isPow2 b.ringEntries && inRange b.ringEntries 16 65536 && b.countAddr % 8 == 0)
    noItem rsCheckRing
  checkAddr b.workAddr
  checkAddr b.ring
  checkAddr b.countAddr
  checkAddr b.bestAddr
  checkAddr b.endAddr
  require x.run.isNone stBusy anyDetail
  change (modCtx env.ctx (fun x => { x with boundary := some b, problem := x.problem.map (withImports b.imports) }))
  pure (.done {} 6)

/-- BOUNDARY_LOAD (R205). -/
def execBoundaryLoad (q : QRef) (s : State) : Host.Outcome State Fault Refusal := opRow q 0x47 bodyBoundaryLoad s

/- Messages. -/

/-- R229: until its identifier is set, the device discards every flit but IDLE and LINK_MGMT. -/
def chainHears (d : Dev) : Bool := d.chain.id.isSome

/-- The map of a context with an active run, where the device takes the message at all. -/
def activeMap (d : Dev) (c : Nat) : Option (Run × Boundary) :=
  match ctxOf d c with
  | some { boundary := some b, run := some g, .. } => if chainHears d then some (g, b) else none
  | _ => none

def peerPart (b : Boundary) (part : Nat) : Option Peer := b.peers.find? (fun e => e.part == part)

/-- The newest hello of each part is kept. -/
def putHello (m : HelloMsg) (l : List (Nat × HelloMsg)) : List (Nat × HelloMsg) :=
  l.filter (fun h => h.1 != m.part) ++ [(m.part, m)]

/-- A hello arrives: for the run that waits for it, or for a later one (R213). -/
def helloArrives (c : Nat) (m : HelloMsg) (d : Dev) : Dev :=
  if !chainHears d then d
  else
  match activeMap d c with
  | some (g, _) =>
    if g.begun then modCtx c (fun x => { x with hellos := putHello m x.hellos }) d
    else resumeRun c (modBRun c (fun r => { r with hellos := putHello m r.hellos }) d)
  | none => modCtx c (fun x => { x with hellos := putHello m x.hellos }) d

/-- HELLO (R213). -/
def execHello (c : CtxId) (message : HelloMsg) (s : State) : Host.Outcome State Fault Refusal :=
  onMem (helloArrives c.val message) s

/-- A frame of a peer has a slot of the frame store: its own, or a free one (R209). No peer sends a frame that has none; one
that came all the same is dropped (log 70). -/
def slotFree (b : Boundary) (part epoch : Nat) : Bool :=
  let l := b.run.frames.filter (fun s => s.part == part)
  l.any (fun s => s.epoch == epoch) || decide (l.length < slotCount b)

/-- Bits or a newel placed in the frame store. -/
def putSlot (part epoch : Nat) (f : FrameSlot → FrameSlot) (l : List FrameSlot) : List FrameSlot :=
  match l.find? (fun s => s.part == part && s.epoch == epoch) with
  | some s => l.map (fun t => if t == s then f t else t)
  | none => l ++ [f { part := part, epoch := epoch, bits := none, newel := none, resends := 0 }]

/-- R218: the detail word of a partitioned run that loses a peer: link, chain identifier and part. -/
def lostDetail (link : Nat) (e : Peer) : Nat := low 4 link + low 11 e.chain * 2 ^ 4 + low 11 e.part * 2 ^ 15

/-- A frame whose newel disagrees is asked for again, up to 3 times (R208). -/
def judgeSlot (c part epoch : Nat) (d : Dev) : Dev :=
  match activeMap d c with
  | none => d
  | some (_, b) =>
    match b.run.frames.find? (fun s => s.part == part && s.epoch == epoch), peerPart b part with
    | some s, some e =>
      if s.bits.isNone || s.newel.isNone || slotWhole s then d
      else if s.resends < 3 then
        sendTo e.chain (.resend b.part epoch)
          (modBRun c (fun r => { r with frames := putSlot part epoch (fun s =>
            { s with bits := none, newel := none, resends := s.resends + 1 }) r.frames }) d)
      else stopRun c (.status stLinkLost (lostDetail ((routeOf d e.chain).getD 0) e)) d
    | _, _ => d

/-- Bits or a newel arrive (R208). -/
def slotArrives (c part epoch : Nat) (f : FrameSlot → FrameSlot) (d : Dev) : Dev :=
  match activeMap d c with
  | none => d
  | some (_, b) =>
    match peerPart b part with
    | none => d
    | some e =>
      if !e.boundary || (frameHeld b part epoch).isSome || !slotFree b part epoch then d
      else
        let d := workWritten b (modBRun c (fun r => { r with frames := putSlot part epoch f r.frames }) d)
        resumeRun c (checkProgress c (judgeSlot c part epoch d))

/-- NEWEL (R208). -/
def execNewel (c : CtxId) (part : Fin 2048) (epoch bitCount : Nat) (crc : BitVec 32) (s : State) :
    Host.Outcome State Fault Refusal :=
  onMem (slotArrives c.val part.val epoch (fun s => { s with newel := some (bitCount, crc.toNat) })) s

/-- FRAME (R207, R208). -/
def execFrame (c : CtxId) (part : Fin 2048) (epoch : Nat) (values : List Bool) (s : State) :
    Host.Outcome State Fault Refusal :=
  onMem (slotArrives c.val part.val epoch (fun s => { s with bits := some values })) s

/-- A RESEND is answered from the send store (R209). -/
def resendArrives (c part epoch : Nat) (d : Dev) : Dev :=
  match activeMap d c with
  | none => d
  | some (_, b) =>
    match b.run.sent.find? (fun s => s.part == part && s.epoch == epoch), peerPart b part with
    | some s, some e => sendFrame b e epoch s.bits d
    | _, _ => d

/-- RESEND (R209). -/
def execResend (c : CtxId) (part : Fin 2048) (epoch : Nat) (s : State) : Host.Outcome State Fault Refusal :=
  onMem (resendArrives c.val part.val epoch) s

/-- A child's contribution to a checkpoint (R215). -/
def checkArrives (c : Nat) (k : CheckPart) (d : Dev) : Dev :=
  match activeMap d c with
  | none => d
  | some (_, b) =>
    match peerPart b k.part with
    | none => d
    | some e =>
      if !e.child then d
      else
        resumeRun c (checkProgress c (modBRun c (fun r =>
          { r with checks := r.checks.filter (fun j => !(j.part == k.part && j.epoch == k.epoch)) ++ [k] }) d))

/-- CHECK_UP (R215). -/
def execCheckUp (c : CtxId) (part : Fin 2048) (epoch : Nat) (sumA sumB : Int) (parts : Nat) (s : State) :
    Host.Outcome State Fault Refusal :=
  onMem (checkArrives c.val { part := part.val, epoch := epoch, sumA := sumA, sumB := sumB, parts := parts }) s

/-- The verdict of the pending checkpoint arrives from the parent (R215, R216). -/
def verdictArrives (c : Nat) (v : VerdictMsg) (d : Dev) : Dev :=
  match activeMap d c with
  | none => d
  | some (_, b) =>
    match b.run.point with
    | none => d
    | some pt =>
      if pt.epoch != v.epoch || b.part == 0 then d
      else resumeRun c (settleVerdict c (modBRun c (fun r => { r with due := some v }) d))

/-- VERDICT (R215, R216). -/
def execVerdict (c : CtxId) (message : VerdictMsg) (s : State) : Host.Outcome State Fault Refusal :=
  onMem (verdictArrives c.val message) s

/-- An end notice reaches an active run (R218): it is forwarded once, and the run ends at the end of its sweep. A run that
ends by its own cause ignores it (R219). -/
def noticeArrives (c part : Nat) (kind : EndKind) (d : Dev) : Dev :=
  match activeMap d c with
  | none => d
  | some (g, b) =>
    if g.stop.isSome || g.ending.isSome || b.run.notice.isSome then d
    else
      let d := modBRun c (fun r => { r with notice := some (part, kind) }) d
      let d := sendNotices b part kind d
      resumeRun c (stopRun c (if kind = .stopFence then .stopFence else .status stAborted anyDetail) d)

/-- END_NOTICE (R218). -/
def execEndNotice (c : CtxId) (part : Fin 2048) (kind : EndKind) (s : State) : Host.Outcome State Fault Refusal :=
  onMem (noticeArrives c.val part.val kind) s

/-- INGEST (R186): measurement records of a chain source arrive. -/
def execIngest (tag : BitVec 16) (link : LinkId) (data : Bytes) (s : State) : Host.Outcome State Fault Refusal :=
  onDev (fun d => if chainHears d then deliverIngest tag.toNat (some link.val) data d else d) s

end Sys2Proof.Machine
end

