-- ==== Sys2Proof/Machine/Ends.lean ====
section
/-! DEFINITION. The ends of ops that took time, and the handling of curator traps (R107, R167, R190, R316, R401, R470). -/

namespace Sys2Proof.Machine

/-- What an op that was told to stop, or whose work is over, has still to do before it ends: a run with no sweep in
progress ends, a flight or the tiles of an op settle. -/
def settleOp (q : QRef) (idx : Nat) (d : Dev) : Dev :=
  match (queueOf d q).cur with
  | none => d
  | some e =>
    match openIssue e idx with
    | some { wait := .run, .. } => resumeRun e.ctx d
    | some { wait := .flight f, .. } => flightProgress e.ctx f (resumeRun e.ctx d)
    | some { wait := .tiles, .. } => settleTiles e.ctx (.op q idx) d
    | _ => d

/-- An op in progress ends, if it can. -/
def endNow (q : QRef) (idx : Nat) (d : Dev) : Dev := pumpQueue q (endOp q idx (settleOp q idx d))

/-- An op that a trap ends, if its entry still runs (R470). -/
def trapOp (u : QRef × Nat × Nat) (d : Dev) : Dev :=
  match (queueOf d u.1).cur with
  | none => d
  | some e =>
    if e.index != u.2.1 then d
    else
      match openIssue e u.2.2 with
      | some i => settleOp u.1 u.2.2 (stopOp u.1 e.ctx stDeviceFault i d)
      | none => d

/-- The handling of a source's trap ends: its users end with DEVICE_FAULT, the foyer's trap ends the host mailbox
message, and with K set the source is acknowledged (R401, R470). -/
def trapEnd (src : Nat) (d : Dev) : Dev :=
  match d.fc.traps.find? (fun t => t.source == src) with
  | none => d
  | some t =>
    let d := { d with fc := { d.fc with traps := d.fc.traps.erase t } }
    let d := t.users.foldl (fun d u => trapOp u d) d
    let d := if src = 4 then respondFail .host stDeviceFault anyDetail d else d
    if cfgAutoAck (sourceConfig d.fc src) then acknowledge src d else d

/-- CURATOR_TRAP_END (R401). -/
def execCuratorTrapEnd (src : Source) (s : State) : Host.Outcome State Fault Refusal := onMem (trapEnd src.val) s

/-- MARCH_UNIT_END (R269): what waited for the unit goes on. -/
def execMarchUnitEnd (unit : MarchUnit) (found lost : List Nat) (s : State) : Host.Outcome State Fault Refusal :=
  onMem (fun d => resumeRuns (marchUnitEnd unit (markLost found lost) d)) s

end Sys2Proof.Machine
end

