-- ==== Sys2Proof/Machine/Chain.lean ====
section
/-! DEFINITION. The chain links: negotiation, CHAIN_CTL, flits, silence and loss (R220 to R233), and CHAIN_ID_SET (R356). -/

namespace Sys2Proof.Machine

/- Reason codes of Table 9.7. -/
def rsChainHeader : Nat := 0x70
def rsChainLink : Nat := 0x71
def rsMirrorRole : Nat := 0x72
def rsMirrorPartner : Nat := 0x73
def rsMirrorContext : Nat := 0x74

/- Negotiation (R221). -/

/-- The candidates in order: lanes (0: 4, 1: 2, 2: 1) and rate (0: 112, 1: 56, 2: 28 Gb/s). -/
def candidates : List (Nat × Nat) := [(0, 0), (0, 1), (1, 0), (0, 2), (1, 1), (2, 0), (1, 2), (2, 1), (2, 2)]

/-- A candidate that neither partner's limits exclude. -/
def candidateOk (l : Link) (k : Nat × Nat) : Bool :=
  decide (l.negLanes ≤ k.1) && decide (l.negRate ≤ k.2) && decide (l.peerLanes ≤ k.1) && decide (l.peerRate ≤ k.2)

/-- The candidate in work: the first at or after `candidate` that the limits admit, with its number. -/
def candidateNow (l : Link) : Option (Nat × Nat × Nat) :=
  (candidates.zipIdx.find? (fun y => decide (l.candidate ≤ y.2) && candidateOk l y.1)).map (fun y => (y.2, y.1.1, y.1.2))

/-- R220: FEC is in use but where the rate is 28 Gb/s and both partners set FEC_OFF. -/
def fecUsed (l : Link) (rate : Nat) : Bool := !(rate == 2 && l.negFecOff && l.peerFecOff)

/-- What LINK_MGMT tells the partner. -/
def ownInfo (d : Dev) (l : Link) : LinkMgmtMsg :=
  .info d.chain.id.isSome (Fin.ofNat 2048 (d.chain.id.getD 0)) (Fin.ofNat 3 l.maxLanes) (Fin.ofNat 3 l.maxRate) l.fecOff
    (Fin.ofNat 3 (if l.mirror then d.chain.mirror.role else 0))

/-- LINK_MGMT leaves on a link. -/
def sendInfo (n : Nat) (d : Dev) : Dev :=
  let l := linkOf d n
  if linkUp l then sendOn n (l.peer.getD 0) (.mgmt (ownInfo d l)) d else d

def linkAvail (n : Nat) (b : Bool) (d : Dev) : Dev := setAvail { d.avail with links := setBit d.avail.links n b } d

/-- The lane choices of a mode by their first lane: all four lanes, lanes 0 and 1 or 2 and 3, one lane (R221). -/
def laneChoice (lanes first : Nat) : Bool :=
  if lanes = 0 then first == 0 else if lanes = 1 then first == 0 || first == 2 else true

/-- The candidate in work trains on the lanes from `lane`: the link is up, and the flits held for retry are sent again
(R221, R225). -/
def linkTrained (n lane : Nat) (d : Dev) : Dev :=
  let l := linkOf d n
  match l.state, candidateNow l with
  | .training, some (_, lanes, rate) =>
    if laneChoice lanes lane then
      let l' := { l with state := .up, lanes := lanes, rate := rate, fec := fecUsed l rate, firstLane := lane, wasUp := true
                         failures := 0, silent := false, replays := satAdd 32 l.replays l.unacked.length }
      sendInfo n (runLink n (linkAvail n true (causeEnds (linkSource n) (setLink n l' d))))
    else d
  | _, _ => d

/- Loss of routes (R233). -/

/-- The peers of an active run that a change made unreachable: the link before, and the peer. -/
def peersLost (before after : Dev) (b : Boundary) : Option (Nat × Peer) :=
  b.peers.findSome? (fun e =>
    match routeOf before e.chain, routeOf after e.chain with
    | some n, none => some (n, e)
    | _, _ => none)

/-- A change of links or routes, with the end of the runs that lose a peer by it. -/
def losing (f : Dev → Dev) (d : Dev) : Dev :=
  let d' := f d
  d.ctxs.foldl
    (fun s p =>
      match activeMap d p.1 with
      | some (_, b) =>
        match peersLost d d' b with
        | some (n, e) => resumeRun p.1 (stopRun p.1 (.status stLinkLost (lostDetail n e)) s)
        | none => s
      | none => s) d'

/-- A link is lost (R232). -/
def linkLost (n : Nat) (d : Dev) : Dev :=
  let d := setLink n { linkOf d n with state := .lost, lanes := 0, rate := 0, fec := false, wasUp := false } d
  let d := raise (linkSource n) n (linkAvail n false d)
  dropTraffic n (logOpen 0x09 14 (if n < 8 then dieE else dieW) n 0 0 d)

/-- A negotiation found no candidate (R232): the third in a row loses the link; a lost link stays lost. -/
def negotiationFails (n : Nat) (d : Dev) : Dev :=
  let l := linkOf d n
  if 3 ≤ l.failures then setLink n { l with state := .lost } d
  else if l.failures = 2 then linkLost n (setLink n { l with failures := 3 } d)
  else setLink n (negotiate { l with failures := l.failures + 1 }) d

/-- LINK_CANDIDATE_TIMEOUT (R221). -/
def candidateTimeout (n : Nat) (d : Dev) : Dev :=
  let l := linkOf d n
  if l.state != .training then d
  else
    match candidateNow l with
    | none => negotiationFails n d
    | some (k, _) =>
      let l' := { l with candidate := k + 1 }
      if (candidateNow l').isNone then negotiationFails n d else setLink n l' d

/-- LINK_SILENT (R232, R240): a mirror link keeps its mode, and what it carried goes on the other. -/
def linkSilent (n : Nat) (d : Dev) : Dev :=
  let l := linkOf d n
  if !linkUp l then d
  else if l.mirror then
    if l.silent then d
    else
      let d := logOpen 0x09 15 (if n < 8 then dieE else dieW) n 0 0 (setLink n { l with silent := true } d)
      if mirrorLive1 d (otherMirror d n) then moveFlits n d else d
  else setLink n (negotiate { l with failures := 0 }) d

/-- LINK_RETRY_TIMER (R232). -/
def retryTimer (n : Nat) (d : Dev) : Dev :=
  let l := linkOf d n
  if l.state = .lost then setLink n (negotiate { l with failures := 3 }) d else d

/-- Work of attached contexts that waited for the link goes on (R239). -/
def mirrorWake (d : Dev) : Dev :=
  d.chain.mirror.ctxs.foldl
    (fun d m =>
      if mirrorPending d m.ctx then d
      else
        let d := (boundQueues d m.ctx).foldl
          (fun d q =>
            let idxs := match (queueOf d q).cur with
              | some e => e.issues.filterMap (fun (i : OpIssue) => match i.wait with | .ack _ => some i.idx | _ => none)
              | none => []
            resumeQueue q (idxs.foldl (fun d i => endOp q i d) d)) d
        resumeRun m.ctx (payHeads m.ctx d)) d

/- Pairing (R234). -/

/-- The partner of a pairing is not to be had: on neither link is it reached, or it reports another identifier or the
same role. -/
def pairFails (d : Dev) (role partner a b : Nat) : Bool :=
  let ls := [linkOf d a, linkOf d b]
  !ls.any linkCarries ||
    ls.any (fun l => linkUp l && (match l.peer with | some p => p != partner || l.peerRole == role | none => false))

/-- MIRROR_BEAT has crossed both ways on a link. -/
def pairReady (d : Dev) : Bool :=
  let m := d.chain.mirror
  [linkOf d m.linkA, linkOf d m.linkB].any (fun l => l.beatIn && l.beatOut)

/-- A link with or without the mirror role; no beat has crossed. -/
def setMirrorRole (b : Bool) (n : Nat) (d : Dev) : Dev :=
  setLink n { linkOf d n with mirror := b, beatIn := false, beatOut := false, silent := false } d

/-- Ops that wait for the pairing get their outcome, with their op step. -/
def pairOutcome (o : OpOut) (d : Dev) : Dev :=
  (allQueues d).foldl
    (fun d q =>
      match (queueOf d q).cur with
      | some e =>
        e.issues.foldl (fun d i => match i.wait with | .pair => opSteps q 1 (opOutcome q i.idx o d) | _ => d) d
      | none => d) d

/-- A pairing in progress completes, or fails and is undone. -/
def pairStep (d : Dev) : Dev :=
  let m := d.chain.mirror
  if m.role = 0 ∨ m.state ≠ .none then d
  else if pairFails d m.role m.partner m.linkA m.linkB then
    pairOutcome { status := stBadFormat, detail := itemReason 6 rsMirrorPartner }
      (modMirror (fun m => { m with role := 0 }) (setMirrorRole false m.linkA (setMirrorRole false m.linkB d)))
  else if pairReady d then pairOutcome {} (modMirror (fun m => { m with state := .paired }) d)
  else d

/-- A flit with a good CRC has come (R232). -/
def hears (n : Nat) (d : Dev) : Dev := setLink n { linkOf d n with silent := false } d

/- Flits. -/

def isBeat (f : TxFlit) : Bool := f.msg == some .beat

/-- R225: the flits up to ACK_SEQ are freed. A beat among them has crossed (R234). -/
def ackFlits (seq : Nat) (l : Link) : Link :=
  match l.unacked.findIdx? (fun f => f.head.seq.val == seq) with
  | some i =>
    { l with unacked := l.unacked.drop (i + 1), beatOut := l.beatOut || (l.mirror && (l.unacked.take (i + 1)).any isBeat) }
  | none => l

/-- Credits that return, at most the partner's buffers (R226). -/
def addCredits (cs : List Nat) (l : Link) : Link :=
  { l with credits := (List.range 4).map (fun v => min ([8, 64, 64, 128].getD v 0) (l.credits.getD v 0 + min 15 (cs.getD v 0))) }

/-- NAK (R225): every flit after ACK_SEQ is sent again. -/
def nak (n seq : Nat) (d : Dev) : Dev :=
  let l := linkOf d n
  if linkUp l then
    let l' := ackFlits seq { l with silent := false }
    mirrorWake (pairStep (runLink n (setLink n { l' with replays := satAdd 32 l'.replays l'.unacked.length } d)))
  else d

/-- FLIT_CRC_FAIL (R225): the flit is dropped and answered with NAK. -/
def flitCrcFail (n : Nat) (uncorrectable : Bool) (d : Dev) : Dev :=
  let l := linkOf d n
  if linkUp l then
    runLink n (setLink n { l with nakDue := true
                                  fecUncorrectable := if uncorrectable then satAdd 32 l.fecUncorrectable 1 else l.fecUncorrectable } d)
  else d

/- The receiver (R224 to R230). -/

/-- R224: a flit that is discarded. -/
def flitBad (h : FlitHeader) : Bool :=
  typeVc h.type.val != some h.vc.val || h.reserved ||
    (if h.type.val = 0 then h.length.val != 0 else !inRange h.length.val 1 240)

/-- A discarded flit is counted (R224). -/
def dropFormat (n : Nat) (d : Dev) : Dev :=
  let l := linkOf d n
  setLink n { l with formatDrops := satAdd 32 l.formatDrops 1 } d

/-- A flit for this device joins its message: FIRST begins one, LAST completes it, per source and VC (R228). -/
def assemble (h : FlitHeader) (l : List (Nat × Nat × Nat)) : List (Nat × Nat × Nat) :=
  let mine (m : Nat × Nat × Nat) : Bool := m.1 == h.src.val && m.2.1 == h.vc.val
  let rest := l.filter (fun m => !mine m)
  let held := match l.find? mine with | some m => m.2.2 | none => 0
  if h.last then rest
  else if h.first then rest ++ [(h.src.val, h.vc.val, 1)]
  else if held = 0 then l
  else rest ++ [(h.src.val, h.vc.val, held + 1)]

/-- A flit of another device's message leaves on its route's link, or is dropped (R230). One of VC0 waits in the chain die's
own queue, any other in its buffer until it leaves (R227). -/
def forwardFlit (n : Nat) (h : FlitHeader) (d : Dev) : Dev :=
  if h.hops.val = 63 then
    let d := oweCredit n h.vc.val d
    logOpen 0x09 16 (if n < 8 then dieE else dieW) n h.dest.val h.src.val
      (setLink n { linkOf d n with hopDrops := satAdd 32 (linkOf d n).hopDrops 1 } d)
  else
    match routeOf d h.dest.val with
    | none => oweCredit n h.vc.val d
    | some m =>
      let f : TxFlit := { head := { h with hops := h.hops + 1 }, via := if h.vc.val = 0 then none else some n }
      queueFlits m [f] (if h.vc.val = 0 then oweCredit n 0 d else d)

/-- What becomes of a flit received in order: discarded, of a message for this device, or forwarded. A mirror link never
forwards, and a device without an identifier takes LINK_MGMT alone (R224, R229, R230, R234). -/
def placeFlit (n : Nat) (h : FlitHeader) (d : Dev) : Dev :=
  if flitBad h then dropFormat n (oweCredit n h.vc.val d)
  else if h.type.val = 1 || (chainHears d && d.chain.id == some h.dest.val) then
    let d := oweCredit n h.vc.val d
    { d with chain := { d.chain with inbound := assemble h d.chain.inbound } }
  else if !chainHears d || (linkOf d n).mirror then oweCredit n h.vc.val d
  else forwardFlit n h d

/-- A flit with a good CRC: one out of order is dropped, and acknowledged again (R225); what the receiver then owes leaves
with the next flit. IDLE is not sequenced. -/
def receiveFlit (n : Nat) (h : FlitHeader) (d : Dev) : Dev :=
  let l := linkOf d n
  if !linkUp l then d
  else
    let d := hears n d
    if h.type.val = 0 then (if flitBad h then dropFormat n d else d)
    else if h.seq.val = (l.rxSeq + 1) % 4096 then
      runLink n (placeFlit n h (setLink n { linkOf d n with rxSeq := h.seq.val, ackDue := true } d))
    else runLink n (setLink n { linkOf d n with ackDue := true } d)

/-- FLIT_ACK (R225, R226): the trailer of a flit, whose header follows, frees flits and returns credits. -/
def flitAck (n : Nat) (h : FlitHeader) (t : FlitTrailer) (d : Dev) : Dev :=
  let l := linkOf d n
  if linkUp l then
    let l' := { l with silent := false, fecCorrected := if l.fec then satAdd 64 l.fecCorrected t.corrected else l.fecCorrected }
    mirrorWake (pairStep (receiveFlit n h (runLink n (setLink n (addCredits t.credits (ackFlits t.ackSeq.val l')) d))))
  else d

/-- FLIT_FORMAT_DROP (R224). -/
def flitFormatDrop (n : Nat) (h : FlitHeader) (d : Dev) : Dev := if flitBad h then receiveFlit n h d else d

/-- A received flit of another device's message (R230, R234). -/
def flitForward (n : Nat) (h : FlitHeader) (d : Dev) : Dev :=
  if d.chain.id == some h.dest.val then d else receiveFlit n h d

/-- LINK_TRAINED (R221). -/
def execLinkTrained (mode : TrainedLink) (s : State) : Host.Outcome State Fault Refusal :=
  onMem (fun d => mirrorWake (linkTrained mode.link.val mode.lane.val d)) s

/-- LINK_CANDIDATE_TIMEOUT (R221, R232). -/
def execLinkCandidateTimeout (link : LinkId) (s : State) : Host.Outcome State Fault Refusal :=
  onMem (fun d => pairStep (losing (candidateTimeout link.val) d)) s

/-- LINK_SILENT (R232). -/
def execLinkSilent (link : LinkId) (s : State) : Host.Outcome State Fault Refusal := onMem (linkSilent link.val) s

/-- LINK_RETRY_TIMER (R232). -/
def execLinkRetryTimer (link : LinkId) (s : State) : Host.Outcome State Fault Refusal := onDev (retryTimer link.val) s

/-- FLIT_ACK (R225, R226). -/
def execFlitAck (link : LinkId) (header : FlitHeader) (trailer : FlitTrailer) (s : State) :
    Host.Outcome State Fault Refusal :=
  onMem (flitAck link.val header trailer) s

def execNak (link : LinkId) (ackSeq : Fin 4096) (s : State) : Host.Outcome State Fault Refusal :=
  onMem (nak link.val ackSeq.val) s

def execFlitCrcFail (link : LinkId) (uncorrectable : Bool) (s : State) : Host.Outcome State Fault Refusal :=
  onDev (flitCrcFail link.val uncorrectable) s

def execFlitFormatDrop (link : LinkId) (header : FlitHeader) (s : State) : Host.Outcome State Fault Refusal :=
  onDev (flitFormatDrop link.val header) s

/-- FLIT_FORWARD (R230). -/
def execFlitForward (link : LinkId) (header : FlitHeader) (s : State) : Host.Outcome State Fault Refusal :=
  onDev (flitForward link.val header) s

/- CHAIN_CTL (Table 9.4, R231). -/

def chainAction (d : Dev) (r : Bytes) : Nat := bits (u16 (fetch d (opnd r 0) 64) 2) 0 3

def chainCtlBad (b : Bytes) : Option Nat :=
  let act := bits (u16 b 2) 0 3
  let limits := act == 0
  lowestBad
    [(0, u16 b 0 == 3), (2, decide (act < 6) && bits (u16 b 2) 4 12 == 0),
     (6, bits (u16 b 6) 5 11 == 0 &&
       (!limits || (bits (u16 b 6) 0 2 != 3 && bits (u16 b 6) 2 2 != 3 && (!bit (u16 b 6) 4 || bits (u16 b 6) 2 2 == 2)))),
     (0x10, (nonzeroIn b 0x10 48).isNone)]

/-- Links of a mask changed one by one. -/
def eachLink (mask : Nat) (f : Nat → Link → Link) (d : Dev) : Dev :=
  (setBits (BitVec.ofNat 16 mask)).foldl (fun d n => setLink n (f n (linkOf d n)) d) d

/-- The chain peer of a decision channel with CHAIN_SEND. -/
def sendPeer (k : Decision) : Option Nat := if decChain k then some (bits (u16 k.record 0x3A) 0 11) else none

/-- The context's run uses a link: a partitioned run's route, or a chain send's. -/
def runUsesLink (d : Dev) (x : Ctx) (n : Nat) : Bool :=
  match x.run with
  | none => false
  | some g =>
    (match x.boundary with
     | some b => b.peers.any (fun e => routeOf d e.chain == some n)
     | none => false) ||
    (match g.decision.bind sendPeer with
     | some p => routeOf d p == some n
     | none => false)

/-- R231: the link is in use. -/
def linkInUse (d : Dev) (n : Nat) : Bool :=
  (linkOf d n).mirror || d.ctxs.any (fun p => runUsesLink d p.2 n) ||
    d.heldOut.any (fun h => (sendPeer h.2).any (fun p => routeOf d p == some n))

/-- A link is disabled: it sends nothing and keeps no mode (R231). -/
def disableLink (n : Nat) (d : Dev) : Dev :=
  let users := (d.ctxs.filter (fun p => runUsesLink d p.2 n)).map (fun p => p.1)
  let d := users.foldl (fun d c => terminateCtx c stAbortedDisabled d) d
  losing (fun d =>
    let d := dropTraffic n d
    let l := linkOf d n
    let l := { l with state := .disabled, mirror := false, lanes := 0, rate := 0, fec := false, silent := false, wasUp := false }
    linkAvail n false (causeEnds (linkSource n) (setLink n l d))) d

/-- Chain work that ROUTES and CHAIN_ID_SET wait for: partitioned runs, chain INGEST steps, CHAIN_SEND channels. -/
def chainBusy (d : Dev) : Bool :=
  d.ctxs.any (fun p =>
    (p.2.run.isSome && p.2.boundary.isSome) || (p.2.run.bind (fun g => g.decision.bind sendPeer)).isSome ||
    p.2.flights.any (fun f => f.2.run.isSome && f.2.steps.any (fun s => s.source.any (fun r => r.chain)))) ||
  d.heldOut.any (fun h => (sendPeer h.2).isSome)

def linkStateCode (s : LinkState) : Nat :=
  match s with
  | .down => 0
  | .training => 1
  | .up => 2
  | .lost => 3
  | .disabled => 4

/-- The status record of a link (Table 9.5). -/
def linkRecord (l : Link) : Bytes :=
  leBytes 2 (linkStateCode l.state + 8 * ofBool l.mirror + 16 * l.lanes + 64 * l.rate + 256 * ofBool l.fec +
    512 * ofBool l.peer.isSome) ++
  leBytes 2 (l.peer.getD 0) ++ leBytes 4 l.retrains ++ leBytes 8 l.fecCorrected ++ leBytes 4 l.fecUncorrectable ++
  leBytes 4 l.replays ++ leBytes 4 l.hopDrops ++ leBytes 4 l.formatDrops

def chainBody : Body := fun env r => do
  let b ← descriptor env r 64
  match chainCtlBad b with
  | some o => badFormat o rsChainHeader
  | none => pure ()
  let mask := u16 b 4
  let lim := u16 b 6
  match bits (u16 b 2) 0 3 with
  | 0 => do
    if bit lim 4 then needExpert exChain else pure ()
    change (eachLink mask (fun _ l => { l with maxLanes := bits lim 0 2, maxRate := bits lim 2 2, fecOff := bit lim 4 }))
    change (fun d => (setBits (BitVec.ofNat 16 mask)).foldl (fun d n => sendInfo n d) d)
    doneOk anyDetail
  | 1 => do
    change (eachLink mask (fun _ l => if l.state = .disabled then negotiate { l with failures := 0 } else l))
    doneOk anyDetail
  | 2 => do
    let d ← get
    let links := setBits (BitVec.ofNat 16 mask)
    require (bit (u16 b 2) 3 || !links.any (linkInUse d)) stBusy anyDetail
    change (fun d => links.foldl (fun d n => disableLink n d) d)
    doneOk anyDetail
  | 3 => do
    change (eachLink mask (fun _ l => if linkUp l then negotiate { l with failures := 0 } else l))
    doneOk anyDetail
  | 4 => do
    let t ← rd env (u64 b 8) 2048
    requireFmt (t.all (fun x => bits x.toNat 4 3 == 0)) 8 rsChainHeader
    let d ← get
    require (!chainBusy d) stBusy anyDetail
    change (losing (fun d => { d with chain := { d.chain with routes := t.map (fun x => x.toNat) } }))
    doneOk anyDetail
  | _ => do
    let d ← get
    checkDest (u64 b 8) 512
    wr (u64 b 8) (d.chain.links.flatMap linkRecord)
    doneOk anyDetail

def chainRow (q : QRef) (act : Nat) (s : State) : Host.Outcome State Fault Refusal :=
  actionRow q 0xC7 chainAction act [0, 1, 2, 3, 4, 5] chainBody s

def execLimits (q : QRef) (s : State) : Host.Outcome State Fault Refusal := chainRow q 0 s
def execLinkEnable (q : QRef) (s : State) : Host.Outcome State Fault Refusal := chainRow q 1 s
def execLinkDisable (q : QRef) (s : State) : Host.Outcome State Fault Refusal := chainRow q 2 s
def execRetrain (q : QRef) (s : State) : Host.Outcome State Fault Refusal := chainRow q 3 s
def execRoutes (q : QRef) (s : State) : Host.Outcome State Fault Refusal := chainRow q 4 s
def execLinkStatus (q : QRef) (s : State) : Host.Outcome State Fault Refusal := chainRow q 5 s

/- CHAIN_ID_SET (R229, R356). -/

/-- STATUS offset 0x18. -/
def chainIdReg (d : Dev) : Nat :=
  match d.chain.id with
  | some n => n + 0x8000
  | none => 0

def bodyChainId : MailBody := fun _ p => do
  if u32 p 0 / 2048 ≠ 0 then mailBad 0
  else do
    let d ← get
    require (!chainBusy d && !d.chain.links.any (fun l => l.mirror)) stBusy anyDetail
    change (fun d => (List.range 16).foldl (fun d n => sendInfo n d) { d with chain := { d.chain with id := some (u32 p 0) } })
    pure (some (leBytes 4 (chainIdReg d)))

/-- CHAIN_ID_SET (R356). -/
def execChainIdSet (ch : Chan) (s : State) : Host.Outcome State Fault Refusal :=
  mailRow ch ⟨0x90, [(4, 4)], true, false⟩ anyMessage bodyChainId s

/- Start-up's last hardware stage (R442). -/

/-- Every chain link that is not disabled starts negotiation. -/
def startLinks (d : Dev) : Dev :=
  (List.range 16).foldl (fun d n =>
    let l := linkOf d n
    if l.state = .down then setLink n (negotiate l) d else d) d

/-- STARTUP_STAGE_END (R439 to R445). -/
def execStartupStageEnd (report : StageReport) (s : State) : Host.Outcome State Fault Refusal :=
  onMem (fun d => if bootRuns d && d.boot.stage == 10 then startLinks (stageEnd report s.otp d) else stageEnd report s.otp d) s

end Sys2Proof.Machine
end

