-- ==== Sys2Proof/Machine/Mirror.lean ====
section
/-! DEFINITION. The mirrored pair: LINK_MGMT, MIRROR_CTL, beats, the log and the checkpoints on the secondary, takeover
and yield (R229, R234 to R243, R355, R458). -/

namespace Sys2Proof.Machine

/- LINK_MGMT (R229, R355). -/

/-- A partner reports its identifier, limits and role. -/
def infoArrives (n : Nat) (peer : Option Nat) (lanes rate : Nat) (fecOff : Bool) (role : Nat) (d : Dev) : Dev :=
  pairStep (setLink n
    { linkOf d n with peer := peer, peerLanes := lanes, peerRate := rate, peerFecOff := fecOff, peerRole := role } d)

/-- A mailbox message of the mirror partner: its header and payload follow. -/
def mirrorMail (n : Nat) (bs : Bytes) (d : Dev) : Dev :=
  if !(linkOf d n).mirror || !chanOpen d .mirror then d
  else if d.mbMirror.busy then setMbox .mirror { d.mbMirror with rejected := true } d
  else takeMessage .mirror (bs.take 16) ((bs.drop 16).take (min 4096 (u16 bs 8))) d

/-- A partner's limits govern the negotiation in progress, and come while it goes on (R221, log 71). -/
def linkMgmt (n : Nat) (m : LinkMgmtMsg) (d : Dev) : Dev :=
  let l := linkOf d n
  if !linkUp l && l.state != .training then d
  else
    match m with
    | .info valid id lanes rate off role =>
      infoArrives n (if valid then some id.val else none) lanes.val rate.val off role.val (hears n d)
    | .mailbox bs => if linkUp l then mirrorMail n bs (hears n d) else d

/-- LINK_MGMT (R229, R234, R355). -/
def execLinkMgmt (link : LinkId) (message : LinkMgmtMsg) (s : State) : Host.Outcome State Fault Refusal :=
  onMem (linkMgmt link.val message) s

/- MIRROR_CTL (Table 9.6). -/

def mirrorAction (d : Dev) (r : Bytes) : Nat := bits (u16 (fetch d (opnd r 0) 64) 2) 0 2

/-- The fields that reason HEADER names. -/
def mirrorCtlBad (b : Bytes) : Option Nat :=
  let act := bits (u16 b 2) 0 2
  lowestBad
    [(0, u16 b 0 == 3), (2, bits (u16 b 2) 5 11 == 0), (5, u8 b 5 == 0), (6, bits (u16 b 6) 11 5 == 0),
     (8, decide (act < 2) || decide (u16 b 8 < 1024)), (0xA, act != 2 || u16 b 0xA != 0),
     (0xC, bits (u16 b 0xC) 11 5 == 0), (0xE, (nonzeroIn b 0xE 50).isNone)]

def mirrorHeader (env : OpEnv) (r : Bytes) : Act Bytes := do
  let b ← descriptor env r 64
  match mirrorCtlBad b with
  | some o => badFormat o rsChainHeader
  | none => pure b

/-- Both links take the mirror role, and their partners hear of it. -/
def setPair (b : Bytes) (d : Dev) : Dev :=
  let la := bits (u8 b 4) 0 4
  let lb := bits (u8 b 4) 4 4
  let d := setMirrorRole true la (setMirrorRole true lb d)
  sendInfo lb (sendInfo la (modMirror (fun m =>
    { m with role := bits (u16 b 2) 2 2, wired := bit (u16 b 2) 4, linkA := la, linkB := lb
             partner := bits (u16 b 6) 0 11, vector := bits (u16 b 0xC) 0 11, state := .none
             offers := [] }) d))

/-- PAIR (R234). -/
def bodyPair : Body := fun env r => do
  let b ← mirrorHeader env r
  let role := bits (u16 b 2) 2 2
  let la := bits (u8 b 4) 0 4
  let lb := bits (u8 b 4) 4 4
  requireFmt (role == 1 || role == 2) 2 rsMirrorRole
  requireFmt (la != lb) 4 rsChainLink
  let d ← get
  require (!linkInUse d la && !linkInUse d lb && d.chain.mirror.role == 0) stBusy anyDetail
  requireFmt (!pairFails d role (bits (u16 b 6) 0 11) la lb) 6 rsMirrorPartner
  change (setPair b)
  pure (.running .pair 0)

/-- The secondary's copy of a context that is no longer mirrored does nothing host-visible while it has work; a yielded
context stays so (R241). -/
def releaseCtx (d : Dev) (m : MirrorCtx) : Option MirrorCtx :=
  let busy := (boundQueues d m.ctx).any (fun q => (queueOf d q).cur.isSome)
  if m.yielded || m.barred then some m
  else if isSecondary d && !mirrorLive d m && busy then some { m with barred := true, log := [], points := [] }
  else none

/-- Mirroring of the contexts ends on this device. -/
def releaseCtxs (p : MirrorCtx → Bool) (d : Dev) : Dev :=
  mirrorWake (modMirror (fun m => { m with ctxs := m.ctxs.filterMap (fun x => if p x then releaseCtx d x else some x) }) d)

/-- R235: nothing has been done in the context and nothing waits. -/
def ctxFresh (d : Dev) (c : Nat) (own : QRef × Nat) : Bool :=
  match ctxOf d c with
  | none => false
  | some x =>
    !x.terminated && x.problem.isNone && x.progress == 0 && (openOps d c own).isEmpty &&
      (boundQueues d c).all (fun q => (queueOf d q).state == .disabled || (queueOf d q).sqTail == (queueOf d q).sqHead)

/-- The PLACE of a context that this device can attach, as it tells its partner (R235). -/
def attachPlace (d : Dev) (c : Nat) (own : QRef × Nat) : Option Bytes :=
  match ctxOf d c with
  | some x =>
    if d.chain.mirror.state == .paired && (mirrorCtx d c).isNone && ctxFresh d c own then
      some (x.place.flatMap (fun h => leBytes 2 h.hall ++ leBytes 4 h.mask.toNat ++ leBytes 4 h.sharedFirst ++ leBytes 4 h.sharedCount))
    else none
  | none => none

/-- A context is mirrored from here on. -/
def attachCtx (c checkEvery : Nat) (d : Dev) : Dev :=
  modMirror (fun m => { m with ctxs := m.ctxs ++ [{ ctx := c, checkEvery := checkEvery }] }) d

/-- ATTACH ops that wait for contexts that satisfy a test: queue, op, CHECK_EVERY. -/
def attachWaits (d : Dev) (p : Nat → Bool) : List (QRef × Nat × Nat) :=
  (allQueues d).flatMap (fun q =>
    match (queueOf d q).cur with
    | some e => e.issues.filterMap (fun i => match i.wait with | .attach c n => if p c then some (q, i.idx, n) else none | _ => none)
    | none => [])

/-- ATTACH ops that wait get an outcome, with their op step. -/
def attachOutcome (p : Nat → Bool) (o : OpOut) (d : Dev) : Dev :=
  (attachWaits d p).foldl (fun d w => opSteps w.1 1 (opOutcome w.1 w.2.1 o d)) d

/-- The partner's ATTACH meets this device's own, or is kept for it (R235). -/
def attachArrives (c : Nat) (p : Option Bytes) (d : Dev) : Dev :=
  match attachWaits d (· == c) with
  | [] => modMirror (fun m => { m with offers := m.offers.filter (fun o => o.1 != c) ++ [(c, p)] }) d
  | (q, i, n) :: _ =>
    if p.isSome && p == attachPlace d c (q, i) then attachOutcome (· == c) {} (attachCtx c n d)
    else attachOutcome (· == c) { status := stBadFormat, detail := itemReason 8 rsMirrorContext } d

/-- The pairing ends. -/
def unpair (d : Dev) : Dev :=
  let m := d.chain.mirror
  if m.role = 0 then d
  else
    let d := releaseCtxs (fun _ => true) d
    let d := setMirrorRole false m.linkA (setMirrorRole false m.linkB d)
    let d := attachOutcome (fun _ => true) { status := stBadFormat, detail := itemReason 8 rsMirrorContext } d
    let d := modMirror (fun m => { m with role := 0, wired := false, state := .none, offers := [] }) d
    sendInfo m.linkB (sendInfo m.linkA d)

/-- UNPAIR (R234). -/
def bodyUnpair : Body := fun env r => do
  let _ ← mirrorHeader env r
  change unpair
  doneOk anyDetail

/-- ATTACH (R235): the context must be there on both devices with one PLACE. The device tells its partner what it has; the
op ends when the partner's own ATTACH has told it the same (log 72). -/
def bodyAttach : Body := fun env r => do
  let b ← mirrorHeader env r
  let d ← get
  let c := u16 b 8
  require (!((ctxOf d c).any (fun x => x.terminated))) stBadContext anyDetail
  let own := attachPlace d c (env.q, env.idx)
  change (if d.chain.mirror.state == .paired then sendMirror (.mirrorLog c (.attach own)) else id)
  requireFmt own.isSome 8 rsMirrorContext
  match d.chain.mirror.offers.find? (fun o => o.1 == c) with
  | some o => do
    change (modMirror (fun m => { m with offers := m.offers.erase o }))
    requireFmt (o.2 == own) 8 rsMirrorContext
    change (attachCtx c (u16 b 0xA))
    doneOk anyDetail
  | none => pure (.running (.attach c (u16 b 0xA)) 0)

/-- DETACH (R235): mirroring ends on both devices. -/
def bodyDetach : Body := fun env r => do
  let b ← mirrorHeader env r
  let d ← get
  require (!((ctxOf d (u16 b 8)).any (fun x => x.terminated))) stBadContext anyDetail
  requireFmt (mirrorCtx d (u16 b 8)).isSome 8 rsMirrorContext
  change (fun d => releaseCtxs (fun m => m.ctx == u16 b 8) (sendMirror (.mirrorLog (u16 b 8) .detach) d))
  doneOk anyDetail

def mirrorRow (q : QRef) (act : Nat) (body : Body) (s : State) : Host.Outcome State Fault Refusal :=
  actionRow q 0xC6 mirrorAction act [0, 1, 2, 3] body s

def execPair (q : QRef) (s : State) : Host.Outcome State Fault Refusal := mirrorRow q 0 bodyPair s
def execUnpair (q : QRef) (s : State) : Host.Outcome State Fault Refusal := mirrorRow q 1 bodyUnpair s
def execAttach (q : QRef) (s : State) : Host.Outcome State Fault Refusal := mirrorRow q 2 bodyAttach s
def execDetach (q : QRef) (s : State) : Host.Outcome State Fault Refusal := mirrorRow q 3 bodyDetach s

/- Beats (R234). -/

/-- The links of the pair that have the mirror role (R231). -/
def mirrorLinks (d : Dev) : List Nat :=
  if d.chain.mirror.role = 0 then []
  else [d.chain.mirror.linkA, d.chain.mirror.linkB].filter (fun n => (linkOf d n).mirror)

/-- A beat leaves; it has crossed when the link acknowledges it. -/
def sendBeat (n : Nat) (d : Dev) : Dev :=
  if linkUp (linkOf d n) && chainHears d then sendOn n d.chain.mirror.partner .beat d else d

/-- MIRROR_BEAT_SEND (R234). -/
def execMirrorBeatSend (s : State) : Host.Outcome State Fault Refusal :=
  onMem (fun d => pairStep ((mirrorLinks d).foldl (fun d n => sendBeat n d) d)) s

def beatArrives (n : Nat) (d : Dev) : Dev :=
  let l := linkOf d n
  if l.mirror && linkUp l && chainHears d then pairStep (setLink n { l with beatIn := true, silent := false } d) else d

/-- MIRROR_BEAT (R234). -/
def execMirrorBeat (link : LinkId) (s : State) : Host.Outcome State Fault Refusal := onMem (beatArrives link.val) s

/- The secondary (R236, R238). -/

/-- A context whose mirror traffic the secondary takes. -/
def takesMirror (d : Dev) (c : Nat) : Bool :=
  chainHears d && isSecondary d && d.chain.mirror.state == .paired &&
    (match mirrorCtx d c with
     | some m => !m.barred
     | none => false)

/-- A log entry arrives and is kept in order (R236); or the partner's ATTACH or DETACH (R235). -/
def logArrives (c : Nat) (e : MirrorEntry) (d : Dev) : Dev :=
  let told := chainHears d && d.chain.mirror.state == .paired
  match e with
  | .attach p => if told then attachArrives c p d else d
  | .detach =>
    if told then
      releaseCtxs (fun m => m.ctx == c) (modMirror (fun m => { m with offers := m.offers.filter (fun o => o.1 != c) }) d)
    else d
  | e => if takesMirror d c then modMirrorCtx c (fun m => { m with log := m.log ++ [e] }) d else d

/-- MIRROR_STATE (R238): the copy may go on toward this point. -/
def execMirrorState (c : CtxId) (point : MirrorPoint) (s : State) : Host.Outcome State Fault Refusal :=
  onMem (fun d =>
    if takesMirror d c.val then mirrorWake (modMirrorCtx c.val (fun m => { m with points := m.points ++ [point] }) d) else d) s

/-- The copy stands at a point of an op: the record of the op that waits there. -/
def pointOp (d : Dev) (c : Nat) : Option Bytes :=
  (allQueues d).findSome? (fun q =>
    match (queueOf d q).cur with
    | some e =>
      if e.ctx = c then
        e.issues.findSome? (fun (i : OpIssue) => match i.wait with | .ack _ => some i.record | _ => none)
      else none
    | none => none)

/-- The copy's own checkpoint at the point it stands at. -/
def ownPoint (d : Dev) (c : Nat) (m : MirrorCtx) : MirrorPoint :=
  match pointOp d c with
  | some r => mirrorPointOf d c false (pointStates r) m.serial
  | none =>
    let e := match (ctxOf d c).bind (fun x => x.run) with
      | some g => nextEpoch g - 1
      | none => 0
    mirrorPointOf d c true true e

/-- Table 9.8: the compared items agree, and they name one point. -/
def pointsAgree (a b : MirrorPoint) : Bool :=
  a.isEpoch == b.isEpoch && a.serial == b.serial && a.spins == b.spins && a.bests == b.bests && a.energies == b.energies

/-- The items that the secondary records. -/
def recordPoint (p : MirrorPoint) (m : MirrorCtx) : MirrorCtx :=
  { m with points := m.points.drop 1
           fences := m.fences.filter (fun f => !p.fences.any (fun g => g.1 == f.1)) ++ p.fences
           queues := p.queues
           completions := p.completions
           serial := if p.isEpoch then m.serial else m.serial + 1
           mark := 2 }

/-- A divergence (R238): the context is detached for good. -/
def diverge (c : Nat) (d : Dev) : Dev :=
  let e := decide (mirrorLink d < 8)
  let d := modMirrorCtx c (fun m => { m with barred := true, log := [], points := [] }) d
  raise (if e then 41 else 57) c (logOpen 0x09 18 (if e then dieE else dieW) c 0 0 d)

def pointReached (c : Nat) (d : Dev) : Dev :=
  match mirrorCtx d c with
  | none => d
  | some m =>
    match m.points with
    | [] => d
    | p :: _ =>
      if m.mark != 1 || m.barred || !isSecondary d then d
      else if pointsAgree p (ownPoint d c m) then mirrorWake (modMirrorCtx c (recordPoint p) d)
      else diverge c d

/-- MIRROR_POINT_REACHED (R238). -/
def execMirrorPointReached (c : CtxId) (s : State) : Host.Outcome State Fault Refusal := onMem (pointReached c.val) s

/- Takeover and yield (R240 to R243, R458). -/

/-- A partial message of VC3 is discarded (R242). -/
def dropPartial (d : Dev) : Dev :=
  { d with chain := { d.chain with inbound := d.chain.inbound.filter (fun m => m.2.1 != 3) } }

/-- The secondary takes over (R242). -/
def takeOver (d : Dev) : Dev :=
  let d := dropPartial d
  let d := modMirror (fun m =>
    { m with state := .takenOver, ctxs := m.ctxs.map (fun x => { x with replay := !x.barred }) }) d
  mirrorWake (signal d.chain.mirror.vector (logOpen 0x09 19 diePackage d.chain.mirror.partner 0 0 d))

/-- ALIVE_IN has shown no edge for 1.0 ms. -/
def aliveInDead (d : Dev) : Bool :=
  match d.boot.aliveInEdge with
  | some t => decide (t + 1000000 ≤ d.clock)
  | none => true

/-- A primary whose two mirror links are silent (R241): it goes on alone, or yields. -/
def primarySilent (d : Dev) : Dev :=
  let m := d.chain.mirror
  if m.wired && aliveInDead d then
    let d := modMirror (fun m => { m with state := .detached }) d
    logOpen 0x09 21 diePackage m.partner 0 0 (releaseCtxs (fun _ => true) d)
  else
    logOpen 0x09 20 diePackage m.partner 0 0
      (modMirror (fun m => { m with state := .yielded, ctxs := m.ctxs.map (fun x => { x with yielded := true }) }) d)

def paired (d : Dev) : Bool := d.chain.mirror.state == .paired

/-- Neither mirror link is live. -/
def linksDead (d : Dev) : Bool := !(mirrorLive1 d d.chain.mirror.linkA || mirrorLive1 d d.chain.mirror.linkB)

/-- Both mirror links have become silent. -/
def bothSilent (d : Dev) : Dev := (mirrorLinks d).foldl (fun d n => linkSilent n d) d

/-- A level of ALIVE_IN has held for 20 µs (R458). -/
def aliveEdge (level : Bool) (d : Dev) : Dev :=
  if level = d.boot.aliveInLevel then d
  else { d with boot := { d.boot with aliveInLevel := level, aliveInEdge := some d.clock } }

/-- ALIVE_IN_EDGE (R458). -/
def execAliveInEdge (level : Bool) (s : State) : Host.Outcome State Fault Refusal := onDev (aliveEdge level) s

def aliveTimeout (d : Dev) : Dev :=
  let d := match d.boot.aliveInEdge with
    | some t => tickTo (t + 1000000) d
    | none => d
  if !paired d then d
  else if isSecondary d then takeOver d
  else if linksDead d then primarySilent d
  else d

/-- ALIVE_IN_TIMEOUT (R240, R241). -/
def execAliveInTimeout (s : State) : Host.Outcome State Fault Refusal := onMem aliveTimeout s

/-- SECONDARY_LINKS_SILENT (R240). -/
def execSecondaryLinksSilent (s : State) : Host.Outcome State Fault Refusal :=
  onMem (fun d => if paired d && isSecondary d then takeOver (bothSilent d) else d) s

/-- PRIMARY_LINKS_SILENT (R241). -/
def execPrimaryLinksSilent (s : State) : Host.Outcome State Fault Refusal :=
  onMem (fun d => if paired d && isPrimary d then primarySilent (bothSilent d) else d) s

end Sys2Proof.Machine
end

