-- ==== Sys2Proof/Machine/Deliver.lean ====
section
/-! DEFINITION. What ops and mailbox commands waited for arrives: completions of host reads (R337), bytes of the entropy
source (R388), and the ends of ops (R316). -/

namespace Sys2Proof.Machine

/-- MIRROR_CTL's actions. -/
def mirrorBody : Body := fun env r => do
  let b ← mirrorHeader env r
  match bits (u16 b 2) 0 2 with
  | 0 => bodyPair env r
  | 1 => bodyUnpair env r
  | 2 => bodyAttach env r
  | _ => bodyDetach env r

/-- The body of an opcode, for an op that runs again. READ_TRACE reads no host memory and draws nothing. -/
def opBody (q : Queue) (code : Nat) : Option Body :=
  match code with
  | 0x01 => some bodyWaitFence
  | 0x02 => some bodySignalFence
  | 0x03 => some bodyCond
  | 0x04 => some bodyLoop
  | 0x20 => some bodyCopy
  | 0x21 => some bodyFill
  | 0x22 => some bodyRngFill
  | 0x40 => some bodyLoad
  | 0x41 => some bodyUpdate
  | 0x42 => some bodySetSchedule
  | 0x43 => some (bodyRun false)
  | 0x44 => some (bodyRun true)
  | 0x45 => some bodyReadState
  | 0x47 => some bodyBoundaryLoad
  | 0x60 => some bodyMatmul
  | 0x61 => some bodyBatchedMatmul
  | 0x62 => some bodyElementwise
  | 0x63 => some bodyReduce
  | 0x64 => some (bodyMove .gather)
  | 0x65 => some (bodyMove .scatter)
  | 0x66 => some (bodyMove .convert)
  | 0x67 => some bodyDrain
  | 0x80 => some bodyFlightBuild
  | 0x81 => some bodyFlightRun
  | 0x82 => some bodyFlightTear
  | 0xC2 => some bodyPlace
  | 0xC3 => some (powerBody q.found.1)
  | 0xC4 => some bodySelftest
  | 0xC5 => some (calibrateBody q.found.2)
  | 0xC6 => some mirrorBody
  | 0xC7 => some chainBody
  | 0xC8 => some queueCtlBody
  | _ => none

/-- A run or a flight that an op has started goes on. -/
def goOn (q : QRef) (d : Dev) : Dev :=
  match (queueOf d q).cur with
  | some e => (List.range 4).foldl (fun d f => flightProgress e.ctx f d) (resumeRun e.ctx d)
  | none => d

/-- An op whose wait is over runs again. -/
def runAgain (q : QRef) (idx : Nat) (d : Dev) : Dev :=
  match (queueOf d q).cur with
  | none => d
  | some e =>
    if !mirrorGoes d e.ctx then d
    else
    match openIssue e idx with
    | none => d
    | some i =>
      match opBody (queueOf d q) (recOpcode i.record) with
      | some body => goOn q (rerunOp body q idx d)
      | none => d

/- Host completions (R337). -/

/-- A host read of an op has failed: an event, and the op goes on to its failure, which may write a report (R60, R62). The
log of an attached context tells it with no bytes (log 72). -/
def hostReadFails (q : QRef) (idx : Nat) (i : OpIssue) (st detail : Nat) (d : Dev) : Dev :=
  let d := logOpen 0x08 17 dieNorth (qNumber q + 0x8000 * ofBool (qIsKernel q)) st idx d
  match i.wait with
  | .host a _ =>
    let c := ((queueOf d q).cur.map (fun e => e.ctx)).getD 0xFFFF
    runAgain q idx (modIssue q idx (fun i => { i with badRead := some (st, detail) })
      (forwardLog c (.hostBytes (a + 2 ^ 63) []) d))
  | _ => endOp q idx (opSteps q (stepsOnFail (recOpcode i.record)) (opOutcome q idx { status := st, detail := detail } d))

/-- An op waits for a read of host memory: for bytes of its own, or for the next value of a host fence (R325). -/
def readsHost (w : OpWait) : Bool :=
  match w with
  | .host .. => true
  | .fence a _ => isHost a
  | _ => false

/-- The op that waits for a read of host memory. -/
def hostWaiter (q : QRef) (idx : Nat) (d : Dev) : Option (Entry × OpIssue) :=
  match (queueOf d q).cur with
  | none => none
  | some e =>
    match openIssue e idx with
    | some i => if readsHost i.wait then some (e, i) else none
    | none => none

/-- Bytes that the device has read from host memory. -/
def hostTaken (addr : Nat) (data : Bytes) (d : Dev) : Dev :=
  { d with
    host := { d.host with mem := cellsSet addr data d.host.mem }
    tele := { d.tele with rxBytes := satAdd 64 d.tele.rxBytes data.length } }

/-- An op has bytes of the read it waits for, and goes on once it has every one. -/
def opGets (q : QRef) (idx a : Nat) (data : Bytes) (d : Dev) : Dev :=
  runAgain q idx (modIssue q idx (fun i => { i with got := (a, data) :: i.got }) d)

/-- Bytes that an op reads have come: they are forwarded for an attached context (R236). -/
def hostArrives (q : QRef) (idx addr : Nat) (data : Bytes) (d : Dev) : Dev :=
  match hostWaiter q idx d with
  | none => d
  | some (e, i) =>
    match i.wait with
    | .fence a t => fenceReads e.ctx q idx a t (hostTaken addr data d)
    | _ => opGets q idx (addr + 2 ^ 63) data (forwardLog e.ctx (.hostBytes (addr + 2 ^ 63) data) (hostTaken addr data d))

/-- The next entry of a log with bytes of `n` at a host bus address, or with none because the read failed. -/
def logFor (a n : Nat) (l : List MirrorEntry) : Option (Nat × Bytes) :=
  l.findSome? (fun e =>
    match e with
    | .hostBytes b bs =>
      if (bs = [] ∧ low 63 b = a) ∨ (low 63 b < a + n ∧ a < low 63 b + bs.length) then some (b, bs) else none
    | _ => none)

/-- An op of the secondary's copy takes the bytes it waits for from the log, in the log's order (R236, R242). -/
def feedOp (q : QRef) (idx : Nat) (d : Dev) : Dev :=
  match hostWaiter q idx d with
  | some (e, { wait := .host a n, .. }) =>
    match (copyOf d e.ctx).bind (fun m => logFor a n m.log) with
    | some (b, bs) =>
      let d := takeEntry e.ctx (.hostBytes b bs) d
      if bs.isEmpty then
        runAgain q idx (modIssue q idx (fun i => { i with badRead := some (stBadAddress, detailHostAddr a) }) d)
      else opGets q idx b bs d
    | none => d
  | _ => d

/-- What came with the log goes to the ops that wait for it. -/
def feedCtx (c : Nat) (d : Dev) : Dev :=
  (boundQueues d c).foldl
    (fun d q =>
      match (queueOf d q).cur with
      | some e => (e.issues.map (fun i => i.idx)).foldl (fun d i => pumpQueue q (feedOp q i d)) d
      | none => d) d

/-- MIRROR_LOG (R236). -/
def execMirrorLog (c : CtxId) (entry : MirrorEntry) (s : State) : Host.Outcome State Fault Refusal :=
  onMem (fun d => feedCtx c.val (mirrorWake (logArrives c.val entry d))) s

/-- A completion for a device read of host memory. -/
def hostCompletion (q : QRef) (idx addr : Nat) (outcome : HostOutcome) (data : Bytes) (d : Dev) : Dev :=
  match outcome with
  | .success => hostArrives q idx addr data d
  | outcome =>
    match hostWaiter q idx d with
    | none => d
    | some (_, i) =>
      if outcome = .poisoned then hostReadFails q idx i stDeviceFault anyDetail d
      else hostReadFails q idx i stBadAddress (detailHostAddr addr) d

/-- HOST_COMPLETION (R337). -/
def execHostCompletion (q : QRef) (op : Fin 32768) (addr : BitVec 63) (outcome : HostOutcome) (data : Bytes) (s : State) :
    Host.Outcome State Fault Refusal :=
  onMem (fun d => pumpQueue q (hostCompletion q op.val addr.toNat outcome data d)) s

/-- COMPLETION_TIMEOUT (R337). -/
def execCompletionTimeout (q : QRef) (op : Fin 32768) (s : State) : Host.Outcome State Fault Refusal :=
  onMem (fun d =>
    match hostWaiter q op.val d with
    | some (_, i) => pumpQueue q (hostReadFails q op.val i stDeviceFault anyDetail d)
    | none => d) s

/- Entropy requests (R388). -/

/-- The request at the front leaves the queue. -/
def nextRequest (d : Dev) : Dev := { d with ent := { d.ent with waiting := d.ent.waiting.drop 1 } }

/-- An op's seed has been drawn; a zero is drawn again (R112). -/
def seedArrives (q : QRef) (idx v : Nat) (d : Dev) : Dev :=
  if v = 0 then d
  else
    let d := nextRequest d
    match (queueOf d q).cur with
    | none => d
    | some e =>
      let d := forwardLog e.ctx (.seed v) d
      pumpQueue q (runAgain q idx (modIssue q idx (fun i => { i with drawn := some v }) d))

/-- A mailbox command's bytes have been drawn; KEYGEN programs its row with them, and an all-zero row is drawn again
(R373). -/
def mailArrives (ch : Chan) (b : Bytes) (s : State) : State :=
  let d := nextRequest s.dev
  let m := mbox d ch
  match m.msg with
  | none => { s with dev := d }
  | some g =>
    let d := setMbox ch { m with entropy := false } d
    let env : MailEnv := { ch := ch, drawn := some b }
    if g.command = 0x50 then { s with dev := settleMail ch d (bodyRngBytes env g.payload d) }
    else if attestMode g.payload = 4 then
      if s.otp.seedRow = 0 && seedNat b = 0 then s
      else
        { s with
          otp := if s.otp.seedRow = 0 then { s.otp with seedRow := seedNat b } else s.otp
          dev := settleMail ch d (keygenBody s.otp env g.payload d) }
    else { s with dev := settleMail ch d (bodyAttest env g.payload d) }

/-- The request at the front is served, if the source may serve it. -/
def serveEntropy (s : State) : State :=
  match s.dev.ent.waiting with
  | [] => s
  | .op q i n :: _ =>
    match generate n s.dev with
    | some (b, d) => { s with dev := seedArrives q i (leNat b) d }
    | none => s
  | .mail ch n :: _ =>
    match generate n s.dev with
    | some (b, d) => mailArrives ch b { s with dev := d }
    | none => s

/-- ENTROPY_REQUEST (R388). -/
def execEntropyRequest (s : State) : Host.Outcome State Fault Refusal :=
  let z := serveEntropy s
  .next { z with dev := wakeFences (serveHeld z.dev) }

/- Ends of ops. -/

/-- An op whose reads have been answered or whose seed is drawn, and whose host writes wait; or one that waits for its
granules (R158). -/
def stillHeld (q : QRef) (idx : Nat) (d : Dev) : Bool :=
  match (queueOf d q).cur with
  | none => false
  | some e =>
    match openIssue e idx with
    | some { wait := .host a n, got := g, badRead := b, .. } => b.isSome || (gotRead g (a + 2 ^ 63) n).isSome
    | some { wait := .grid, .. } => true
    | some { wait := .entropy, drawn := v, .. } => v.isSome || d.ent.failed
    | _ => false

/-- OP_END (R316, R318, R319). -/
def execOpEnd (q : QRef) (op : Fin 32768) (s : State) : Host.Outcome State Fault Refusal :=
  onMem (fun d => endNow q op.val (if stillHeld q op.val d then runAgain q op.val d else feedOp q op.val d)) s

end Sys2Proof.Machine
end

