-- ==== Sys2Proof/Machine/Gating.lean ====
section
/-! DEFINITION. Clock gating: the work and the arriving traffic of an island (R23). -/

namespace Sys2Proof.Machine

/-- Treads `first` to `first + n - 1` of a hall touch an island. -/
def treadsOnIsland (i : Nat) (r : Nat × Nat × Nat) : Bool :=
  r.1 == i / 40 && decide (r.2.1 < 16 * (i % 40) + 16) && decide (16 * (i % 40) < r.2.1 + r.2.2)

/-- The bytes of a range touch an island: its treads' scratchpads, or its banks of hall shared memory, which interleave
words of 8 bytes over 512 (R247 to R249). -/
def bytesOnIsland (i : Nat) (r : Nat × Nat) : Bool :=
  let s := scratchAddr (i / 40) (16 * (i % 40))
  (decide (0 < r.2) && decide (r.1 < s + 16 * 0x80000) && decide (s < r.1 + r.2)) ||
    (List.range (min 65 (r.2 + 7) )).any (fun k => decide (8 * k < r.2 + 8) && islandOfAddr (min (r.1 + 8 * k) (r.1 + r.2 - 1)) == some i)

/-- A context has work on an island: a firing, a tile that ends, or spins of a run. -/
def ctxBusyOn (x : Ctx) (i : Nat) : Bool :=
  x.flights.any (fun f => f.2.steps.any (fun s => s.firing.isSome && s.ranges.any (fun r => treadsOnIsland i (r.1, 32 * r.2.1, 32 * r.2.2)))) ||
    x.tiles.any (fun t => t.endReq.isSome && treadsOnIsland i (t.hall, t.tread, 1))

/-- An island has work, or traffic arrives at it (R23): an attached tap, an op on its treads or bytes, a firing, a tile on
its way out, a march test or a held access of the host. -/
def islandBusy (d : Dev) (i : Nat) : Bool :=
  let ops : List (Entry × OpIssue) := (allQueues d).flatMap (fun q =>
    match (queueOf d q).cur with
    | some e => (e.issues.filter issueOpen).map (fun k => (e, k))
    | none => [])
  tapAttached d i ||
    ops.any (fun o =>
      let r := recordNow d o.1 o.2
      (opTreads d r).any (treadsOnIsland i) || (opAreas d ((ctxOf d o.1.ctx).getD {}) r).any (bytesOnIsland i)) ||
    d.ctxs.any (fun p => ctxBusyOn p.2 i) ||
    d.march.reqs.any (fun r => r.running.any (fun u =>
      match u with
      | .scratch h t => treadsOnIsland i (h.val, t.val, 1)
      | .shared h => h.val == i / 40
      | .channel _ => false)) ||
    d.host.held.any (fun a => islandOfAddr a.addr == some i)

/-- CLOCK_GATING (R23): an island with no work and no arriving traffic. -/
def clockGating (i : Nat) (d : Dev) : Dev :=
  if islandBusy d i then d
  else settleRail (hallWing (i / 40)) (setIsland i { islandOf d i with gated := true, cls := 0, relock := none, waits := none } d)

def execClockGating (island : Fin 640) (s : State) : Host.Outcome State Fault Refusal := onDev (clockGating island.val) s

end Sys2Proof.Machine
end

