-- ==== Sys2Proof/Machine/Watch.lean ====
section
/-! DEFINITION. The stall watch (R302, R303, Table 12.14). -/

namespace Sys2Proof.Machine

/-- What a stall notice says of a wait: WAIT_KIND, DETAIL, SEED. -/
structure WaitSays where
  kind : Nat := 0
  detail : Nat := 0
  seed : Nat := 0
  deriving DecidableEq, Repr

/-- A stream record or credit. -/
def saysStream (f stream step : Nat) : WaitSays := { kind := 2, detail := f + stream * 2 ^ 8 + low 4 step * 2 ^ 16 }

def unitHall (u : MarchUnit) : Nat :=
  match u with
  | .scratch h _ => h.val
  | .shared h => h.val
  | .channel _ => 0

/-- A march unit among some. -/
def saysMarch (l : List MarchUnit) : WaitSays := { kind := 8, detail := ((l.head?).map unitHall).getD 0 }

/-- The frame that is awaited for an epoch. -/
def saysFrame (b : Boundary) (epoch : Nat) : WaitSays :=
  match (boundaryPeers b).find? (fun e => (frameHeld b e.part epoch).isNone) with
  | some e => { kind := 3, detail := e.part, seed := epoch }
  | none => {}

/-- What a checkpoint's verdict waits for: a frame, a child's sums, or the parent. -/
def saysVerdict (b : Boundary) (epoch : Nat) : WaitSays :=
  let parent : WaitSays := { kind := 3, detail := ((b.peers.find? (fun e => e.parent)).map (fun e => e.part)).getD 0, seed := epoch }
  match b.run.point with
  | none => parent
  | some pt =>
    if !framesIn b pt.epoch && pt.boundary.isNone then saysFrame b pt.epoch
    else
      match b.peers.find? (fun e => e.child && !b.run.checks.any (fun k => k.part == e.part && k.epoch == pt.epoch)) with
      | some e => { kind := 3, detail := e.part, seed := pt.epoch }
      | none => parent

/-- The units whose tests hold a context's run. -/
def heldUnits (d : Dev) (x : Ctx) : List MarchUnit :=
  (d.march.reqs.flatMap (fun r => r.running ++ r.deferred)).filter (ctxHasUnit x)

/-- A cluster block of a run that has a proposal left and no record. -/
def clusterShortOf (d : Dev) (c : Nat) (g : Run) (p : Problem) : Option Nat :=
  (List.range p.blocks.length).find? (fun b =>
    decide ((clustersDone g b).1 < clusterQuota d c g b) &&
      (match clusterStream d c b with
       | some (_, s) => decide (s.arrived ≤ epochOf g)
       | none => false))

/-- The wait of a stage. -/
def saysStage (d : Dev) (x : Ctx) (g : Run) (s : Stage) : WaitSays :=
  let f := g.flight.getD 0
  let delta : Option WaitSays := match flightOf x f with
    | some y => (y.streams.zipIdx.find? (fun (t : FStream × Nat) => t.1.kind == skDelta)).map (fun t => saysStream f t.2 t.1.producer)
    | none => none
  match s, x.boundary with
  | .emit, _ =>
    match g.decision with
    | some k => { kind := 5, detail := k.channel, seed := k.seq }
    | none => {}
  | .pace, _ => delta.getD {}
  | .stateRecord k, _ =>
    match (flightOf x f).bind (fun y => y.streams[k]?) with
    | some t => saysStream f k t.producer
    | none => {}
  | .march, _ => saysMarch (heldUnits d x)
  | .flush, _ => { kind := 9 }
  | .hellos, some b =>
    match b.peers.find? (fun e => !b.run.hellos.any (fun h => h.1 == e.part)) with
    | some e => { kind := 3, detail := e.part }
    | none => {}
  | .frames, some b => saysFrame b (nextEpoch g - b.stale)
  | .verdict, some b => saysVerdict b (checkpointBefore b (nextEpoch g))
  | .final, some b => saysVerdict b (nextEpoch g)
  | _, _ => {}

/-- The wait of a run. -/
def saysRun (d : Dev) (c : Nat) (x : Ctx) (g : Run) : WaitSays :=
  match g.todo with
  | s :: _ => saysStage d x g s
  | [] =>
    if g.inSweep then
      match x.problem.bind (clusterShortOf d c g) with
      | some b => { kind := 4, detail := b, seed := g.sweep }
      | none => {}
    else if epochHeld d c g then saysMarch (heldUnits d x)
    else if 64 ≤ stagedEntries g then { kind := 9 }
    else {}

/-- The wait of a flight's steps: an ingest tail, or a record or credit of a COMPUTE step. -/
def saysFlight (y : Flight) (f : Nat) : WaitSays :=
  let ring := y.steps.zipIdx.find? (fun s =>
    match s.1.source with
    | some r => !r.chain && decide (s.1.tailSeen ≤ s.1.consumed)
    | none => false)
  match ring with
  | some s => { kind := 6, detail := s.2, seed := s.1.consumed }
  | none =>
    let missing (s : FStep × Nat) : Option WaitSays :=
      if s.1.kind != fkCompute || s.1.firing.isSome then none
      else
        match (inputsOf y s.2).find? (fun t => !recordHeld t.1) with
        | some t => some (saysStream f t.2 s.2)
        | none => ((outputsOf y s.2).find? (fun t => t.1.credits == 0)).map (fun t => saysStream f t.2 s.2)
    (y.steps.zipIdx.findSome? missing).getD {}

/-- Table 12.14: what an op in progress waits for. -/
def saysOp (d : Dev) (q : QRef) (e : Entry) (i : OpIssue) : WaitSays :=
  let x? := ctxOf d e.ctx
  let run : WaitSays := match x? with
    | some x => (x.run.map (saysRun d e.ctx x)).getD {}
    | none => {}
  match i.wait with
  | .fence a t => { kind := 1, detail := a, seed := t }
  | .entropy => { kind := 7 }
  | .march => saysMarch ((d.march.reqs.filter (fun r => r.user == .op q i.idx)).flatMap (fun r => r.running ++ r.deferred))
  | .run => run
  | .flight f =>
    if run.kind != 0 then run
    else
      match x?.bind (fun x => flightOf x f) with
      | some y => saysFlight y f
      | none => {}
  | .out _ | .ack _ => if (queueOf d q).cqWait then { kind := 9 } else {}
  | _ => {}

/-- The waiting op of a queue, 0xFFFF for none, and what it waits for. -/
def saysQueue (d : Dev) (q : QRef) : Nat × WaitSays :=
  let x := queueOf d q
  match x.cur with
  | none => (0xFFFF, if x.cqWait then { kind := 9 } else {})
  | some e =>
    match (List.range e.opCount).findSome? (fun k => openIssue e k) with
    | some i => (i.idx, saysOp d q e i)
    | none => (0xFFFF, if x.cqWait then { kind := 9 } else {})

/-- The stall notice (R303, Table 12.9). -/
def stallNotice (d : Dev) (q : QRef) (op : Nat) (w : WaitSays) : Compl :=
  let base : Compl :=
    { status := stStallNotice, flags := complFlags false false false true false, entry := 0, tag := 0, progress := 0,
      start := (queueOf d q).seenAt, opIndex := op, ctx := (queueOf d q).context, seed := low 64 w.seed, detail := low 64 w.detail,
      waitKind := w.kind }
  match (queueOf d q).cur with
  | some e => { base with entry := e.index, tag := e.tag, progress := progressOf d e.ctx, ctx := e.ctx }
  | none => { base with entry := (queueOf d q).sqHead, progress := progressOf d (queueOf d q).context }

/-- A stall episode opens (R303). -/
def openEpisode (q : QRef) (d : Dev) : Dev :=
  let x := queueOf d q
  let (op, w) := saysQueue d q
  let n := qNumber q + 0x8000 * ofBool (qIsKernel q)
  let d := setQueue q { x with stalled := true, stallEpisodes := satAdd 32 x.stallEpisodes 1 } d
  let d := logOpen 0x04 22 dieNorth n w.kind 0 d
  if complRoom d q then postCompl q false (stallNotice d q op w) d else d

/-- One sample of one queue (R302, R303). A queue's first sample since it became ACTIVE counts as one that saw progress. -/
def sampleQueue (q : QRef) (d : Dev) : Dev :=
  let x := queueOf d q
  match x.state with
  | .active | .disabling =>
    if x.sample = some x.steps then
      let d := setQueue q { x with quiet := x.quiet + 1 } d
      if !x.stalled && decide (d.cur.watchCount ≤ x.quiet + 1) then openEpisode q d else d
    else setQueue q { x with sample := some x.steps, quiet := 0, seenAt := stamp d } d
  | _ => if x.sample.isSome || x.quiet != 0 then setQueue q { x with sample := none, quiet := 0 } d else d

/-- A watch interval ends. -/
def watchSample (d : Dev) : Dev :=
  let t := d.cur.lastSample + d.cur.watchMs * ms
  let d := tickTo t { d with cur := { d.cur with lastSample := max d.clock t } }
  (allQueues d).foldl (fun d q => sampleQueue q d) d

/-- STALL_WATCH_SAMPLE (R302, R303). -/
def execStallWatchSample (s : State) : Host.Outcome State Fault Refusal := onMem watchSample s

end Sys2Proof.Machine
end

