-- ==== Sys2Proof/Machine/Dispatch.lean ====
section
/-! DEFINITION. exec: one arm for each command, one meaning for each arm. -/

namespace Sys2Proof.Machine

def exec (i : Instr) (s : State) : Host.Outcome State Fault Refusal :=
  match i with
  | .sqTailDoorbell q value => Sys2Proof.Machine.execSqTailDoorbell q value s
  | .cqHeadDoorbell q value => Sys2Proof.Machine.execCqHeadDoorbell q value s
  | .kernelQueueEnable k config => Sys2Proof.Machine.execKernelQueueEnable k config s
  | .kernelQueueDisable k config => Sys2Proof.Machine.execKernelQueueDisable k config s
  | .kernelQueueAbort k => Sys2Proof.Machine.execKernelQueueAbort k s
  | .msixUnmask vector => Sys2Proof.Machine.execMsixUnmask vector s
  | .registerWrite offset size value => Sys2Proof.Machine.execRegisterWrite offset size value s
  | .entryDispatch => Sys2Proof.Machine.execEntryDispatch s
  | .entryTerminalCompletion q => Sys2Proof.Machine.execEntryTerminalCompletion q s
  | .stallWatchSample => Sys2Proof.Machine.execStallWatchSample s
  | .nop q => Sys2Proof.Machine.execNop q s
  | .waitFence q => Sys2Proof.Machine.execWaitFence q s
  | .waitFencePoll q => Sys2Proof.Machine.execWaitFencePoll q s
  | .signalFence q => Sys2Proof.Machine.execSignalFence q s
  | .cond q => Sys2Proof.Machine.execCond q s
  | .loop q => Sys2Proof.Machine.execLoop q s
  | .copy q => Sys2Proof.Machine.execCopy q s
  | .fill q => Sys2Proof.Machine.execFill q s
  | .rngFill q => Sys2Proof.Machine.execRngFill q s
  | .loadProblem q => Sys2Proof.Machine.execLoadProblem q s
  | .updateCoeffs q => Sys2Proof.Machine.execUpdateCoeffs q s
  | .setSchedule q => Sys2Proof.Machine.execSetSchedule q s
  | .anneal q => Sys2Proof.Machine.execAnneal q s
  | .stand q => Sys2Proof.Machine.execStand q s
  | .readState q => Sys2Proof.Machine.execReadState q s
  | .readTrace q ringAddr ringEntries first count destAddr => Sys2Proof.Machine.execReadTrace q ringAddr ringEntries first count destAddr s
  | .boundaryLoad q => Sys2Proof.Machine.execBoundaryLoad q s
  | .matmul q => Sys2Proof.Machine.execMatmul q s
  | .batchedMatmul q => Sys2Proof.Machine.execBatchedMatmul q s
  | .reduce q => Sys2Proof.Machine.execReduce q s
  | .elementwise q => Sys2Proof.Machine.execElementwise q s
  | .gather q => Sys2Proof.Machine.execGather q s
  | .scatter q => Sys2Proof.Machine.execScatter q s
  | .convert q => Sys2Proof.Machine.execConvert q s
  | .drain q => Sys2Proof.Machine.execDrain q s
  | .tileSwap c h t granule => Sys2Proof.Machine.execTileSwap c h t granule s
  | .tileDrainEnd c h t => Sys2Proof.Machine.execTileDrainEnd c h t s
  | .contextSwitch h t c => Sys2Proof.Machine.execContextSwitch h t c s
  | .flightBuild q => Sys2Proof.Machine.execFlightBuild q s
  | .flightRun q => Sys2Proof.Machine.execFlightRun q s
  | .flightTear q => Sys2Proof.Machine.execFlightTear q s
  | .contextCreate q => Sys2Proof.Machine.execContextCreate q s
  | .contextDestroy q => Sys2Proof.Machine.execContextDestroy q s
  | .place q => Sys2Proof.Machine.execPlace q s
  | .preset q => Sys2Proof.Machine.execPreset q s
  | .hallCeiling q => Sys2Proof.Machine.execHallCeiling q s
  | .hallOff q => Sys2Proof.Machine.execHallOff q s
  | .hallOn q findings => Sys2Proof.Machine.execHallOn q findings s
  | .setVf q => Sys2Proof.Machine.execSetVf q s
  | .clearVf q => Sys2Proof.Machine.execClearVf q s
  | .selftest q => Sys2Proof.Machine.execSelftest q s
  | .calibrate q failedChannels => Sys2Proof.Machine.execCalibrate q failedChannels s
  | .limits q => Sys2Proof.Machine.execLimits q s
  | .linkEnable q => Sys2Proof.Machine.execLinkEnable q s
  | .linkDisable q => Sys2Proof.Machine.execLinkDisable q s
  | .retrain q => Sys2Proof.Machine.execRetrain q s
  | .routes q => Sys2Proof.Machine.execRoutes q s
  | .linkStatus q => Sys2Proof.Machine.execLinkStatus q s
  | .pair q => Sys2Proof.Machine.execPair q s
  | .unpair q => Sys2Proof.Machine.execUnpair q s
  | .attach q => Sys2Proof.Machine.execAttach q s
  | .detach q => Sys2Proof.Machine.execDetach q s
  | .queueCreate q => Sys2Proof.Machine.execQueueCreate q s
  | .queueDestroy q => Sys2Proof.Machine.execQueueDestroy q s
  | .queueEnable q => Sys2Proof.Machine.execQueueEnable q s
  | .queueDisable q => Sys2Proof.Machine.execQueueDisable q s
  | .queueAbort q => Sys2Proof.Machine.execQueueAbort q s
  | .contextDisable q => Sys2Proof.Machine.execContextDisable q s
  | .contextEnable q => Sys2Proof.Machine.execContextEnable q s
  | .watch q => Sys2Proof.Machine.execWatch q s
  | .phaseStart c h g => Sys2Proof.Machine.execPhaseStart c h g s
  | .scanRound c block replica => Sys2Proof.Machine.execScanRound c block replica s
  | .tournamentRound c block replica => Sys2Proof.Machine.execTournamentRound c block replica s
  | .clusterDecision c block => Sys2Proof.Machine.execClusterDecision c block s
  | .flipSlotGrant h => Sys2Proof.Machine.execFlipSlotGrant h s
  | .sweepEnd c => Sys2Proof.Machine.execSweepEnd c s
  | .traceStagingDrain c => Sys2Proof.Machine.execTraceStagingDrain c s
  | .decisionRingSpace channel => Sys2Proof.Machine.execDecisionRingSpace channel s
  | .paceRelease c => Sys2Proof.Machine.execPaceRelease c s
  | .computeFiring c f step => Sys2Proof.Machine.execComputeFiring c f step s
  | .bodyOpIssue c f step => Sys2Proof.Machine.execBodyOpIssue c f step s
  | .firingEnd c f step => Sys2Proof.Machine.execFiringEnd c f step s
  | .streamSlotNotice c f stream => Sys2Proof.Machine.execStreamSlotNotice c f stream s
  | .streamCredit c f stream => Sys2Proof.Machine.execStreamCredit c f stream s
  | .deltaRecordArrive c f stream => Sys2Proof.Machine.execDeltaRecordArrive c f stream s
  | .ingestRecord c f step => Sys2Proof.Machine.execIngestRecord c f step s
  | .tailPoll c f step => Sys2Proof.Machine.execTailPoll c f step s
  | .hello c message => Sys2Proof.Machine.execHello c message s
  | .newel c part epoch bitCount crc => Sys2Proof.Machine.execNewel c part epoch bitCount crc s
  | .frame c part epoch values => Sys2Proof.Machine.execFrame c part epoch values s
  | .resend c part epoch => Sys2Proof.Machine.execResend c part epoch s
  | .checkUp c part epoch sumA sumB parts => Sys2Proof.Machine.execCheckUp c part epoch sumA sumB parts s
  | .verdict c message => Sys2Proof.Machine.execVerdict c message s
  | .endNotice c part kind => Sys2Proof.Machine.execEndNotice c part kind s
  | .ingest tag link data => Sys2Proof.Machine.execIngest tag link data s
  | .linkMgmt link message => Sys2Proof.Machine.execLinkMgmt link message s
  | .nak link ackSeq => Sys2Proof.Machine.execNak link ackSeq s
  | .linkTrained mode => Sys2Proof.Machine.execLinkTrained mode s
  | .linkCandidateTimeout link => Sys2Proof.Machine.execLinkCandidateTimeout link s
  | .linkSilent link => Sys2Proof.Machine.execLinkSilent link s
  | .linkRetryTimer link => Sys2Proof.Machine.execLinkRetryTimer link s
  | .mirrorBeatSend => Sys2Proof.Machine.execMirrorBeatSend s
  | .mirrorLog c entry => Sys2Proof.Machine.execMirrorLog c entry s
  | .mirrorState c point => Sys2Proof.Machine.execMirrorState c point s
  | .mirrorPointReached c => Sys2Proof.Machine.execMirrorPointReached c s
  | .aliveInEdge level => Sys2Proof.Machine.execAliveInEdge level s
  | .aliveInTimeout => Sys2Proof.Machine.execAliveInTimeout s
  | .secondaryLinksSilent => Sys2Proof.Machine.execSecondaryLinksSilent s
  | .primaryLinksSilent => Sys2Proof.Machine.execPrimaryLinksSilent s
  | .bar4Access offset access => Sys2Proof.Machine.execBar4Access offset access s
  | .configRequest request => Sys2Proof.Machine.execConfigRequest request s
  | .hostCompletion q op addr outcome data => Sys2Proof.Machine.execHostCompletion q op addr outcome data s
  | .pcieRetrain gen width => Sys2Proof.Machine.execPcieRetrain gen width s
  | .d3hotEnter => Sys2Proof.Machine.execD3hotEnter s
  | .d0Return => Sys2Proof.Machine.execD0Return s
  | .getCaps ch => Sys2Proof.Machine.execGetCaps ch s
  | .ownClaim ch => Sys2Proof.Machine.execOwnClaim ch s
  | .ownRelease ch => Sys2Proof.Machine.execOwnRelease ch s
  | .ownHandover ch => Sys2Proof.Machine.execOwnHandover ch s
  | .handoverLapse => Sys2Proof.Machine.execHandoverLapse s
  | .ownerSilent => Sys2Proof.Machine.execOwnerSilent s
  | .heartbeat value => Sys2Proof.Machine.execHeartbeat value s
  | .expertEnable ch => Sys2Proof.Machine.execExpertEnable ch s
  | .calRead ch => Sys2Proof.Machine.execCalRead ch s
  | .calWriteSetting ch readBack => Sys2Proof.Machine.execCalWriteSetting ch readBack s
  | .calWriteBegin ch => Sys2Proof.Machine.execCalWriteBegin ch s
  | .calWriteData ch => Sys2Proof.Machine.execCalWriteData ch s
  | .calWriteCommit ch => Sys2Proof.Machine.execCalWriteCommit ch s
  | .logRead ch => Sys2Proof.Machine.execLogRead ch s
  | .logClear ch => Sys2Proof.Machine.execLogClear ch s
  | .fwUpdateBegin ch => Sys2Proof.Machine.execFwUpdateBegin ch s
  | .fwUpdateWrite ch => Sys2Proof.Machine.execFwUpdateWrite ch s
  | .fwUpdateCommit ch => Sys2Proof.Machine.execFwUpdateCommit ch s
  | .fwUpdateAbort ch => Sys2Proof.Machine.execFwUpdateAbort ch s
  | .raiseFloor ch readBack => Sys2Proof.Machine.execRaiseFloor ch readBack s
  | .lifecycleAdvance ch => Sys2Proof.Machine.execLifecycleAdvance ch s
  | .quote ch => Sys2Proof.Machine.execQuote ch s
  | .publicKey ch => Sys2Proof.Machine.execPublicKey ch s
  | .certRead ch => Sys2Proof.Machine.execCertRead ch s
  | .nonce ch => Sys2Proof.Machine.execNonce ch s
  | .keygen ch => Sys2Proof.Machine.execKeygen ch s
  | .rngBytes ch => Sys2Proof.Machine.execRngBytes ch s
  | .faultConfigRead ch => Sys2Proof.Machine.execFaultConfigRead ch s
  | .faultConfigSet ch => Sys2Proof.Machine.execFaultConfigSet ch s
  | .faultConfigAck ch => Sys2Proof.Machine.execFaultConfigAck ch s
  | .faultConfigClear ch => Sys2Proof.Machine.execFaultConfigClear ch s
  | .faultConfigWindow ch => Sys2Proof.Machine.execFaultConfigWindow ch s
  | .faultConfigInject ch => Sys2Proof.Machine.execFaultConfigInject ch s
  | .powerCap ch => Sys2Proof.Machine.execPowerCap ch s
  | .selftestReq ch => Sys2Proof.Machine.execSelftestReq ch s
  | .chainIdSet ch => Sys2Proof.Machine.execChainIdSet ch s
  | .i3cDynamicAddress address => Sys2Proof.Machine.execI3cDynamicAddress address s
  | .i3cPrivateWrite data => Sys2Proof.Machine.execI3cPrivateWrite data s
  | .mboxAccess dr => Sys2Proof.Machine.execMboxAccess dr s
  | .rawDataRead => Sys2Proof.Machine.execRawDataRead s
  | .entropyBlockDone src raw => Sys2Proof.Machine.execEntropyBlockDone src raw s
  | .healthTestFailure src proportion => Sys2Proof.Machine.execHealthTestFailure src proportion s
  | .entropyStartupTestEnd src pass => Sys2Proof.Machine.execEntropyStartupTestEnd src pass s
  | .entropyRequest => Sys2Proof.Machine.execEntropyRequest s
  | .faultAssert src rail detail => Sys2Proof.Machine.execFaultAssert src rail detail s
  | .blockResetEnd ended => Sys2Proof.Machine.execBlockResetEnd ended s
  | .curatorTrapEnd src => Sys2Proof.Machine.execCuratorTrapEnd src s
  | .fallbackExpiry src => Sys2Proof.Machine.execFallbackExpiry src s
  | .fcAck value => Sys2Proof.Machine.execFcAck value s
  | .fcInject value => Sys2Proof.Machine.execFcInject value s
  | .injectedConditionClear src => Sys2Proof.Machine.execInjectedConditionClear src s
  | .fcStatusClear word value => Sys2Proof.Machine.execFcStatusClear word value s
  | .fcFallbackWrite value => Sys2Proof.Machine.execFcFallbackWrite value s
  | .fcConfigWrite src value => Sys2Proof.Machine.execFcConfigWrite src value s
  | .catalogueTake => Sys2Proof.Machine.execCatalogueTake s
  | .catalogueRecordValid => Sys2Proof.Machine.execCatalogueRecordValid s
  | .catalogueDrain ok => Sys2Proof.Machine.execCatalogueDrain ok s
  | .advance => Sys2Proof.Machine.execAdvance s
  | .controlPeriodEnd sample => Sys2Proof.Machine.execControlPeriodEnd sample s
  | .avsSettled wing => Sys2Proof.Machine.execAvsSettled wing s
  | .pllRelockDone island => Sys2Proof.Machine.execPllRelockDone island s
  | .islandWake island => Sys2Proof.Machine.execIslandWake island s
  | .canaryFail island => Sys2Proof.Machine.execCanaryFail island s
  | .canarySweep island pass => Sys2Proof.Machine.execCanarySweep island pass s
  | .sensorTrimRefresh => Sys2Proof.Machine.execSensorTrimRefresh s
  | .lpddrRefresh channel bank => Sys2Proof.Machine.execLpddrRefresh channel bank s
  | .lpddrZqLatch channel => Sys2Proof.Machine.execLpddrZqLatch channel s
  | .lpddrPeriodicRetrain channel => Sys2Proof.Machine.execLpddrPeriodicRetrain channel s
  | .eccWriteback word => Sys2Proof.Machine.execEccWriteback word s
  | .scrubRead word found => Sys2Proof.Machine.execScrubRead word found s
  | .marchQuietPoint unit => Sys2Proof.Machine.execMarchQuietPoint unit s
  | .marchUnitEnd unit found lost => Sys2Proof.Machine.execMarchUnitEnd unit found lost s
  | .thermtrip sensor reading => Sys2Proof.Machine.execThermtrip sensor reading s
  | .avsbusNoAnswer wing => Sys2Proof.Machine.execAvsbusNoAnswer wing s
  | .powerOnReset mgmtAddr testEn => Sys2Proof.Machine.execPowerOnReset mgmtAddr testEn s
  | .perstN level => Sys2Proof.Machine.execPerstN level s
  | .functionLevelReset => Sys2Proof.Machine.execFunctionLevelReset s
  | .hotReset => Sys2Proof.Machine.execHotReset s
  | .dlDown => Sys2Proof.Machine.execDlDown s
  | .startupStageEnd report => Sys2Proof.Machine.execStartupStageEnd report s
  | .pcieTrainingTimeout => Sys2Proof.Machine.execPcieTrainingTimeout s
  | .opEnd q op => Sys2Proof.Machine.execOpEnd q op s
  | .endRequest c h t granule => Sys2Proof.Machine.execEndRequest c h t granule s
  | .faultCauseClear src => Sys2Proof.Machine.execFaultCauseClear src s
  | .flitAck link header trailer => Sys2Proof.Machine.execFlitAck link header trailer s
  | .flitCrcFail link uncorrectable => Sys2Proof.Machine.execFlitCrcFail link uncorrectable s
  | .flitFormatDrop link header => Sys2Proof.Machine.execFlitFormatDrop link header s
  | .flitForward link header => Sys2Proof.Machine.execFlitForward link header s
  | .mirrorBeat link => Sys2Proof.Machine.execMirrorBeat link s
  | .completionTimeout q op => Sys2Proof.Machine.execCompletionTimeout q op s
  | .entropyRawBit value => Sys2Proof.Machine.execEntropyRawBit value s
  | .clockGating island => Sys2Proof.Machine.execClockGating island s

end Sys2Proof.Machine
end

