-- ==== Sys2Proof/Safety.lean ====
section
/-! DEFINITION. What statements speak of: a safe run, an op that its queue may issue now, a mailbox message that waits to
be served, and the states in which the two leave the device. -/

namespace Sys2Proof

open Sys2Proof.Machine

/-- The step goes on. -/
def stepsOn (s : State) : Prop := ∃ t, step s = .next t

/-- Device memory and host memory are in canonical form. -/
def memoriesWf (s : State) : Prop := memWf s.dev.mem = true ∧ cellsWf s.dev.host.mem = true

/-- The state with another device. -/
def withDev (s : State) (d : Dev) : State := { s with dev := d }

/-- The state with another device, after host accesses that waited have been served and fences that waited have been looked
at again (R268, R325). -/
def withMem (s : State) (d : Dev) : State := { s with dev := wakeFences (serveHeld d) }

/- Ops. -/

/-- What the issue of the next op of an entry gives its body: queue, op index, the record's offset, context. -/
def opEnv (q : QRef) (e : Entry) (o : Nat) : OpEnv :=
  { q := q, idx := e.next, off := o, ctx := e.ctx, drawn := none, hostOk := false }

/-- The device while an entry's op acts. -/
def acting (e : Entry) (d : Dev) : Dev := { d with actor := some e.ctx }

/-- The curator may issue the next op of queue `q` now (R315 to R317): the queue runs entry `e`, which nothing has
stopped; the record at offset `o` is `r`, its waits are met, and read again it passes its checks (R311). -/
structure OpDue (s : State) (q : QRef) (e : Entry) (o : Nat) (r : Bytes) : Prop where
  entry : (queueOf s.dev q).cur = some e
  goes : entryOpen e = true
  turn : mirrorGoes s.dev e.ctx = true
  found : recordAt s.dev e e.next = some (o, r)
  waits : mayIssue e r = true
  reread : ∃ bs, readRecord e o r s.dev = .ok bs s.dev
  form : recordChecks o e.next e.opCount e.ctx e.paramBytes r = none
  privilege : untrusted e r = false

/-- As `OpDue`, for a record of one opcode whose operands can be read: `x` is the record with its indirect operands
replaced by what they name (R324), `d` the device after those reads; the operands pass the checks of Tables 13.4 and
13.5. -/
structure OpRuns (s : State) (q : QRef) (code : Nat) (e : Entry) (o : Nat) (r x : Bytes) (d : Dev) : Prop where
  due : OpDue s q e o r
  opcode : recOpcode r = code
  operands : ∃ y, resolve (opEnv q e o) e r (List.range 7) (acting e s.dev) = .ok y d ∧ x = directRec y
  values : (operandReserved (recOpcode x) o x).or (operandChecks (recOpcode x) o e.next e.opCount x) = none

/-- The issue of an entry's next op, whose record at offset `o` is `r`, with what it waits for. -/
def opIssue (e : Entry) (o : Nat) (r : Bytes) (w : OpWait) : OpIssue := { idx := e.next, record := r, wait := w, off := o }

/-- The op has its outcome `out` with `n` op steps, `k` is the op that issues next, and the op ends; `d` is the device
as the op's own effect leaves it (R316, R318, R319). -/
def opEnds (q : QRef) (e : Entry) (o : Nat) (r : Bytes) (out : OpOut) (n k : Nat) (d : Dev) (s : State) : State :=
  withMem s (endOp q e.next (opSteps q n (addIssue q
    (opIssue e o r (.out out)) k { d with actor := none })))

/-- The device once the op has started with `n` op steps and waits. -/
def opStarted (q : QRef) (e : Entry) (o : Nat) (r : Bytes) (w : OpWait) (n : Nat) (d : Dev) : Dev :=
  opSteps q n (addIssue q (opIssue e o r w) (e.next + 1) { d with actor := none })

/-- The op has started with `n` op steps and waits. -/
def opWaits (q : QRef) (e : Entry) (o : Nat) (r : Bytes) (w : OpWait) (n : Nat) (d : Dev) (s : State) : State :=
  withMem s (opStarted q e o r w n d)

/-- The op waits for a completion of its read of `n` bytes at R11 address `a` (R337); what its issue has read is kept. -/
def opAsks (q : QRef) (e : Entry) (o : Nat) (r : Bytes) (a n : Nat) (d : Dev) (s : State) : State :=
  withMem s (addIssue q (waitIssue q (opEnv q e o) r (.host (low 63 a) n) s.dev) (e.next + 1) { d with actor := none })

/-- An op that ended with OK, one op step, and a detail word. -/
def opOk (q : QRef) (e : Entry) (o : Nat) (r : Bytes) (detail : Nat) (d : Dev) (s : State) : State :=
  opEnds q e o r { detail := detail } 1 (e.next + 1) d s

/-- The op's context is `c` and may be used. -/
def ctxIs (d : Dev) (e : Entry) (c : Ctx) : Prop := ctxOf d e.ctx = some c ∧ c.terminated = false

/- Mailbox messages. -/

/-- A message of command `code` with payload `p` waits on an open channel, is not held by a draw or a march, and
`owner` and `early` being the command's, its channel owns the device and the device is READY where the command asks for
it (R343 to R345, R348). -/
structure MailWaits (s : State) (ch : Chan) (code : Nat) (owner early : Bool) (p : Bytes) : Prop where
  held : ∃ tag, (mbox s.dev ch).msg = some { command := code, tag := tag, payload := p }
  fresh : (mbox s.dev ch).entropy = false ∧ (mbox s.dev ch).march = false
  channel : chanOpen s.dev ch = true
  owns : owner = true → s.dev.own.owner = some ch
  ready : early = true ∨ s.dev.boot.ready = true

/-- The message is answered with OK and a payload (R343). -/
def answers (ch : Chan) (p : Bytes) (d : Dev) (s : State) : State := withMem s (respond ch stOk p d)

end Sys2Proof
end

