-- ==== Sys2Proof/Certificates/Slice0/Obligations.lean ====
section
/-! DEFINITION. The statements for the provers. -/

open Sys2Proof Sys2Proof.Machine

/- The queue of commands, and reset. -/

/-- A step with command `c` at the front of the queue runs `c` on the state with the queue's rest. -/
def Obligations.StepRunsTheFrontCommand : Prop :=
  ∀ (s : State) (c : Instr) (rest : List Instr), s.pending = c :: rest → step s = exec c { s with pending := rest }

/-- With no command waiting, a step lets one nanosecond pass and changes nothing else: the model's choice (log 1). -/
def Obligations.IdleStepPassesANanosecond : Prop :=
  ∀ s : State, s.pending = [] → step s = .next (withDev s { s.dev with clock := s.dev.clock + 1 })

/- Doorbells and the registers of kernel queues. -/

/-- R293, R294: a doorbell write with a value in range stores the index; SQ_TAIL wakes an IDLE queue, CQ_HEAD lets a
queue that waited for completion space go on. A value out of range is ignored and sets DOORBELL_ERROR. R289, R305, R306:
the owner host enables a DISABLED kernel queue whose ring fields are valid: its indices are 0, its PHASE is 1 and it is
IDLE; a write with ENABLE = 0 to a queue that is not DISABLED stops it with ABORTED_DISABLED; a write of ABORT stops its
work with ABORTED. -/
def Obligations.QueueRegistersAct : Prop :=
  (∀ (s : State) (q : QRef) (v : BitVec 32), hostReach s.dev = true → s.dev.boot.ready = true →
    unboundUser s.dev q = false →
    (v.toNat < 2 ^ 16 → v.toNat < sqSize (queueOf s.dev q) →
      exec (.sqTailDoorbell q v) s = .next (withDev s (setQueue q
        { queueOf s.dev q with
          sqTail := v.toNat, wake := (queueOf s.dev q).wake || (queueOf s.dev q).state == .idle } s.dev))) ∧
    (v.toNat < 2 ^ 16 → v.toNat < cqSize (queueOf s.dev q) →
      exec (.cqHeadDoorbell q v) s = .next (withMem s (resumeQueue q (setQueue q
        { queueOf s.dev q with cqHead := v.toNat } s.dev)))) ∧
    ((2 ^ 16 ≤ v.toNat ∨ sqSize (queueOf s.dev q) ≤ v.toNat % 2 ^ 16) →
      exec (.sqTailDoorbell q v) s = .next (withDev s (doorbellError q v.toNat s.dev))) ∧
    ((2 ^ 16 ≤ v.toNat ∨ cqSize (queueOf s.dev q) ≤ v.toNat % 2 ^ 16) →
      exec (.cqHeadDoorbell q v) s = .next (withMem s (doorbellError q v.toNat s.dev)))) ∧
  (∀ (s : State) (k : Fin 16) (v : BitVec 32), hostReach s.dev = true → s.dev.boot.ready = true → hostOwns s.dev = true →
    (bit v.toNat 31 = true → (queueOf s.dev (.kernel k)).state = .disabled →
      ringsOk (queueOf s.dev (.kernel k)).sqBase (queueOf s.dev (.kernel k)).cqBase (configMask v.toNat) = true →
      exec (.kernelQueueEnable k v) s = .next (withDev s (setQueue (.kernel k)
        { queueOf s.dev (.kernel k) with
          config := configMask v.toNat, state := .idle, sqHead := 0, sqTail := 0, cqTail := 0, cqHead := 0,
          phase := true, stalled := false, cqWait := false, wake := false, flush := none, cur := none, irqSeen := 0,
          unsignalled := false, sample := none, quiet := 0, seenAt := 0 } s.dev))) ∧
    (bit v.toNat 31 = false → (queueOf s.dev (.kernel k)).state ≠ .disabled →
      exec (.kernelQueueDisable k v) s = .next (withMem s (stopQueue (.kernel k) stAbortedDisabled true
        (setQueue (.kernel k) { queueOf s.dev (.kernel k) with
          config := bits (queueOf s.dev (.kernel k)).config 0 16 + bits (configMask v.toNat) 16 15 * 2 ^ 16 } s.dev)))) ∧
    exec (.kernelQueueAbort k) s = .next (withMem s (stopQueue (.kernel k) stAborted false s.dev)))

/-- R301: unmasking a vector whose pending bit is clear only unmasks it; with the pending bit set, nothing else masking
it and the host reachable, the bit clears and one message with the vector's address and data is sent. -/
def Obligations.UnmaskingSendsThePendingMessage : Prop :=
  ∀ (s : State) (v : Fin 2048), hostReach s.dev = true → s.dev.boot.ready = true →
    ((msixOf s.dev v.val).pending = false →
      exec (.msixUnmask v) s = .next (withDev s (setMsix v.val { msixOf s.dev v.val with masked := false } s.dev))) ∧
    ((msixOf s.dev v.val).pending = true → s.dev.host.msixMaskAll = false → s.dev.host.msixEnable = true →
      s.dev.host.quiesced = false → hostWaits s.dev = false →
      ∃ t, exec (.msixUnmask v) s = .next (withDev s t) ∧
        msixOf t v.val = { msixOf s.dev v.val with masked := false, pending := false } ∧
        t.host.sent = s.dev.host.sent ++ [{ vector := v.val, addr := (msixOf s.dev v.val).addr,
                                            data := (msixOf s.dev v.val).data }])

/-- R295: of the queues that hold an entry that may be fetched, a kernel queue comes before every user queue, and kernel
queues take turns: the first after the one served last, in ascending order with wrap. R297 to R299: when nothing of the
entry is in progress and its ops are done, and the completion ring has room, the terminal completion is written and the
queue holds no entry; its other work goes on from there. R302, R303: at the end of a watch interval every queue is
sampled, and the interval's end is the last sample. -/
def Obligations.WorkIsDispatchedCompletedAndWatched : Prop :=
  (∀ (s : State) (k : Fin 16), s.dev.boot.ready = true → s.dev.fc.safeState = false → s.dev.host.d3 = false →
    fetchable s.dev (.kernel k) = true →
    (∀ j : Fin 16, fetchable s.dev (.kernel j) = true →
      (k.val + 15 - s.dev.cur.lastKernel % 16) % 16 ≤ (j.val + 15 - s.dev.cur.lastKernel % 16) % 16) →
    exec .entryDispatch s = .next (withDev s { dispatch (.kernel k) s.dev with
      cur := { (dispatch (.kernel k) s.dev).cur with lastKernel := k.val } })) ∧
  (∀ (s : State) (q : QRef) (e : Entry), (queueOf s.dev q).cur = some e → entryDone e = true → entryQuiet e = true →
    yieldedCtx s.dev e.ctx = false → complRoom s.dev q = true →
    exec (.entryTerminalCompletion q) s = .next (withMem s (pumpQueue q (settleQueue q (setQueue q
      { queueOf (postCompl q e.irq (terminalCompl s.dev e) s.dev) q with cur := none, cqWait := false }
      (postCompl q e.irq (terminalCompl s.dev e) s.dev)))))) ∧
  (∀ s : State,
    exec .stallWatchSample s = .next (withMem s ((allQueues s.dev).foldl (fun d q => sampleQueue q d)
      { s.dev with
        cur := { s.dev.cur with
          lastSample := max s.dev.clock (s.dev.cur.lastSample + s.dev.cur.watchMs * 1000000) }
        clock := max s.dev.clock (s.dev.cur.lastSample + s.dev.cur.watchMs * 1000000) })))

/- Control and memory ops. -/

/-- R325: NOP ends with OK; WAIT_FENCE ends with the fence's value when it is at least the threshold, as unsigned
numbers, and otherwise waits; a poll that reads a value at least the threshold of the one host fence an entry waits for
gives the op its outcome. R326: SIGNAL_FENCE with MODE 0 writes the value to the fence and with MODE 1 adds it
modulo 2^64; DETAIL is the fence's new value. R337: a host fence is read with a request of 8 bytes, which the op waits
for. -/
def Obligations.WaitsAndFencesAct : Prop :=
  ((∀ (s : State) (q : QRef) (e : Entry) (o : Nat) (r x : Bytes) (d : Dev), OpRuns s q 0x00 e o r x d →
    exec (.nop q) s = .next (opOk q e o r 0 d s)) ∧
  (∀ (s : State) (q : QRef) (e : Entry) (o : Nat) (r x : Bytes) (d : Dev), OpRuns s q 0x01 e o r x d →
    (∀ (d' : Dev) (v : Nat), rd64 (opEnv q e o) (opnd x 0) d = .ok v d' →
      exec (.waitFence q) s =
        .next (if opnd x 1 ≤ v then opOk q e o r v d' s else opWaits q e o r (.fence (opnd x 0) (opnd x 1)) 0 d' s)) ∧
    (isHost (opnd x 0) = true → hostWaits d = false →
      exec (.waitFence q) s = .next (opAsks q e o r (opnd x 0) 8 d s))) ∧
  (∀ (s : State) (q : QRef) (e : Entry) (i : OpIssue) (a t : Nat) (b : Bytes) (d' : Dev),
    (queueOf s.dev q).cur = some e → i.wait = .fence a t → isHost a = true →
    ((hostWaits s.dev = false ∧ s.dev.host.quiesced = false) ∨ hushed s.dev e.ctx = true) →
    e.issues.filter (fun j => match j.wait with | .fence _ _ => true | _ => false) = [i] →
    hostReadNow e.ctx a 8 s.dev = .ok b d' → t ≤ leNat b →
    exec (.waitFencePoll q) s = .next (withDev s (opSteps q 1 (opOutcome q i.idx { detail := leNat b } d')))) ∧
  (∀ (s : State) (q : QRef) (e : Entry) (o : Nat) (r x : Bytes) (d : Dev), OpRuns s q 0x02 e o r x d →
    (∀ d' : Dev, bit (opnd x 2) 0 = false → isHost (opnd x 0) = false →
      devWrite (opnd x 0) (leBytes 8 (opnd x 1)) d = .ok () d' →
      exec (.signalFence q) s = .next (opOk q e o r (opnd x 1) d' s)) ∧
    (bit (opnd x 2) 0 = false → isHost (opnd x 0) = true → hostHolds d = false →
      exec (.signalFence q) s = .next (opOk q e o r (opnd x 1)
        (noteFence e.ctx (opnd x 0) (opnd x 1) (hostStore (opnd x 0) (leBytes 8 (opnd x 1)) d)) s)) ∧
    (∀ (d1 d2 : Dev) (v : Nat), bit (opnd x 2) 0 = true → isHost (opnd x 0) = false →
      rd64 (opEnv q e o) (opnd x 0) d = .ok v d1 →
      devWrite (opnd x 0) (leBytes 8 ((v + opnd x 1) % 2 ^ 64)) d1 = .ok () d2 →
      exec (.signalFence q) s = .next (opOk q e o r ((v + opnd x 1) % 2 ^ 64) d2 s)) ∧
    (bit (opnd x 2) 0 = true → isHost (opnd x 0) = true → d.host.atomicReq = true → hostWaits d = false →
      exec (.signalFence q) s = .next (opAsks q e o r (opnd x 0) 8 d s))))

/-- R321: COND reads the u64 at its address and compares it with the constant, unsigned or as signed 64-bit integers with
SIGNED set; its target lies above its own index and is at most OP_COUNT; the next op to issue is the target where the
test holds, and the next op in the buffer otherwise. With OP_COUNT next the entry has no further op. -/
def Obligations.CondChoosesTheNextOp : Prop :=
  (∀ (s : State) (q : QRef) (e : Entry) (o : Nat) (r x : Bytes) (d d' : Dev) (v : Nat), OpRuns s q 0x03 e o r x d →
    rd64 (opEnv q e o) (opnd x 0) d = .ok v d' →
    e.next < bits (opnd x 2) 16 16 ∧ bits (opnd x 2) 16 16 ≤ e.opCount ∧
    exec (.cond q) s = .next
      (if condTest (bits (opnd x 2) 0 3) (bit (opnd x 2) 3) v (opnd x 1) then
        opEnds q e o r { detail := v, seed := 1 } 1 (bits (opnd x 2) 16 16) d' s
       else opEnds q e o r { detail := v, seed := 0 } 1 (e.next + 1) d' s)) ∧
  (∀ (o i n : Nat) (x : Bytes), recIndirect x = 0 → ¬ (i < bits (opnd x 2) 16 16 ∧ bits (opnd x 2) 16 16 ≤ n) →
    (operandChecks 0x03 o i n x).isSome = true) ∧
  (∀ (v c : Nat),
    (condTest 0 false v c = decide (v = c)) ∧ (condTest 1 false v c = decide (v ≠ c)) ∧
    (condTest 2 false v c = decide (v < c)) ∧ (condTest 3 false v c = decide (v ≤ c)) ∧
    (condTest 4 false v c = decide (c < v)) ∧ (condTest 5 false v c = decide (c ≤ v)) ∧
    (condTest 0 true v c = decide (toInt 64 v = toInt 64 c)) ∧
    (condTest 1 true v c = decide (toInt 64 v ≠ toInt 64 c)) ∧
    (condTest 2 true v c = decide (toInt 64 v < toInt 64 c)) ∧
    (condTest 3 true v c = decide (toInt 64 v ≤ toInt 64 c)) ∧
    (condTest 4 true v c = decide (toInt 64 c < toInt 64 v)) ∧
    (condTest 5 true v c = decide (toInt 64 c ≤ toInt 64 v))) ∧
  (∀ e : Entry, e.next = e.opCount → entryOpen e = false)

/-- R322: LOOP reads the u64 counter at its address; its target lies below its own index. A count of 0 writes nothing
and issue continues; otherwise LOOP writes the count less 1, and the next op to issue is the target where that is not
0, and the next op in the buffer where it is. -/
def Obligations.LoopCountsDown : Prop :=
  (∀ (s : State) (q : QRef) (e : Entry) (o : Nat) (r x : Bytes) (d d1 : Dev) (v : Nat), OpRuns s q 0x04 e o r x d →
    rd64 (opEnv q e o) (opnd x 0) d = .ok v d1 →
    bits (opnd x 1) 0 16 < e.next ∧
    (v = 0 → exec (.loop q) s = .next (opOk q e o r 0 d1 s)) ∧
    (∀ d2 : Dev, v ≠ 0 → devWrite (opnd x 0) (leBytes 8 (v - 1)) d1 = .ok () d2 →
      exec (.loop q) s = .next (opEnds q e o r { detail := v - 1 } 1
        (if v = 1 then e.next + 1 else bits (opnd x 1) 0 16) d2 s))) ∧
  (∀ (o i n : Nat) (x : Bytes), recIndirect x = 0 → ¬ bits (opnd x 1) 0 16 < i →
    (operandChecks 0x04 o i n x).isSome = true)

/-- R328, R329: COPY stores the bytes it read, from host memory once their completion has come; FILL the pattern's bytes,
RNG_FILL its variates; DETAIL is the number of bytes, or of variates, and RNG_FILL reports its seed. -/
def Obligations.MemoryOpsStoreTheirBytes : Prop :=
  (∀ (s : State) (q : QRef) (e : Entry) (o : Nat) (r x : Bytes) (d : Dev), OpRuns s q 0x20 e o r x d →
    bytesInRange (opnd x 2) = true → addrForm (opnd x 1) = true →
    overlaps (opnd x 0) (opnd x 2) (opnd x 1) (opnd x 2) = false → checkDest (opnd x 0) (opnd x 2) d = .ok () d →
    (∀ (bs : Bytes) (d1 d2 : Dev), isHost (opnd x 1) = false → devRead (opnd x 1) (opnd x 2) d = .ok bs d1 →
      wr (opnd x 0) bs d1 = .ok () d2 →
      exec (.copy q) s = .next (opEnds q e o r { detail := opnd x 2 } (transferSteps (opnd x 2)) (e.next + 1) d2 s)) ∧
    (isHost (opnd x 1) = true → hostWaits d = false →
      exec (.copy q) s = .next (opAsks q e o r (opnd x 1) (opnd x 2) d s))) ∧
  (∀ (s : State) (q : QRef) (e : Entry) (o : Nat) (r x : Bytes) (d d' : Dev), OpRuns s q 0x21 e o r x d →
    bytesInRange (opnd x 2) = true → checkDest (opnd x 0) (opnd x 2) d = .ok () d →
    wr (opnd x 0) (fillBytes (opnd x 0) (opnd x 2) (opnd x 1)) d = .ok () d' →
    exec (.fill q) s = .next (opEnds q e o r { detail := opnd x 2 } (transferSteps (opnd x 2)) (e.next + 1) d' s)) ∧
  (∀ (s : State) (q : QRef) (e : Entry) (o : Nat) (r x : Bytes) (d d' : Dev) (c : Ctx), OpRuns s q 0x22 e o r x d →
    ctxOf d e.ctx = some c → c.terminated = false → bits (opnd x 3) 16 16 + bits (opnd x 3) 32 16 ≤ 640 →
    rangePlaced c (bits (opnd x 3) 0 8) (bits (opnd x 3) 16 16) (bits (opnd x 3) 32 16) = true →
    (∀ i < bits (opnd x 3) 32 16, accessWaits d (scratchAddr (bits (opnd x 3) 0 8) (bits (opnd x 3) 16 16 + i)) = false) →
    checkDest (opnd x 0) (opnd x 1) d = .ok () d → opnd x 2 ≠ 0 →
    wr (opnd x 0) (rngBytes (opnd x 2) (opnd x 1)) d = .ok () d' →
    exec (.rngFill q) s = .next (opEnds q e o r { detail := opnd x 1 / 2, seed := opnd x 2 }
      (transferSteps (opnd x 1)) (e.next + 1) d' s))

/- Queue control, contexts. -/

/-- R291, R292: CREATE binds a free user queue, DISABLED, with the descriptor's rings, configuration and context;
DESTROY frees a DISABLED one; ENABLE makes a DISABLED one of an open context IDLE with its indices and errors zero;
DISABLE and ABORT stop its work, and end at once where that leaves the queue as they ask and otherwise wait. R292, R302,
R308: CONTEXT_DISABLE marks the context disabled and stops its queues; CONTEXT_ENABLE makes a context usable again, also
a terminated one; WATCH sets the stall watch's interval and count. -/
def Obligations.QueueControlActs : Prop :=
  (∀ (s : State) (q : QRef) (e : Entry) (o : Nat) (r x b : Bytes) (d d1 : Dev), OpRuns s q 0xC8 e o r x d →
    descriptor (opEnv q e o) x 64 d = .ok b d1 → queueCtlBad b = none →
    queueAction s.dev (operandsNow s.dev e r) = bits (u16 b 2) 0 4 →
    (∀ c : Ctx, bits (u16 b 2) 0 4 = 0 → addrForm (u64 b 8) = true → addrForm (u64 b 0x10) = true →
      (queueOf d1 (ctlQueue b)).bound = false →
      ctxOf d1 (bits (u16 b 6) 0 10) = some c →
      exec (.queueCreate q) s = .next (opOk q e o r anyDetail (setQueue (ctlQueue b)
        { sqBase := u64 b 8, cqBase := u64 b 0x10, config := u32 b 0x18, irqCount := u16 b 0x1C,
          context := bits (u16 b 6) 0 10, bound := true } d1) s)) ∧
    (bits (u16 b 2) 0 4 = 1 → (queueOf d1 (ctlQueue b)).bound = true → (queueOf d1 (ctlQueue b)).state = .disabled →
      exec (.queueDestroy q) s = .next (opOk q e o r anyDetail (setQueue (ctlQueue b) {} d1) s)) ∧
    (bits (u16 b 2) 0 4 = 2 → (queueOf d1 (ctlQueue b)).bound = true → (queueOf d1 (ctlQueue b)).state = .disabled →
      ctxClosed d1 (queueOf d1 (ctlQueue b)).context = false →
      exec (.queueEnable q) s = .next (opOk q e o r anyDetail (setQueue (ctlQueue b)
        { enabledQueue (queueOf d1 (ctlQueue b)) with configError := false, doorbellError := false } d1) s)) ∧
    (bits (u16 b 2) 0 4 = 3 → (queueOf d1 (ctlQueue b)).bound = true →
      exec (.queueDisable q) s = .next
        (if (queueOf (stopQueue (ctlQueue b) stAbortedDisabled true d1) (ctlQueue b)).state = .disabled then
          opOk q e o r anyDetail (stopQueue (ctlQueue b) stAbortedDisabled true d1) s
         else opWaits q e o r (.queue (ctlQueue b) false) 0 (stopQueue (ctlQueue b) stAbortedDisabled true d1) s)) ∧
    (bits (u16 b 2) 0 4 = 4 → (queueOf d1 (ctlQueue b)).bound = true → (queueOf d1 (ctlQueue b)).state ≠ .disabled →
      exec (.queueAbort q) s = .next
        (if (queueOf (stopQueue (ctlQueue b) stAborted false d1) (ctlQueue b)).flush = none then
          opOk q e o r anyDetail (stopQueue (ctlQueue b) stAborted false d1) s
         else opWaits q e o r (.queue (ctlQueue b) true) 0 (stopQueue (ctlQueue b) stAborted false d1) s))) ∧
  (∀ (s : State) (q : QRef) (e : Entry) (o : Nat) (r x b : Bytes) (d d1 : Dev), OpRuns s q 0xC8 e o r x d →
    descriptor (opEnv q e o) x 64 d = .ok b d1 → queueCtlBad b = none →
    queueAction s.dev (operandsNow s.dev e r) = bits (u16 b 2) 0 4 →
    (∀ (c : Ctx) (d2 : Dev), bits (u16 b 2) 0 4 = 5 → ctxOf d1 (bits (u16 b 6) 0 10) = some c →
      d2 = stopCtxQueues (bits (u16 b 6) 0 10) stAbortedDisabled
        (setCtx (bits (u16 b 6) 0 10) { c with disabled := true } d1) →
      exec (.contextDisable q) s = .next
        (if (boundQueues d2 (bits (u16 b 6) 0 10)).all (fun k => (queueOf d2 k).state == .disabled) then
          opOk q e o r anyDetail d2 s
         else opWaits q e o r (.ctxQueues (bits (u16 b 6) 0 10)) 0 d2 s)) ∧
    (∀ c : Ctx, bits (u16 b 2) 0 4 = 6 → ctxOf d1 (bits (u16 b 6) 0 10) = some c →
      exec (.contextEnable q) s = .next (opOk q e o r anyDetail
        (setCtx (bits (u16 b 6) 0 10) { c with disabled := false, terminated := false } d1) s)) ∧
    (bits (u16 b 2) 0 4 = 7 →
      exec (.watch q) s = .next (opOk q e o r anyDetail
        { d1 with cur := { d1.cur with watchMs := u32 b 0x20, watchCount := u16 b 0x24 } } s)))

/-- R331, R292: CONTEXT_CREATE makes an empty context where none exists; CONTEXT_DESTROY removes one whose queues are
DISABLED and that has no other op in progress. R332, R333: PLACE with a descriptor that passes its checks, no BUSY case
and a save area of 66,560 bytes for every tread gives the context its new placement and save area. -/
def Obligations.ContextsAreCreatedPlacedAndDestroyed : Prop :=
  ((∀ (s : State) (q : QRef) (e : Entry) (o : Nat) (r x : Bytes) (d : Dev), OpRuns s q 0xC0 e o r x d →
    ctxOf d e.ctx = none →
    exec (.contextCreate q) s = .next (opOk q e o r anyDetail (setCtx e.ctx {} d) s)) ∧
  (∀ (s : State) (q : QRef) (e : Entry) (o : Nat) (r x : Bytes) (d : Dev) (c : Ctx), OpRuns s q 0xC1 e o r x d →
    ctxOf d e.ctx = some c → (∀ k ∈ boundQueues d e.ctx, (queueOf d k).state = .disabled) →
    openOps d e.ctx (q, e.next) = [] →
    exec (.contextDestroy q) s = .next (opOk q e o r anyDetail (destroyCtx e.ctx d) s))) ∧
  (∀ (s : State) (q : QRef) (e : Entry) (o : Nat) (r x h raw : Bytes) (d d1 d2 : Dev) (c : Ctx),
    OpRuns s q 0xC2 e o r x d → ctxOf d e.ctx = some c → descriptor (opEnv q e o) x 64 d = .ok h d1 →
    u16 h 0 = 3 → u8 h 2 ≤ 16 → nonzeroIn h 3 5 = none → (u8 h 2 ≠ 0 ∨ u64 h 8 = 0) →
    (if u8 h 2 = 0 then raw = [] ∧ d2 = d1 else rd (opEnv q e o) (u64 h 8) (16 * u8 h 2) d1 = .ok raw d2) →
    placeBad d.mem h (hallRecords (u8 h 2) raw) (chunks 16 (u8 h 2) raw) = none →
    placeBusy d2 e.ctx c { c with place := hallRecords (u8 h 2) raw, saveBase := u64 h 0x10, saveBytes := u64 h 0x18 }
      (q, e.next) (hallRecords (u8 h 2) raw) = none →
    66560 * treadsPlaced (hallRecords (u8 h 2) raw) ≤ u64 h 0x18 →
    exec (.place q) s = .next (opOk q e o r anyDetail (leaveUnits (modCtx e.ctx (fun c =>
      { c with place := hallRecords (u8 h 2) raw, saveBase := u64 h 0x10, saveBytes := u64 h 0x18 }) d2)) s))

/- Power states, self-test, calibration. -/

/-- R431: PRESET and HALL_CEILING take effect at the next period end: their values are what that period end reads.
R433: SET_VF, with expert function 4 enabled and tables that keep R423, and CLEAR_VF likewise. -/
def Obligations.PowerStateSetsWhatThePeriodEndTakes : Prop :=
  ∀ (s : State) (q : QRef) (e : Entry) (o : Nat) (r x b : Bytes) (d d1 : Dev), OpRuns s q 0xC3 e o r x d →
    descriptor (opEnv q e o) x 64 d = .ok b d1 → powerDescrBad b = none →
    powerAction s.dev (operandsNow s.dev e r) = bits (u16 b 2) 0 3 →
    (bits (u16 b 2) 0 3 = 0 →
      exec (.preset q) s = .next (opOk q e o r 0
        { d1 with power := { d1.power with presetNext := [2000, 1600, 1000, 400].getD (u16 b 6 % 4) 0 } } s)) ∧
    (bits (u16 b 2) 0 3 = 1 →
      exec (.hallCeiling q) s = .next (opOk q e o r 0
        { d1 with power := { d1.power with
          hallCeilNext := (setBits (BitVec.ofNat 16 (u16 b 4))).foldl (fun l h => setAt h (u16 b 8) l)
            d1.power.hallCeilNext } } s)) ∧
    (∀ (t : Bytes) (d2 : Dev), bits (u16 b 2) 0 3 = 4 →
      rd (opEnv q e o) (u64 b 0x10) (32 * u16 b 0xC) d1 = .ok t d2 → tablesBad t (u16 b 0xC) = none →
      expertOn d2 exPower = true →
      exec (.setVf q) s = .next (opOk q e o r anyDetail
        { d2 with power := { d2.power with
          expertNext := (List.range (u16 b 0xC)).foldl
            (fun n i => tabSet (u16 b 0xA + i) (some (vfPoints ((t.drop (32 * i)).take 32))) n)
            d2.power.expertNext } } s)) ∧
    (bits (u16 b 2) 0 3 = 5 →
      exec (.clearVf q) s = .next (opOk q e o r anyDetail
        { d1 with power := { d1.power with
          expertNext := (List.range (u16 b 0xC)).foldl (fun n i => tabSet (u16 b 0xA + i) none n)
            d1.power.expertNext } } s))

/-- R432: HALL_OFF of halls that no context is placed in, or with FORCE, which ends the contexts placed there, takes them
out of service, gates their islands and answers the mask of the halls whose state changed. HALL_ON resets each hall and
runs its march, which leaves zeros, and brings it and every gallery that passed back, as one change of the map; DETAIL is
the mask of the halls that came back. -/
def Obligations.HallsGoOffAndOn : Prop :=
  (∀ (s : State) (q : QRef) (e : Entry) (o : Nat) (r x b : Bytes) (d d1 d2 : Dev), OpRuns s q 0xC3 e o r x d →
    descriptor (opEnv q e o) x 64 d = .ok b d1 → powerDescrBad b = none →
    powerAction s.dev (operandsNow s.dev e r) = 2 → bits (u16 b 2) 0 3 = 2 →
    (bit (u16 b 2) 3 = true ∨ ∀ h ∈ setBits (BitVec.ofNat 16 (u16 b 4)), placedInHall d1 h = none) →
    d2 = (if (setBits (BitVec.ofNat 16 (u16 b 4))).all (fun h => (placedInHall d1 h).isNone) then d1
      else (d1.ctxs.filter (fun p => (setBits (BitVec.ofNat 16 (u16 b 4))).any (usesHall p.2))).foldl
        (fun d p => if p.2.terminated then d else terminateCtx p.1 stAbortedDisabled d) d1) →
    exec (.hallOff q) s = .next (opOk q e o r
      (((setBits (BitVec.ofNat 16 (u16 b 4))).filter (fun h => d1.avail.halls.getLsbD h)).foldl (fun m h => m + 2 ^ h) 0)
      (((setBits (BitVec.ofNat 16 (u16 b 4))).filter (fun h => d1.avail.halls.getLsbD h)).foldl
        (fun d h => settleRail (hallWing h) (setPower
          { (setAvail { d.avail with halls := setBit d.avail.halls h false } d).power with
            islands := (setAvail { d.avail with halls := setBit d.avail.halls h false } d).power.islands.map (fun p =>
              if p.1 / 40 = h then (p.1, { p.2 with gated := true, cls := 0, relock := none, waits := none }) else p) }
          (setAvail { d.avail with halls := setBit d.avail.halls h false } d))) d2) s)) ∧
  (∀ (s : State) (q : QRef) (f : List MarchFinding) (e : Entry) (o : Nat) (r x b : Bytes) (d d1 d2 : Dev),
    OpRuns (keepFound q f (queueOf s.dev q).found.2 s) q 0xC3 e o r x d →
    descriptor (opEnv q e o) x 64 d = .ok b d1 → powerDescrBad b = none →
    powerAction (keepFound q f (queueOf s.dev q).found.2 s).dev
      (operandsNow (keepFound q f (queueOf s.dev q).found.2 s).dev e r) = 3 → bits (u16 b 2) 0 3 = 3 →
    d2 = (setBits (BitVec.ofNat 16 (u16 b 4))).foldl
      (fun d h =>
        let z := zeroMark (.hall (Fin.ofNat 16 h)) (blockReset (.hall h) stAbortedDisabled d)
        let y := { z with avail := { z.avail with routersOut := setBit z.avail.routersOut h false } }
        let mine := f.filter (fun g =>
          match g.unit with
          | .scratch k _ => k == Fin.ofNat 16 h
          | .shared k => k == Fin.ofNat 16 h
          | .channel _ => false)
        mine.foldl (fun d g => logUnit g d) (setAvail (mine.foldl (fun a g => unitOut g.unit a)
          { y.avail with
            halls := setBit y.avail.halls h true, galleries := setAt h 0xFFFFF#20 y.avail.galleries }) y)) d1 →
    exec (.hallOn q f) s = .next (opOk q e o r
      (((setBits (BitVec.ofNat 16 (u16 b 4))).filter (fun h => !d1.avail.halls.getLsbD h)).filter
        (fun h => d2.avail.halls.getLsbD h) |>.foldl (fun m h => m + 2 ^ h) 0) d2
      (keepFound q f (queueOf s.dev q).found.2 s)))

/-- R265 to R268: SELFTEST with a request that passes its checks and has something to test starts its tests and waits.
R437: CALIBRATE of items without canary sweeps ends at once: the sensor trims are fresh, and DETAIL counts the channels
that passed, the links, and the trims; with no failed channel its status is OK. -/
def Obligations.SelfTestAndCalibrateRun : Prop :=
  (∀ (s : State) (q : QRef) (e : Entry) (o : Nat) (r x b : Bytes) (d d1 : Dev), OpRuns s q 0xC4 e o r x d →
    descriptor (opEnv q e o) x 64 d = .ok b d1 → marchHeaderBad b = none → marchModeBad (marchAsk b) = false →
    resultInside d1 (marchAsk b) = false →
    ((marchAsk b).preserving = true ∨ ∀ u ∈ (marchAsk b).units, unitPlaced d1 u = false) →
    ((marchAsk b).result = 0 ∨ checkDest (marchAsk b).result 16448 d1 = .ok () d1) →
    marchTests d1 (marchAsk b) ≠ [] →
    exec (.selftest q) s = .next (opWaits q e o r .march 0
      { d1 with march := { d1.march with reqs := d1.march.reqs ++
        [{ user := .op q e.next, preserving := (marchAsk b).preserving, result := (marchAsk b).result
           running := (marchTests d1 (marchAsk b)).filter (fun u => !unitPlaced d1 u && !unitRunning d1 u)
           deferred := (marchTests d1 (marchAsk b)).filter (fun u =>
             !((marchTests d1 (marchAsk b)).filter (fun u => !unitPlaced d1 u && !unitRunning d1 u)).contains u)
           tested := 0
           skipped := (marchAsk b).units.length - (marchTests d1 (marchAsk b)).length
           found := [] }] } } s)) ∧
  (∀ (s : State) (q : QRef) (f : BitVec 32) (e : Entry) (o : Nat) (r x b : Bytes) (d d1 : Dev),
    OpRuns (keepFound q (queueOf s.dev q).found.1 f.toNat s) q 0xC5 e o r x d →
    descriptor (opEnv q e o) x 64 d = .ok b d1 → calibrateBad b = none → bit (u16 b 2) 1 = false →
    (∀ c : Nat, c < 32 → c ∈ d1.mem.mapping → bit (u32 b 8) c = true → bit f.toNat c = false) →
    exec (.calibrate q f) s = .next (opOk q e o r
      ((if bit (u16 b 2) 2 then ((setBits (BitVec.ofNat 32 (u32 b 8))).filter (fun c => d1.mem.mapping.contains c)).length
        else 0) * 2 ^ 16 +
       (if bit (u16 b 2) 3 then (setBits (BitVec.ofNat 16 (u16 b 6))).length else 0) * 2 ^ 24 +
       ofBool (bit (u16 b 2) 0) * 2 ^ 40)
      (if bit (u16 b 2) 0 then { d1 with power := { d1.power with trimsFresh := d1.clock } } else d1) s))

/- Chain and mirror control. -/

/-- Table 9.4, R231: LIMITS sets the limits of the masked links and tells their partners, LINK_ENABLE starts the
negotiation of disabled ones, RETRAIN that of links that are up, LINK_DISABLE disables links that nothing uses, or with
FORCE any, ROUTES replaces the route table while no chain work is in progress, STATUS stores the 16 status records. R234,
R235: PAIR gives its two links the mirror role and waits for the pairing, UNPAIR ends a pairing; ATTACH of a fresh context
tells the partner its PLACE, waits for the partner's own ATTACH or, where that has come with the same PLACE, lists the
context; DETACH tells the partner and releases an attached one. -/
def Obligations.ChainAndMirrorControlAct : Prop :=
  (∀ (s : State) (q : QRef) (e : Entry) (o : Nat) (r x b : Bytes) (d d1 : Dev), OpRuns s q 0xC7 e o r x d →
    descriptor (opEnv q e o) x 64 d = .ok b d1 → chainCtlBad b = none →
    chainAction s.dev (operandsNow s.dev e r) = bits (u16 b 2) 0 3 →
    (bits (u16 b 2) 0 3 = 0 → (bit (u16 b 6) 4 = true → expertOn d1 exChain = true) →
      exec (.limits q) s = .next (opOk q e o r anyDetail
        ((setBits (BitVec.ofNat 16 (u16 b 4))).foldl (fun d n => sendInfo n d) (eachLink (u16 b 4) (fun _ l =>
          { l with maxLanes := bits (u16 b 6) 0 2, maxRate := bits (u16 b 6) 2 2, fecOff := bit (u16 b 6) 4 }) d1)) s)) ∧
    (bits (u16 b 2) 0 3 = 1 →
      exec (.linkEnable q) s = .next (opOk q e o r anyDetail (eachLink (u16 b 4) (fun _ l =>
        if l.state = .disabled then negotiate { l with failures := 0 } else l) d1) s)) ∧
    (bits (u16 b 2) 0 3 = 2 →
      (bit (u16 b 2) 3 = true ∨ ∀ n ∈ setBits (BitVec.ofNat 16 (u16 b 4)), linkInUse d1 n = false) →
      exec (.linkDisable q) s = .next (opOk q e o r anyDetail
        ((setBits (BitVec.ofNat 16 (u16 b 4))).foldl (fun d n => disableLink n d) d1) s)) ∧
    (bits (u16 b 2) 0 3 = 3 →
      exec (.retrain q) s = .next (opOk q e o r anyDetail (eachLink (u16 b 4) (fun _ l =>
        if l.state = .up then negotiate { l with failures := 0 } else l) d1) s)) ∧
    (∀ (t : Bytes) (d2 : Dev), bits (u16 b 2) 0 3 = 4 → rd (opEnv q e o) (u64 b 8) 2048 d1 = .ok t d2 →
      (∀ y ∈ t, bits y.toNat 4 3 = 0) → chainBusy d2 = false →
      exec (.routes q) s = .next (opOk q e o r anyDetail
        (losing (fun d => { d with chain := { d.chain with routes := t.map (fun y => y.toNat) } }) d2) s)) ∧
    (∀ d2 : Dev, bits (u16 b 2) 0 3 = 5 → checkDest (u64 b 8) 512 d1 = .ok () d1 →
      wr (u64 b 8) (d1.chain.links.flatMap linkRecord) d1 = .ok () d2 →
      exec (.linkStatus q) s = .next (opOk q e o r anyDetail d2 s))) ∧
  (∀ (s : State) (q : QRef) (e : Entry) (o : Nat) (r x b : Bytes) (d d1 : Dev), OpRuns s q 0xC6 e o r x d →
    descriptor (opEnv q e o) x 64 d = .ok b d1 → mirrorCtlBad b = none →
    mirrorAction s.dev (operandsNow s.dev e r) = bits (u16 b 2) 0 2 →
    (bits (u16 b 2) 0 2 = 0 → (bits (u16 b 2) 2 2 = 1 ∨ bits (u16 b 2) 2 2 = 2) →
      bits (u8 b 4) 0 4 ≠ bits (u8 b 4) 4 4 → linkInUse d1 (bits (u8 b 4) 0 4) = false →
      linkInUse d1 (bits (u8 b 4) 4 4) = false → d1.chain.mirror.role = 0 →
      pairFails d1 (bits (u16 b 2) 2 2) (bits (u16 b 6) 0 11) (bits (u8 b 4) 0 4) (bits (u8 b 4) 4 4) = false →
      exec (.pair q) s = .next (opWaits q e o r .pair 0 (setPair b d1) s)) ∧
    (bits (u16 b 2) 0 2 = 1 → exec (.unpair q) s = .next (opOk q e o r anyDetail (unpair d1) s)) ∧
    (∀ place : Bytes, bits (u16 b 2) 0 2 = 2 → attachPlace d1 (u16 b 8) (q, e.next) = some place →
      ((∀ y ∈ d1.chain.mirror.offers, y.1 ≠ u16 b 8) →
        exec (.attach q) s = .next (opWaits q e o r (.attach (u16 b 8) (u16 b 0xA)) 0
          (sendMirror (.mirrorLog (u16 b 8) (.attach (some place))) d1) s)) ∧
      (d1.chain.mirror.offers.find? (fun y => y.1 == u16 b 8) = some (u16 b 8, some place) →
        exec (.attach q) s = .next (opOk q e o r anyDetail
          (modMirror (fun m => { m with ctxs := m.ctxs ++ [{ ctx := u16 b 8, checkEvery := u16 b 0xA }] })
            (modMirror (fun m => { m with offers := m.offers.erase (u16 b 8, some place) })
              (sendMirror (.mirrorLog (u16 b 8) (.attach (some place))) d1))) s))) ∧
    (∀ m : MirrorCtx, bits (u16 b 2) 0 2 = 3 → mirrorCtx d1 (u16 b 8) = some m →
      (∀ c : Ctx, ctxOf d1 (u16 b 8) = some c → c.terminated = false) →
      exec (.detach q) s = .next (opOk q e o r anyDetail (releaseCtxs (fun m => m.ctx == u16 b 8)
        (sendMirror (.mirrorLog (u16 b 8) .detach) d1)) s)))

/- Mailbox commands. -/

/-- R347, R384, R417: GET_CAPS answers the capability table and the availability map; CAL_READ of SPACE 0 answers at most
4,096 bytes of the calibration set from its offset on, of SPACE 1 the four generations of a setting group with the
current one; LOG_READ the catalogue's counters and at most 127 records of its space: the records held and those in flash
from a write index on, the emergency slots from a slot on. R346, R418: SELFTEST_REQ with a request that passes its
checks starts its march, and its response comes at the end; LOG_CLEAR with a good token empties the spaces its scope names
and uses up the nonce. -/
def Obligations.MailboxCommandsReadAndTest : Prop :=
  ((∀ (s : State) (ch : Chan), MailWaits s ch 0x01 false true [] →
    exec (.getCaps ch) s = .next (answers ch (capBytes ++ availBytes s.dev) s.dev s)) ∧
  (∀ (s : State) (ch : Chan) (p : Bytes), MailWaits s ch 0x20 true false p → p.length = 8 → u16 p 2 = 0 →
    (u8 p 0 = 1 → u8 p 1 < 8 →
      exec (.calRead ch) s = .next (answers ch ((List.range 4).flatMap (genBytes s.otp (u8 p 1)) ++
        leBytes 4 ((currentGen s.otp (u8 p 1)).getD 0xFFFFFFFF)) s.dev s)) ∧
    (∀ n : Nat, u8 p 0 = 0 →
      n = (if calBad s.dev.trust.uniqueId s.dev.flash.cal = none then u32 s.dev.flash.cal 8 else 1048576) →
      exec (.calRead ch) s = .next (answers ch (((padTo n s.dev.flash.cal).drop (u32 p 4)).take 4096) s.dev s))) ∧
  (∀ (s : State) (ch : Chan) (p : Bytes) (l : List CatRecord), MailWaits s ch 0x30 false true p → p.length = 8 →
    u8 p 0 ≤ 2 → nonzeroIn p 1 3 = none →
    l = (if u8 p 0 = 0 then s.dev.cat.records.filter (fun r => decide (u32 p 4 ≤ r.windex))
      else if u8 p 0 = 1 then s.dev.cat.emergency.drop (u32 p 4)
      else s.dev.cat.flash.filter (fun r => decide (u32 p 4 ≤ r.windex))).take 127 →
    exec (.logRead ch) s = .next (answers ch
      (le4s [s.dev.cat.nextIndex, s.dev.cat.records.length, s.dev.cat.dropped, s.dev.cat.overwritten,
         s.dev.cat.badRows.length + s.dev.cat.emergency.length * 2 ^ 16, s.dev.cat.drained, l.length, 0] ++
       l.flatMap recordBytes)
      (if u8 p 0 = 0 then catalogueRead ((l.head?.map (fun r => r.slot / 32)).getD 0) s.dev else s.dev) s))) ∧
  ((∀ (s : State) (ch : Chan) (p : Bytes), MailWaits s ch 0x80 true false p → p.length = 64 →
    marchHeaderBad p = none → marchModeBad (marchAsk p) = false → resultInside s.dev (marchAsk p) = false →
    ((marchAsk p).preserving = true ∨ ∀ u ∈ (marchAsk p).units, unitPlaced s.dev u = false) →
    ((marchAsk p).result = 0 ∨ checkDest (marchAsk p).result 16448 s.dev = .ok () s.dev) →
    exec (.selftestReq ch) s = .next (withMem s (marchFinish
      (setMbox ch { mbox s.dev ch with march := true } (marchStart (.mail ch) (marchAsk p) s.dev))))) ∧
  (∀ (s : State) (ch : Chan) (p : Bytes), MailWaits s ch 0x31 true false p → p.length = 3373 →
    tokenBad s.dev 0x4C43584C (fun k => decide (1 ≤ k) && decide (k < 8)) p = none →
    exec (.logClear ch) s = .next (answers ch []
      { s.dev with cat := clearSpaces (u8 p 0x30) s.dev.cat, trust := { s.dev.trust with nonce := none } } s)))

/-- R349 to R351: a claim of a device without owner, or by its owner, by the channel a handover names, or with OVERRIDE
of an owner silent for its period, succeeds: the channel owns the device with the period it asked for; OWN_RELEASE
leaves no owner; OWN_HANDOVER names its target. A change of owner clears the expert enables and closes sessions. R349,
R350: a handover that nobody takes lapses one heartbeat period after it was named; an owner is silent one period after
its last heartbeat; a write of HEARTBEAT by the owner host is a heartbeat. -/
def Obligations.OwnershipChangesHands : Prop :=
  ((∀ (s : State) (ch : Chan) (p : Bytes), MailWaits s ch 0x10 false true p → p.length = 8 → u32 p 0 < 2 →
    10 ≤ u32 p 4 → u32 p 4 ≤ 60000 →
    (∀ d : Dev,
      (s.dev.own.owner = none ∧ d = changeOwner (some ch) s.dev) ∨
      (s.dev.own.owner = some ch ∧ d = s.dev) ∨
      (∃ (o : Chan) (t : Nat), s.dev.own.owner = some o ∧ o ≠ ch ∧ s.dev.own.handover = some (ch, t) ∧
        d = changeOwner (some ch) s.dev) ∨
      (∃ o : Chan, s.dev.own.owner = some o ∧ o ≠ ch ∧ (∀ t, s.dev.own.handover ≠ some (ch, t)) ∧ u32 p 0 = 1 ∧
        s.dev.own.heartbeatMs ≤ silentMs s.dev ∧
        d = changeOwner (some ch) { s.dev with own := { s.dev.own with
          overrides := min (2 ^ 16 - 1) (s.dev.own.overrides + 1) } }) →
      exec (.ownClaim ch) s = .next (answers ch
        (claimBytes { d with own := { d.own with heartbeatMs := u32 p 4, lastBeat := d.clock, silent := false } })
        { d with own := { d.own with heartbeatMs := u32 p 4, lastBeat := d.clock, silent := false } } s))) ∧
  (∀ (s : State) (ch : Chan), MailWaits s ch 0x11 true true [] →
    exec (.ownRelease ch) s = .next (answers ch [] (changeOwner none s.dev) s)) ∧
  (∀ (s : State) (ch : Chan) (p : Bytes), MailWaits s ch 0x12 true false p → p.length = 4 → u32 p 0 ≤ 4 →
    u32 p 0 ≠ chanCode ch →
    exec (.ownHandover ch) s = .next (answers ch []
      { s.dev with own := { s.dev.own with
        handover := (chanOfCode (u32 p 0)).map (fun c => (c, s.dev.clock)) } } s)) ∧
  (∀ (d : Dev) (o : Option Chan), (changeOwner o d).own.owner = o ∧ (changeOwner o d).own.expert = 0#16 ∧
    (changeOwner o d).trust.fw = none ∧ (changeOwner o d).trust.calw = none)) ∧
  ((∀ (s : State) (c : Chan) (t : Nat), s.dev.own.handover = some (c, t) →
    exec .handoverLapse s = .next (withDev s (logOpen 0x03 6 dieNorth (chanCode c) 0 0
      { s.dev with clock := max s.dev.clock (t + s.dev.own.heartbeatMs * 1000000)
                   own := { s.dev.own with handover := none } }))) ∧
  (∀ (s : State) (o : Chan), s.dev.own.owner = some o → s.dev.own.silent = false →
    exec .ownerSilent s = .next (withDev s
      { s.dev with clock := max s.dev.clock (s.dev.own.lastBeat + s.dev.own.heartbeatMs * 1000000)
                   own := { s.dev.own with silent := true } })) ∧
  (∀ (s : State) (v : BitVec 32), hostReach s.dev = true → s.dev.own.owner = some .host →
    exec (.heartbeat v) s = .next (withDev s
      { s.dev with own := { s.dev.own with lastBeat := s.dev.clock, silent := false } })))

/-- R352, R427, R356: EXPERT_ENABLE answers the enables with the named functions set and cleared; POWER_CAP sets the cap
of the next period and answers the one before; CHAIN_ID_SET names the device on the chain and tells its partners. -/
def Obligations.ExpertPowerCapAndChainIdAreSet : Prop :=
  (∀ (s : State) (ch : Chan) (p : Bytes), MailWaits s ch 0x13 true false p → p.length = 8 → u16 p 0 < 2 ^ 7 →
    u16 p 2 = 0 → u16 p 4 < 2 ^ 7 → u16 p 6 = 0 → (bit (u16 p 0) 6 = false ∨ s.dev.trust.lifecycle ≠ lcSealed) →
    exec (.expertEnable ch) s = .next (answers ch
      (leBytes 4 ((s.dev.own.expert ||| BitVec.ofNat 16 (u16 p 0)) &&& ~~~ BitVec.ofNat 16 (u16 p 4)).toNat)
      { s.dev with own := { s.dev.own with
        expert := (s.dev.own.expert ||| BitVec.ofNat 16 (u16 p 0)) &&& ~~~ BitVec.ofNat 16 (u16 p 4) } } s)) ∧
  (∀ (s : State) (ch : Chan) (p : Bytes), MailWaits s ch 0x70 true false p → p.length = 4 → 300 ≤ u16 p 0 →
    u16 p 0 ≤ 1200 → u16 p 2 = 0 →
    exec (.powerCap ch) s = .next (answers ch (leBytes 4 s.dev.power.capNext)
      { s.dev with power := { s.dev.power with capNext := u16 p 0 } } s)) ∧
  (∀ (s : State) (ch : Chan) (p : Bytes), MailWaits s ch 0x90 true false p → p.length = 4 → u32 p 0 < 2048 →
    chainBusy s.dev = false → (∀ l ∈ s.dev.chain.links, l.mirror = false) →
    exec (.chainIdSet ch) s = .next (answers ch (leBytes 4 (chainIdReg s.dev))
      ((List.range 16).foldl (fun d n => sendInfo n d)
        { s.dev with chain := { s.dev.chain with id := some (u32 p 0) } }) s))

/-- R383, R374: CAL_WRITE BEGIN opens a session for the calibration set, or in MAKER for the certificate; DATA extends its
staged bytes; COMMIT of a complete set that passes R382, or of a certificate that holds the identity's public key,
closes it and programs it to flash. R379, R380: a valid setting of CAL_WRITE programs the group's lowest free generation
with its group, generation, data and CRC, and answers the generation, or DEVICE_FAULT where it reads back otherwise.
R366: RAISE_FLOOR answers empty where neither floor rises, and programs a generation of group 0 with the running image's
floors where one does. R367, R369: LIFECYCLE_ADVANCE from BLANK to MAKER on JTAG, from MAKER to SEALED where Table 15.7
holds, and with a good token from either to RETURN programs the new state's word; RETURN programs the seed row whole. -/
def Obligations.CalibrationAndOtpAreProgrammed : Prop :=
  (∀ (s : State) (ch : Chan) (p : Bytes), MailWaits s ch 0x21 true false p → u16 p 2 = 0 →
    (u8 p 0 = 0 ∨ (u8 p 0 = 2 ∧ s.dev.trust.lifecycle = lcMaker)) →
    (p.length = 8 → u8 p 1 = 0 → 1 ≤ u32 p 4 → u32 p 4 ≤ (if u8 p 0 = 0 then 1048576 else 8176) →
      exec (.calWriteBegin ch) s = .next (answers ch []
        (setCalw (some { space := u8 p 0, total := u32 p 4, staged := [] }) s.dev) s)) ∧
    (∀ c : CalSession, 8 < p.length → p.length ≤ 4096 → u8 p 1 = 1 → s.dev.trust.calw = some c → c.space = u8 p 0 →
      u32 p 4 = c.staged.length → c.staged.length + (p.length - 8) ≤ c.total →
      exec (.calWriteData ch) s = .next (answers ch []
        (setCalw (some { c with staged := c.staged ++ p.drop 8 }) s.dev) s)) ∧
    (∀ c : CalSession, p.length = 8 → u8 p 1 = 2 → s.dev.trust.calw = some c → c.space = u8 p 0 →
      c.staged.length = c.total →
      (u8 p 0 = 0 → calBad s.dev.trust.uniqueId c.staged = none →
        exec (.calWriteCommit ch) s = .next (answers ch []
          (logEv 0x0209 dieNorth (u32 (calOwned c.staged) 0x18) 0 0
            { setCalw none s.dev with flash := { s.dev.flash with cal := calOwned c.staged } }) s)) ∧
      (∀ seed : Bytes, u8 p 0 = 2 → s.dev.trust.seed = some seed → contains (Config.mldsaPublic seed) c.staged = true →
        exec (.calWriteCommit ch) s = .next (answers ch []
          { setCalw none s.dev with flash := { s.dev.flash with
            cert := leBytes 4 c.staged.length ++ leBytes 4 (crc32c c.staged) ++ leBytes 8 0 ++ c.staged } } s)))) ∧
  ((∀ (s : State) (ch : Chan) (p img : Bytes) (g : Nat) (back : Option Bytes), MailWaits s ch 0x21 true false p →
    p.length = 64 → u8 p 0 = 1 → u8 p 1 ≠ 0 → settingBad p = none → freeGen s.otp (u8 p 1) = some g →
    img = genImage (u8 p 1) g (p.drop 8) →
    exec (.calWriteSetting ch back) s = .next
      { s with
        otp := { s.otp with
          gens := modAt (4 * u8 p 1 + g) (fun v => v ||| BitVec.ofNat 512 (leNat (padTo 64 (back.getD img)))) s.otp.gens }
        dev := if padTo 64 (back.getD img) = img then
            respond ch stOk (leBytes 8 g) (logEv 0x020A dieNorth (u8 p 1) g 0 s.dev)
          else respondFail ch stDeviceFault anyDetail (logEv 0x020A dieNorth (u8 p 1) g 1 s.dev) }) ∧
  (∀ (s : State) (ch : Chan) (p : Bytes) (rev : Nat), MailWaits s ch 0x40 true false p → p.length = 8 → u8 p 0 = 4 →
    u16 p 1 = 0 → u8 p 3 = 0 → u32 p 4 = 0 →
    rev = (floorOf s.otp).2 ||| (s.dev.trust.fwRevoke &&& (15 - (2 ^ s.dev.trust.fwKeySlot &&& 15))) →
    ((floorOf s.otp).1 = s.dev.trust.fwSecVersion → (floorOf s.otp).2 = rev →
      exec (.raiseFloor ch none) s = .next { s with dev := respond ch stOk [] s.dev }) ∧
    (∀ g : Nat, ((floorOf s.otp).1 ≠ s.dev.trust.fwSecVersion ∨ (floorOf s.otp).2 ≠ rev) → freeGen s.otp 0 = some g →
      exec (.raiseFloor ch none) s = .next
        { s with
          otp := { s.otp with
            gens := modAt g (fun v => v ||| BitVec.ofNat 512 (leNat (padTo 64
              (genImage 0 g (leBytes 2 s.dev.trust.fwSecVersion ++ leBytes 1 rev))))) s.otp.gens }
          dev := respond ch stOk (leBytes 8 g) (logEv 0x0204 dieNorth s.dev.trust.fwSecVersion rev g
            (logEv 0x020A dieNorth 0 g 0 s.dev)) })) ∧
  (∀ (s : State) (ch : Chan) (p : Bytes) (t : Nat), p.length = 8 → u8 p 0 = t → nonzeroIn p 1 7 = none →
    ((t = lcMaker ∧ s.dev.trust.lifecycle = lcBlank ∧ ch = .jtag ∧ MailWaits s ch 0x41 true true p) ∨
     (t = lcSealed ∧ s.dev.trust.lifecycle = lcMaker ∧ sealBad s.dev = 0 ∧ MailWaits s ch 0x41 true false p)) →
    exec (.lifecycleAdvance ch) s = .next
      { s with
        otp := programWord (t - 1) s.otp
        dev := respond ch stOk [] (logEv 0x0205 dieNorth s.dev.trust.lifecycle t (chanCode ch)
          { s.dev with trust := { s.dev.trust with lifecycle := t } }) }) ∧
  (∀ (s : State) (ch : Chan) (p : Bytes), MailWaits s ch 0x41 true false p → p.length = 3381 → u8 p 0 = lcReturn →
    nonzeroIn p 1 7 = none → (s.dev.trust.lifecycle = lcMaker ∨ s.dev.trust.lifecycle = lcSealed) →
    tokenBad s.dev 0x5452584C (fun x => x == 3) (p.drop 8) = none →
    exec (.lifecycleAdvance ch) s = .next
      { s with
        otp := programWord 2 (programSeed (BitVec.allOnes 256) s.otp)
        dev := respond ch stOk [] (logEv 0x0205 dieNorth s.dev.trust.lifecycle lcReturn (chanCode ch)
          { s.dev with trust := { s.dev.trust with nonce := none, lifecycle := lcReturn, seed := none } }) }))

/-- R364, R365: FW_UPDATE BEGIN empties the slot that does not run and opens a session, WRITE appends to that slot,
COMMIT of a complete image that passes Table 15.4 gives it a commit record one above the running slot's, ABORT closes
the session. R373, R374, R376: with an identity in MAKER or SEALED, PUBLIC_KEY answers its public key and CERT_READ the
stored certificate. R388: QUOTE, NONCE, KEYGEN and RNG_BYTES of a source that has not failed ask it for their bytes, and
their message waits for them. -/
def Obligations.FirmwareAndAttestationAreServed : Prop :=
  (∀ (s : State) (ch : Chan) (p : Bytes), MailWaits s ch 0x40 true false p → u16 p 1 = 0 → u8 p 3 = 0 →
    (p.length = 8 → u8 p 0 = 0 → 5441 ≤ u32 p 4 → u32 p 4 ≤ 16773120 →
      exec (.fwUpdateBegin ch) s = .next (answers ch []
        (setFw (some { total := u32 p 4, written := 0 }) (setSlot (!s.dev.trust.fwSlotB) [] none s.dev)) s)) ∧
    (∀ f : FwSession, 8 < p.length → p.length ≤ 4096 → u8 p 0 = 1 → s.dev.trust.fw = some f → u32 p 4 = f.written →
      f.written + (p.length - 8) ≤ f.total →
      exec (.fwUpdateWrite ch) s = .next (answers ch []
        (setFw (some { total := f.total, written := f.written + (p.length - 8) })
          (setSlot (!s.dev.trust.fwSlotB) (slotBytes s.dev (!s.dev.trust.fwSlotB) ++ p.drop 8) none
            (flashInjection 7 s.dev).2)) s)) ∧
    (∀ f : FwSession, p.length = 8 → u8 p 0 = 2 → u32 p 4 = 0 → s.dev.trust.fw = some f → f.written = f.total →
      imageBad s.dev (slotBytes s.dev (!s.dev.trust.fwSlotB)) = none →
      (slotCommit s.dev s.dev.trust.fwSlotB).getD 0 < 0xFFFFFFFF →
      exec (.fwUpdateCommit ch) s = .next (answers ch []
        (logEv 0x0203 dieNorth (ofBool (!s.dev.trust.fwSlotB)) ((slotCommit s.dev s.dev.trust.fwSlotB).getD 0 + 1)
          (u16 (slotBytes s.dev (!s.dev.trust.fwSlotB)) 0xC)
          (setFw none (setSlot (!s.dev.trust.fwSlotB) (slotBytes s.dev (!s.dev.trust.fwSlotB))
            (some ((slotCommit s.dev s.dev.trust.fwSlotB).getD 0 + 1)) s.dev))) s)) ∧
    (p.length = 8 → u8 p 0 = 3 → u32 p 4 = 0 →
      exec (.fwUpdateAbort ch) s = .next (answers ch [] (setFw none s.dev) s))) ∧
  ((∀ (s : State) (ch : Chan) (p seed : Bytes), MailWaits s ch 0x42 true false p → p.length = 8 → u16 p 1 = 0 →
    u8 p 3 = 0 → s.dev.trust.seed = some seed →
    (s.dev.trust.lifecycle = lcMaker ∨ s.dev.trust.lifecycle = lcSealed) →
    (u8 p 0 = 1 → u32 p 4 = 0 →
      exec (.publicKey ch) s = .next (answers ch (padTo 1952 (Config.mldsaPublic seed)) s.dev s)) ∧
    (u8 p 0 = 2 →
      exec (.certRead ch) s = .next (answers ch ((((certBytes s.dev).getD []).drop (u32 p 4)).take 4096) s.dev s))) ∧
  (∀ (s : State) (ch : Chan) (p : Bytes) (n : Nat), s.dev.ent.failed = false →
    ∀ t : State, t = withMem s (setMbox ch { mbox s.dev ch with entropy := true }
      { s.dev with ent := { s.dev.ent with waiting := s.dev.ent.waiting ++ [.mail ch n] } }) →
    (MailWaits s ch 0x42 true false p → u16 p 1 = 0 → u8 p 3 = 0 → u32 p 4 = 0 → n = 32 →
      (∀ seed : Bytes, p.length = 40 → u8 p 0 = 0 → s.dev.trust.seed = some seed →
        (s.dev.trust.lifecycle = lcMaker ∨ s.dev.trust.lifecycle = lcSealed) → exec (.quote ch) s = .next t) ∧
      (p.length = 8 → u8 p 0 = 3 → exec (.nonce ch) s = .next t) ∧
      (p.length = 8 → u8 p 0 = 4 → s.dev.trust.lifecycle = lcMaker → s.otp.seedRow = 0#256 →
        exec (.keygen ch) s = .next t)) ∧
    (MailWaits s ch 0x50 true false p → p.length = 4 → u32 p 0 = n → 1 ≤ n → n ≤ 4096 →
      exec (.rngBytes ch) s = .next t)))

/-- R388, R390, R372, R373: a source that is ready serves the request at the front: RNG_BYTES answers the bytes drawn,
NONCE keeps and answers them, QUOTE signs with them, KEYGEN programs them as the identity seed. R386, R387, R392: a
block of a source in service that is not routed to software enters the pool conditioned; a health-test failure takes its
source out of service and counts; a restart that passes brings it back with its failure count at 0, one that fails counts,
and the third in a row retires the source; with the last one retired the entropy source fails; a read of RAW_DATA takes
32 bits, and a raw bit enters the FIFO while it holds fewer than 4,096. -/
def Obligations.EntropyIsGatheredAndServed : Prop :=
  (∀ (s : State) (ch : Chan) (n : Nat) (rest : List EntropyUser) (g : MailMsg) (b : Bytes) (d1 d : Dev),
    s.dev.ent.waiting = .mail ch n :: rest → generate n s.dev = some (b, d1) →
    (mbox s.dev ch).msg = some g →
    d = setMbox ch { mbox s.dev ch with entropy := false } { d1 with ent := { d1.ent with waiting := rest } } →
    (g.command = 0x50 → 1 ≤ u32 g.payload 0 → u32 g.payload 0 ≤ 4096 →
      exec .entropyRequest s = .next (answers ch b d s)) ∧
    (g.command = 0x42 → u16 g.payload 1 = 0 → u8 g.payload 3 = 0 → u32 g.payload 4 = 0 →
      (g.payload.length = 8 → u8 g.payload 0 = 3 →
        exec .entropyRequest s = .next (answers ch b { d with trust := { d.trust with nonce := some b } } s)) ∧
      (∀ seed : Bytes, g.payload.length = 40 → u8 g.payload 0 = 0 → d.trust.seed = some seed →
        (d.trust.lifecycle = lcMaker ∨ d.trust.lifecycle = lcSealed) →
        ∀ t : Dev, t = { d with trust := { d.trust with quotes := (d.trust.quotes + 1) % 2 ^ 32 } } →
        exec .entropyRequest s = .next (answers ch
          (quoteBody t ((g.payload.drop 8).take 32) ++ padTo 3309
            (Config.mldsaSign seed ctxQuote (quoteBody t ((g.payload.drop 8).take 32)) b)) t s)) ∧
      (g.payload.length = 8 → u8 g.payload 0 = 4 → d.trust.lifecycle = lcMaker → s.otp.seedRow = 0#256 →
        seedNat b ≠ 0#256 →
        exec .entropyRequest s = .next (answers ch (padTo 1952 (Config.mldsaPublic b))
          (logEv 0x0206 dieNorth 0 0 0 { d with trust := { d.trust with seed := some b } })
          { s with otp := { s.otp with seedRow := seedNat b } })))) ∧
  ((∀ (s : State) (i : Fin 8) (raw : Bytes), (rawSrc s.dev i.val).inService = true → s.dev.ent.failed = false →
    s.dev.ent.pool.length < 16 → (s.dev.ent.rawEn = false ∨ s.dev.ent.rawSource ≠ i.val) →
    exec (.entropyBlockDone i raw) s = .next (withDev s (settleEntropy
      { s.dev with ent := { s.dev.ent with pool := s.dev.ent.pool ++ [Config.sha3 raw] } }))) ∧
  (∀ (s : State) (i : Fin 8) (apt : Bool),
    ((rawSrc s.dev i.val).inService = true ∨ (rawSrc s.dev i.val).restarting = true) →
    exec (.healthTestFailure i apt) s = .next (withDev s (logEv 0x0D01 dieNorth i.val (ofBool apt) 0
      (setRaw i.val { rawSrc s.dev i.val with
        rctFails := if apt then (rawSrc s.dev i.val).rctFails else min 0xFFFF ((rawSrc s.dev i.val).rctFails + 1)
        aptFails := if apt then min 0xFFFF ((rawSrc s.dev i.val).aptFails + 1) else (rawSrc s.dev i.val).aptFails
        inService := false
        restarting := true } s.dev)))) ∧
  (∀ (s : State) (i : Fin 8), (rawSrc s.dev i.val).restarting = true →
    exec (.entropyStartupTestEnd i true) s = .next (withDev s (logEv 0x0D02 dieNorth i.val 1 0
      (setRaw i.val { rawSrc s.dev i.val with inService := true, restarting := false, failCount := 0 } s.dev))) ∧
    ((rawSrc s.dev i.val).failCount < 2 →
      exec (.entropyStartupTestEnd i false) s = .next (withDev s
        (logEv 0x0D02 dieNorth i.val 0 ((rawSrc s.dev i.val).failCount + 1) (setRaw i.val
          { rawSrc s.dev i.val with
            failCount := (rawSrc s.dev i.val).failCount + 1, retired := false, restarting := true } s.dev)))) ∧
    (∀ d : Dev, 2 ≤ (rawSrc s.dev i.val).failCount →
      d = logEv 0x0D03 dieNorth i.val 0 0
        (logEv 0x0D02 dieNorth i.val 0 ((rawSrc s.dev i.val).failCount + 1) (setRaw i.val
          { rawSrc s.dev i.val with
            failCount := (rawSrc s.dev i.val).failCount + 1, retired := true, restarting := false } s.dev)) →
      exec (.entropyStartupTestEnd i false) s = .next (withDev s
        (if (∀ y ∈ d.ent.sources, y.retired = true) ∧ d.ent.failed = false then entropyFails d else d)))) ∧
  (∀ s : State, hostReach s.dev = true → 32 ≤ s.dev.ent.rawFifo.length →
    exec .rawDataRead s = .next (withDev s
      { s.dev with ent := { s.dev.ent with rawFifo := s.dev.ent.rawFifo.drop 32 } })) ∧
  (∀ (s : State) (v : Bool), s.dev.ent.rawEn = true →
    exec (.entropyRawBit v) s = .next (withDev s
      (if s.dev.ent.rawFifo.length < 4096 then
        { s.dev with ent := { s.dev.ent with rawFifo := s.dev.ent.rawFifo ++ [v] } }
       else { s.dev with ent := { s.dev.ent with rawOverrun := true } }))))

/-- R408: the actions of FAULT_CONFIG, each with a request that passes its checks: READ answers the register block's
first 192 words, SET writes a configuration word, ACK acknowledges a source, CLEAR clears a status bit whose cause is
clear and answers the bit, WINDOW writes FALLBACK_US, INJECT injects with expert function 5. R402 to R407: the owner
host's writes of the fault collector's registers: ACK acknowledges, an injection with expert function 5 injects, STATUS
bits clear, FALLBACK_US and configuration words change; and when an armed source's window passes, its timer is gone and
the safe state is forced: ALIVE stops, source 341 asserts with the number of unacknowledged sources, and event 0x0C02 is
logged. -/
def Obligations.FaultConfigurationActs : Prop :=
  (∀ (s : State) (ch : Chan) (p : Bytes), MailWaits s ch 0x60 true false p → p.length = 8 → fcMailBad p = none →
    (u8 p 0 = 0 →
      exec (.faultConfigRead ch) s =
        .next (answers ch (le4s ((List.range 192).map (fun i => fcReg s.dev (4 * i)))) s.dev s)) ∧
    (u8 p 0 = 1 →
      exec (.faultConfigSet ch) s = .next (answers ch [] (setConfig (u16 p 2 % 512) (u32 p 4) s.dev) s)) ∧
    (u8 p 0 = 2 →
      exec (.faultConfigAck ch) s = .next (answers ch [] (acknowledge (u16 p 2 % 512) s.dev) s)) ∧
    (u8 p 0 = 3 →
      exec (.faultConfigClear ch) s = .next (answers ch
        (leBytes 4 (ofBool ((clearStatus (u16 p 2 % 512) s.dev).fc.status.getLsbD (u16 p 2 % 512))))
        (clearStatus (u16 p 2 % 512) s.dev) s)) ∧
    (u8 p 0 = 4 →
      exec (.faultConfigWindow ch) s = .next (answers ch [] (setFallback (u32 p 4) s.dev) s)) ∧
    (u8 p 0 = 5 → expertOn s.dev exFault = true →
      exec (.faultConfigInject ch) s = .next (answers ch []
        (inject (u16 p 2 % 512) (bit (u32 p 4) 0) (bits (u32 p 4) 1 2)
          (u16 p 2 % 512 + bits (u32 p 4) 0 1 * 2 ^ 9 + bits (u32 p 4) 1 2 * 2 ^ 10) s.dev) s))) ∧
  (∀ (s : State), fcReach s.dev = true →
    (∀ v : BitVec 32, exec (.fcAck v) s = .next (withDev s
      { s.dev with fc := { s.dev.fc with
        unacked := setBit s.dev.fc.unacked (v.toNat % 512) false
        timers := s.dev.fc.timers.filter (fun t => t.1 != v.toNat % 512) } })) ∧
    (∀ v : BitVec 32, expertOn s.dev exFault = true → (sourceInfo (v.toNat % 512)).isSome = true →
      injectForm (v.toNat % 512) (bit v.toNat 9) (bits v.toNat 10 2) = true →
      exec (.fcInject v) s = .next (withMem s
        (inject (v.toNat % 512) (bit v.toNat 9) (bits v.toNat 10 2) v.toNat s.dev))) ∧
    (∀ (w : Fin 16) (v : BitVec 32), exec (.fcStatusClear w v) s = .next (withDev s
      ((List.range 32).foldl (fun d i => if bit v.toNat i then clearStatus (32 * w.val + i) d else d) s.dev))) ∧
    (∀ v : BitVec 32, 10 ≤ v.toNat % 2 ^ 14 → v.toNat % 2 ^ 14 ≤ 10000 → v.toNat % 2 ^ 14 ≠ s.dev.fc.fallbackUs →
      exec (.fcFallbackWrite v) s = .next (withDev s (logEv 0x0C04 dieNorth 0x200 (v.toNat % 2 ^ 14) s.dev.fc.fallbackUs
        { s.dev with fc := { s.dev.fc with fallbackUs := v.toNat % 2 ^ 14 } }))) ∧
    (∀ (src : Source) (v : BitVec 32), (sourceInfo src.val).isSome = true →
      cfgMask v.toNat ≠ sourceConfig s.dev.fc src.val →
      exec (.fcConfigWrite src v) s = .next (withDev s (logEv 0x0C04 dieNorth src.val (cfgMask v.toNat)
        (sourceConfig s.dev.fc src.val)
        { s.dev with fc := { s.dev.fc with config := tabSet src.val (cfgMask v.toNat) s.dev.fc.config } }))) ∧
    (∀ (src : Source) (due : Nat) (d : Dev), s.dev.fc.timers.find? (fun t => t.1 == src.val) = some (src.val, due) →
      d = { s.dev with clock := max s.dev.clock due
                       fc := { s.dev.fc with timers := s.dev.fc.timers.filter (fun t => t.1 != src.val) } } →
      (s.dev.fc.safeState = true → exec (.fallbackExpiry src) s = .next (withDev s d)) ∧
      (s.dev.fc.safeState = false →
        exec (.fallbackExpiry src) s = .next (withDev s
          (logSev 0x0C02 7 diePackage (unackedCount d.fc) (unackedLowest d.fc) 0 false
            (raise 341 (unackedCount d.fc)
              { aliveStop d with fc := { (aliveStop d).fc with safeState := true } }))))))

/-- R353, R354: the management port takes its dynamic address; a private write of at least 4 bytes to an open BMC
channel writes its data from its offset on; a JTAG access of an open channel writes its word, or reads one into the
data register. -/
def Obligations.SidebandAccessesReachTheirMailbox : Prop :=
  (∀ (s : State) (a : BitVec 7),
    exec (.i3cDynamicAddress a) s =
      .next (withDev s { s.dev with ports := { s.dev.ports with i3cDynamic := some a.toNat } })) ∧
  (∀ (s : State) (bs : Bytes), 4 ≤ bs.length → chanOpen s.dev .bmc = true →
    exec (.i3cPrivateWrite bs) s = .next (withDev s
      { i3cBytes (u32 bs 0) (bs.drop 4) s.dev with
        ports := { (i3cBytes (u32 bs 0) (bs.drop 4) s.dev).ports with i3cOffset := u32 bs 0 } })) ∧
  (∀ (s : State) (dr : BitVec 64), chanOpen s.dev .jtag = true →
    (dr.getLsbD 48 = true → exec (.mboxAccess dr) s = .next (withDev s
      { mboxWrite32 .jtag (bits dr.toNat 32 16) (low 32 dr.toNat) s.dev with
        ports := { s.dev.ports with jtagData := dr.toNat } })) ∧
    (dr.getLsbD 48 = false → exec (.mboxAccess dr) s = .next (withDev s
      { s.dev with ports := { s.dev.ports with
        jtagData := dr.toNat / 2 ^ 32 * 2 ^ 32 + mboxRead32 s.dev .jtag (bits dr.toNat 32 16) } })))

/- The fault collector. -/

/-- R396 to R402: a listed source whose cause is not present asserts on its pair: it is recorded, then its reactions
follow from the configuration word in force; on the fault wires it is counted, and source 336 asserts with it; the end of
its condition clears its cause, the end of a block reset takes it from the list, and with a memory channel that does not
train again the channel leaves service; the end of a trap's handling ends the trap's users, and the host mailbox message
for the foyer's trap. R396, R400, R402: what the record of an assertion leaves: STATUS is set, history slot SEQ mod 16
holds the source, severity and detail, the counts rise, and a source of severity 6 or 7 that was not armed is
unacknowledged with a timer of FALLBACK_US. -/
def Obligations.FaultsAreRaisedRecordedAndEnded : Prop :=
  ((∀ (s : State) (src : Source) (v : BitVec 64), (sourceInfo src.val).isSome = true → s.dev.fc.injected = [] →
    (src.val ≠ 337 → s.dev.fc.cause.getLsbD src.val = false →
      exec (.faultAssert src false v) s = .next (withMem s (react (sourceConfig s.dev.fc src.val)
        { source := src.val, rail := false, injected := false, detail := v.toNat }
        (recordAssert { source := src.val, rail := false, injected := false, detail := v.toNat } s.dev)))) ∧
    exec (.faultAssert src true v) s = .next (withMem s (assertAll
      [{ source := src.val, rail := true, injected := false, detail := v.toNat },
       { source := 336, rail := false, injected := false, detail := src.val }]
      { s.dev with fc := { s.dev.fc with wireFaults := min (2 ^ 32 - 1) (s.dev.fc.wireFaults + 1) } }))) ∧
  (∀ (s : State) (src : Source), isCondition src.val = true → src.val ∉ s.dev.fc.injectedNow →
    exec (.faultCauseClear src) s = .next (withDev s
      { s.dev with fc := { s.dev.fc with cause := setBit s.dev.fc.cause src.val false } })) ∧
  (∀ (s : State) (src : Source), src.val ∈ s.dev.fc.injectedNow →
    exec (.injectedConditionClear src) s = .next (withDev s
      { s.dev with fc := { s.dev.fc with
        cause := setBit s.dev.fc.cause src.val false
        injectedNow := s.dev.fc.injectedNow.filter (· != src.val) } })) ∧
  (∀ (s : State) (k : Nat) (ok : Bool) (d : Dev),
    d = { s.dev with fc := { s.dev.fc with resets := s.dev.fc.resets.eraseIdx k } } →
    ((ok = true ∨ ∀ c : Nat, s.dev.fc.resets[k]? ≠ some (.channel c)) →
      exec (.blockResetEnd ⟨k, ok⟩) s = .next (withMem s d)) ∧
    (∀ c : Nat, ok = false → s.dev.fc.resets[k]? = some (.channel c) →
      exec (.blockResetEnd ⟨k, ok⟩) s =
        .next (withMem s (setAvail { d.avail with channels := setBit d.avail.channels c false } d)))) ∧
  (∀ (s : State) (src : Source) (t : TrapRun) (d : Dev), s.dev.fc.traps.find? (fun t => t.source == src.val) = some t →
    d = (if src.val = 4 then respondFail .host stDeviceFault anyDetail (t.users.foldl (fun d u => trapOp u d)
          { s.dev with fc := { s.dev.fc with traps := s.dev.fc.traps.erase t } })
        else t.users.foldl (fun d u => trapOp u d)
          { s.dev with fc := { s.dev.fc with traps := s.dev.fc.traps.erase t } }) →
    exec (.curatorTrapEnd src) s = .next (withMem s
      (if cfgAutoAck (sourceConfig d.fc src.val) then acknowledge src.val d else d)))) ∧
  (∀ (d : Dev) (a : Assertion), a.source < 512 →
    (recordAssert a d).fc.status.getLsbD a.source = true ∧
    (recordAssert a d).fc.nextSeq = (d.fc.nextSeq + 1) % 65536 ∧
    (recordAssert a d).fc.histCount = min (2 ^ 32 - 1) (d.fc.histCount + 1) ∧
    tabGet? (d.fc.nextSeq % 16) (recordAssert a d).fc.history = some
      { source := a.source, severity := cfgSeverity (sourceConfig d.fc a.source), rail := a.rail, injected := a.injected,
        seq := d.fc.nextSeq, time := opTime d, detail := low 64 a.detail } ∧
    (isCondition a.source = true → (recordAssert a d).fc.cause.getLsbD a.source = true) ∧
    (6 ≤ cfgSeverity (sourceConfig d.fc a.source) → d.fc.unacked.getLsbD a.source = false →
      (recordAssert a d).fc.unacked.getLsbD a.source = true ∧
      (recordAssert a d).fc.timers = d.fc.timers ++ [(a.source, d.clock + 1000 * d.fc.fallbackUs)]) ∧
    (∀ k : Nat, k ≠ a.source → (recordAssert a d).fc.status.getLsbD k = d.fc.status.getLsbD k))

/- The catalogue. -/

/-- R412, R413, R414: an event that repeats the record being written, or with none being written the newest record, is
merged into it; any other event starts a record where none is being written: in a free slot of a usable row, over the
oldest record of the lowest severity where that is not higher than its own, or it is dropped. R410, R415, R416: the
record becomes valid with its repeats; the record drained next goes to flash; ADVANCE moves the cursor to the next record
held. -/
def Obligations.TheCatalogueTakesDrainsAndAdvances : Prop :=
  (∀ (s : State) (e : Event) (rest : List Event), s.dev.cat.input = e :: rest →
    (∀ (r : CatRecord) (n : Nat), s.dev.cat.writing = some (r, n) → sameEvent e r.ev = true →
      exec .catalogueTake s = .next (withDev s
        { s.dev with cat := { s.dev.cat with input := rest, writing := some (r, n + e.repeats + 1) } })) ∧
    (∀ r : CatRecord, s.dev.cat.writing = none → s.dev.cat.records.getLast? = some r → sameEvent e r.ev = true →
      exec .catalogueTake s = .next (withDev s (catalogueRead (r.slot / 32)
        { s.dev with cat := mergeNewest (e.repeats + 1) { s.dev.cat with input := rest } }))) ∧
    (s.dev.cat.writing = none → (∀ r : CatRecord, s.dev.cat.records.getLast? = some r → sameEvent e r.ev = false) →
      (s.dev.cat.records.length < (256 - s.dev.cat.badRows.length) * 32 →
        exec .catalogueTake s = .next (withDev s
          { s.dev with cat := { s.dev.cat with
            input := rest
            nextIndex := (s.dev.cat.nextIndex + 1) % 2 ^ 32
            writing := some
              ({ windex := s.dev.cat.nextIndex, slot := freeSlot s.dev.cat, ev := { e with repeats := min 0xFFFF e.repeats },
                 emergency := false, reloaded := false, opTime := opTime s.dev, cycles := s.dev.cat.powerCycles }, 0) } })) ∧
      (∀ v : CatRecord, 0 < (256 - s.dev.cat.badRows.length) * 32 →
        (256 - s.dev.cat.badRows.length) * 32 ≤ s.dev.cat.records.length →
        victim e.severity s.dev.cat.records = some v →
        exec .catalogueTake s = .next (withDev s
          { s.dev with cat := { s.dev.cat with
            input := rest
            records := s.dev.cat.records.filter (fun r => r.windex != v.windex)
            overwritten := min (2 ^ 32 - 1) (s.dev.cat.overwritten + 1)
            nextIndex := (s.dev.cat.nextIndex + 1) % 2 ^ 32
            writing := some
              ({ windex := s.dev.cat.nextIndex, slot := v.slot, ev := { e with repeats := min 0xFFFF e.repeats },
                 emergency := false, reloaded := false, opTime := opTime s.dev, cycles := s.dev.cat.powerCycles }, 0) } })) ∧
      (0 < (256 - s.dev.cat.badRows.length) * 32 → (256 - s.dev.cat.badRows.length) * 32 ≤ s.dev.cat.records.length →
        victim e.severity s.dev.cat.records = none →
        exec .catalogueTake s = .next (withDev s
          { s.dev with cat := { s.dev.cat with
            input := rest, dropped := min (2 ^ 32 - 1) (s.dev.cat.dropped + 1) } })))) ∧
  (∀ (s : State) (r : CatRecord) (n : Nat), s.dev.cat.writing = some (r, n) →
    exec .catalogueRecordValid s = .next (withDev s
      { s.dev with cat := { s.dev.cat with
        writing := none
        records := s.dev.cat.records ++
          [{ r with ev := { r.ev with repeats := min 0xFFFF (r.ev.repeats + n) } }] } })) ∧
  (∀ (s : State) (r : CatRecord), toDrain s.dev.cat = some r →
    (∀ i ∈ s.dev.fc.injected, i.1 ≠ 339) →
    exec (.catalogueDrain true) s = .next (withDev s
      { s.dev with cat := { flashAppend r s.dev.cat with
        drained := max s.dev.cat.drained (r.windex + 1)
        redrain := s.dev.cat.redrain.filter (· != r.windex) } }) ∧
    (∀ d : Dev, d = { s.dev with cat := { s.dev.cat with
        flashOk := false, flashPos := (s.dev.cat.flashPos / 65536 + 1) * 65536 } } →
      exec (.catalogueDrain false) s = .next (withDev s
        (logSev 0x0E03 4 dieNorth s.dev.cat.flashPos r.windex 0 false (raise 339 s.dev.cat.flashPos d))))) ∧
  (∀ (s : State), hostReach s.dev = true → s.dev.cat.space = false →
    (∀ r : CatRecord, s.dev.cat.records.find? (fun r => decide (s.dev.cat.cursor < r.windex)) = some r →
      exec .advance s = .next (withDev s { s.dev with cat := { s.dev.cat with cursor := r.windex } })) ∧
    (s.dev.cat.records.find? (fun r => decide (s.dev.cat.cursor < r.windex)) = none →
      exec .advance s = .next (withDev s { s.dev with cat := { s.dev.cat with cursor := s.dev.cat.nextIndex } })))

/- Power and clocks. -/

/-- R425, R426, R431: at a period end the sequence number rises, and the cap, the preset and the hall ceilings that were
set take effect; with no sensor at 105 °C or above. R420, R422 to R424: when a wing's rail has settled at its setpoint, the
relocks that waited for it and that it allows start; a relock that ends gives its island the new frequency, or what the rail
allows; a canary failure lowers its island by 25 MHz, not below 400, and to what the rail allows with a TUNE raised by 10
mV, not above 40. R18, R23, R436, R435: a gated island of a hall in service wakes no faster than its rail allows, and
waits for the rail where it allows less than the target; an island with no work and no arriving traffic is gated; a sweep
at a quiet point lowers TUNE by 5 mV, not below -40, where it passes; a refresh of the sensor trims is stamped. R430,
R446: THERMTRIP at a reading of 115 °C or more latches, gates every half-gallery island, sets every wing to 0.65 V and
raises source 326; a reading below changes nothing. A wing's VR that does not answer resets the wing. -/
def Obligations.PowerFollowsItsSettings : Prop :=
  (∀ (s : State) (x : PeriodSample), s.dev.boot.ready = true → (∀ t ∈ x.temps, t < 420) →
    ∃ t : Dev, exec (.controlPeriodEnd x) s = .next (withMem s t) ∧
      t.power.seq = (s.dev.power.seq + 1) % 2 ^ 32 ∧ t.power.powerW = x.powerW ∧
      t.power.cap = s.dev.power.capNext ∧ t.power.preset = s.dev.power.presetNext ∧
      t.power.hallCeil = s.dev.power.hallCeilNext ∧ t.power.temps = x.temps ∧
      t.power.ceilT ≤ max s.dev.power.ceilT (min 2000 (s.dev.power.ceilT + 100))) ∧
  ((∀ (s : State) (w : Fin 4) (d : Dev),
    d = { s.dev with power := { s.dev.power with
      rail := setAt w.val (s.dev.power.setpoint.getD w.val 650) s.dev.power.rail } } →
    ∃ t : Dev, exec (.avsSettled w) s = .next (withMem s t) ∧ t.power.rail = d.power.rail ∧
      (∀ (i f : Nat), hallWing (i / 40) = w.val → (islandOf s.dev i).waits = some f → f ≤ railMhz d i →
        (islandOf t i).relock = some f ∧ (islandOf t i).waits = none) ∧
      (∀ i : Nat, hallWing (i / 40) ≠ w.val → islandOf t i = islandOf s.dev i)) ∧
  (∀ (s : State) (i : Fin 640) (f : Nat), (islandOf s.dev i.val).relock = some f →
    exec (.pllRelockDone i) s = .next (withMem s (settleRail (hallWing (i.val / 40))
      (setIsland i.val { islandOf s.dev i.val with mhz := min f (railMhz s.dev i.val), relock := none } s.dev)))) ∧
  (∀ (s : State) (i : Fin 640) (d d' : Dev) (g : Nat), islandStopped s.dev i.val = false →
    d = setIsland i.val { islandOf s.dev i.val with tune := min 40 ((islandOf s.dev i.val).tune + 10), limit := 5 } s.dev →
    g = min (max 400 ((islandOf s.dev i.val).mhz - 25)) (railMhz d i.val) →
    d' = setIsland i.val { islandOf d i.val with
      mhz := if g < 400 then 0 else g
      waits := if g < 400 then some (islandTarget d i.val) else (islandOf d i.val).waits } d →
    exec (.canaryFail i) s = .next (withDev s (logOpen 0x0A 10 (i.val / 40) i.val 0 0
      (settleRail (hallWing (i.val / 40)) (setPower
        { d'.power with canaryFails := min (2 ^ 32 - 1) (d'.power.canaryFails + 1) } d')))))) ∧
  ((∀ (s : State) (i : Fin 640) (f g : Nat), (islandOf s.dev i.val).gated = true → s.dev.boot.thermtrip = false →
    s.dev.avail.halls.getLsbD (i.val / 40) = true → s.dev.boot.ready = true →
    f = islandTarget s.dev i.val →
    g = min (if (islandOf s.dev i.val).mhz = 0 then f else min f (islandOf s.dev i.val).mhz) (railMhz s.dev i.val) →
    exec (.islandWake i) s = .next (withMem s (settleRail (hallWing (i.val / 40)) (setIsland i.val
      { islandOf s.dev i.val with
        gated := false
        cls := 2
        relock := none
        mhz := if g < 400 then 0 else g
        waits := if g < f then some f else none } s.dev)))) ∧
  (∀ (s : State) (i : Fin 640), islandBusy s.dev i.val = false →
    exec (.clockGating i) s = .next (withDev s (settleRail (hallWing (i.val / 40))
      (setIsland i.val { islandOf s.dev i.val with gated := true, cls := 0, relock := none, waits := none } s.dev)))) ∧
  (∀ (s : State) (i : Fin 640),
    (∀ c ∈ islandCtxs s.dev i.val, ctxQuiet s.dev c (fun h g => h == i.val / 40 && g == i.val % 40 / 2) = true) →
    exec (.canarySweep i true) s = .next (withDev s (sweepDone i.val (setIsland i.val
      { islandOf s.dev i.val with tune := max (-40) ((islandOf s.dev i.val).tune - 5) } s.dev))) ∧
    exec (.canarySweep i false) s = .next (withDev s (sweepDone i.val s.dev))) ∧
  (∀ s : State, exec .sensorTrimRefresh s = .next (withDev s
    { s.dev with power := { s.dev.power with trimsFresh := s.dev.clock } }))) ∧
  ((∀ (s : State) (k : Fin 80) (x : Int), 460 ≤ x →
    exec (.thermtrip k x) s = .next (withMem s (raise 326 (x / 4).toNat
      { s.dev with
        boot := { s.dev.boot with thermtrip := true }
        power := { s.dev.power with
          islands := s.dev.power.islands.map (fun p =>
            (p.1, { p.2 with gated := true, cls := 0, relock := none, waits := none }))
          setpoint := [650, 650, 650, 650]
          rail := [650, 650, 650, 650] } }))) ∧
  (∀ (s : State) (k : Fin 80) (x : Int), x < 460 → exec (.thermtrip k x) s = .next (withMem s s.dev)) ∧
  (∀ (s : State) (w : Fin 4),
    exec (.avsbusNoAnswer w) s = .next (withMem s (blockReset (.wing w.val) stAbortedDisabled s.dev)) ∧
    (s.dev.boot.ready = true → (∀ b ∈ s.dev.fc.resets, blockWithin (.wing w.val) b = false) →
      Block.wing w.val ∈ (blockReset (.wing w.val) stAbortedDisabled s.dev).fc.resets)))

/- Memories. -/

/-- R435, R253, R255: refresh, ZQ latching and periodic retraining count on their channel and change nothing else; a
write-back that is done leaves the list; the scrubber of a bank reads its next row and goes on to the row above it, with
wrap: a clean word is read, a correctable one is reported, an uncorrectable one is recorded and reported. R263, R268,
R269: a deferred unit in service starts its test when every context placed on it is quiet; a unit's test that ends leaves
the request's running units and is counted; a destructive one leaves zeros, a preserving one its words; a unit in which
errors were found fails, and what waited for the unit goes on. -/
def Obligations.MemoryIsKeptAndTested : Prop :=
  ((∀ (s : State) (c : Fin 32) (bank : Nat), exec (.lpddrRefresh c bank) s = .next (withDev s
    { s.dev with mem := { s.dev.mem with
      refresh := tabSet c.val (tabGet 0 c.val s.dev.mem.refresh + 1) s.dev.mem.refresh } })) ∧
  (∀ (s : State) (c : Fin 32), exec (.lpddrZqLatch c) s = .next (withDev s
    { s.dev with mem := { s.dev.mem with zq := tabSet c.val (tabGet 0 c.val s.dev.mem.zq + 1) s.dev.mem.zq } })) ∧
  (∀ (s : State) (c : Fin 32), exec (.lpddrPeriodicRetrain c) s = .next (withDev s
    { s.dev with mem := { s.dev.mem with
      retrain := tabSet c.val (tabGet 0 c.val s.dev.mem.retrain + 1) s.dev.mem.retrain } })) ∧
  (∀ (s : State) (w : BitVec 48), exec (.eccWriteback w) s = .next (withDev s
    { s.dev with mem := { s.dev.mem with
      writeback := s.dev.mem.writeback.filter (fun a => a != wordOf w.toNat) } })) ∧
  (∀ (s : State) (w : BitVec 48) (a k row : Nat) (d : Dev), a = wordOf w.toNat → bankRow a = some (k, row) →
    row = tabGet 0 k s.dev.mem.scrub → accessWaits s.dev a = false → inService s.dev a = true →
    injectionAt s.dev a = none →
    d = { s.dev with mem := { s.dev.mem with scrub := tabSet k ((row + 1) % bankRows k) s.dev.mem.scrub } } →
    exec (.scrubRead w .clean) s = .next (withMem s (readWord a d).2) ∧
    (a ∉ s.dev.mem.ue →
      exec (.scrubRead w .correctable) s = .next (withMem s (reportCe a false d)) ∧
      exec (.scrubRead w .uncorrectable) s = .next (withMem s (reportUe a false
        { d with mem := { d.mem with ue := d.mem.ue ++ [a] } }))) ∧
    (a ∈ s.dev.mem.ue →
      exec (.scrubRead w .correctable) s = .next (withMem s (reportUe a false d)) ∧
      exec (.scrubRead w .uncorrectable) s = .next (withMem s (reportUe a false d))))) ∧
  ((∀ (s : State) (u : MarchUnit) (r : MarchReq) (rest : List MarchReq), s.dev.march.reqs = r :: rest →
    u ∈ r.deferred → unitRunning s.dev u = false → unitQuiet s.dev u = true → unitInService s.dev u = true →
    exec (.marchQuietPoint u) s = .next (withMem s (marchFinish { s.dev with march := { s.dev.march with
      reqs := { r with deferred := r.deferred.filter (fun v => !(v == u)), running := r.running ++ [u] } :: rest } }))) ∧
  (∀ (s : State) (u : MarchUnit) (l z : List Nat) (here all : List (Nat × Bool)) (r : MarchReq) (d : Dev),
    s.dev.march.reqs = [r] →
    u ∈ r.running →
    here = ((markLost l z).map (fun p => (wordOf p.1, p.2))).filter (fun p => unitOf s.dev.mem p.1 == some u) →
    all = (if r.preserving then preservedFound s.dev.mem u here else here) →
    d = { (if r.preserving then { s.dev with mem := preservingLeaves u all s.dev.mem }
        else { s.dev with mem := memMark (.unit u) none s.dev.mem }) with
      march := { s.dev.march with
        reqs := [{ r with
          running := r.running.filter (fun v => !(v == u)), tested := r.tested + 1
          found := if all.isEmpty then r.found else r.found ++ [{ unit := u, found := all }] }] } } →
    exec (.marchUnitEnd u l z) s = .next (withMem s (resumeRuns (marchFinish
      (if all.isEmpty then d else unitFails { unit := u, found := all } d))))))

/- Resets and start-up. -/

/-- R446, R410: after a power-on reset start-up stands in stage 1 with its event in the catalogue's queue, POWER_CYCLES
is one higher, and the queues, contexts, mailboxes, power and chain are as at reset; OTP and flash stay. R336, R440,
R446: a function-level reset from READY on, a hot reset or a loss of the link, and PERST_N going low are chip resets:
start-up runs again, from stage 2 or held before it by PERST_N, the owner stays, and the queues, contexts, power, chain
and mailboxes are as at reset; PERST_N going high starts stage 2 after such a reset, and otherwise only leaves start-up
free. -/
def Obligations.ResetsLeaveTheirState : Prop :=
  (∀ (s : State) (m : BitVec 3) (te : Bool), ∃ t : Dev, exec (.powerOnReset m te) s = .next (withDev s t) ∧
    t.boot.stage = 1 ∧ t.boot.ready = false ∧ t.boot.failed = false ∧ t.boot.mgmtAddr = m.toNat ∧
    t.boot.testEn = te ∧ t.cat.powerCycles = (s.dev.cat.powerCycles + 1) % 2 ^ 24 ∧ t.cat.records = [] ∧
    t.cur = {} ∧ t.ctxs = [] ∧ t.power = {} ∧ t.chain = {} ∧ t.mbHost = {} ∧ t.own = {} ∧ t.fc = {} ∧ t.ent = {} ∧
    t.flash = s.dev.flash ∧ t.cat.flash = s.dev.cat.flash ∧ t.clock = s.dev.clock) ∧
  ((∀ (s : State), s.dev.boot.ready = true →
    exec .functionLevelReset s = .next (withDev s (chipReset .flr s.dev))) ∧
  (∀ (s : State), s.dev.host.linkUp = true → s.dev.boot.stopped = none →
    exec .hotReset s = .next (withDev s (chipReset .hotReset s.dev)) ∧
    exec .dlDown s = .next (withDev s (chipReset .dlDown s.dev))) ∧
  (∀ (s : State), s.dev.boot.perstLow = false → ¬ (s.dev.boot.stage = 1 ∧ s.dev.boot.cause = .powerOn) →
    exec (.perstN false) s = .next (withDev s
      (chipReset .perst { s.dev with boot := { s.dev.boot with perstLow := true } }))) ∧
  (∀ (s : State), s.dev.boot.perstLow = true →
    (s.dev.boot.thermtrip = false → s.dev.boot.cause = .perst →
      exec (.perstN true) s = .next (withDev s { s.dev with boot := { s.dev.boot with
        perstLow := false, startTime := s.dev.clock, stage := 2 } })) ∧
    ((s.dev.boot.thermtrip = true ∨ s.dev.boot.cause ≠ .perst) →
      exec (.perstN true) s = .next (withDev s { s.dev with boot := { s.dev.boot with
        perstLow := false, startTime := s.dev.clock } }))) ∧
  (∀ (d : Dev) (c : StartCause), isFaultCause c = false →
    (chipReset c d).boot.ready = false ∧
    (chipReset c d).boot.stage = (if d.boot.perstLow || d.boot.thermtrip then 1 else 2) ∧
    (chipReset c d).boot.cause = c ∧ (chipReset c d).own.owner = d.own.owner ∧ (chipReset c d).cur = {} ∧
    (chipReset c d).ctxs = [] ∧ (chipReset c d).power = {} ∧ (chipReset c d).chain = {} ∧
    (chipReset c d).mbHost = {} ∧ (chipReset c d).fc.status = d.fc.status ∧ (chipReset c d).flash = d.flash))

/-- R439 to R445: stage 2 measures the boot ROM and finds the flash or not; stage 3 without readable OTP stops start-up
with BOOT_FAILED; a training timeout in stage 6 goes on to stage 7; stage 7 maps the channels that trained, stage 8 leaves
zeros and takes failing units out, stage 9 loads the calibration set or refuses it; the end of stage 10 takes the refused
halls out of service, makes the device READY with generation 0 and starts the links. -/
def Obligations.StartupStagesEnd : Prop :=
  (∀ (s : State) (r : StageReport), bootRuns s.dev = true → s.dev.boot.stage = 2 →
    exec (.startupStageEnd r) s = .next (withMem s
      { s.dev with
        trust := { s.dev.trust with mRom := Config.shake256 Config.bootRom, flashFound := r.ok }
        boot := { s.dev.boot with stage := 3 } })) ∧
  (∀ (s : State) (r : StageReport), bootRuns s.dev = true → s.dev.boot.stage = 3 → r.ok = false →
    exec (.startupStageEnd r) s = .next (withMem s (logEv 0x0104 dieNorth 3 1 0
      { s.dev with boot := { s.dev.boot with stopped := some 1, failed := true } }))) ∧
  (∀ (s : State), bootRuns s.dev = true → s.dev.boot.stage = 6 →
    exec .pcieTrainingTimeout s =
      .next (withDev s { s.dev with boot := { s.dev.boot with stage := 7 } })) ∧
  (∀ (s : State) (r : StageReport), bootRuns s.dev = true →
    (s.dev.boot.stage = 7 →
      exec (.startupStageEnd r) s = .next (withMem s (setStage 8 (trainChannels r.capacities r.passes s.dev)))) ∧
    (s.dev.boot.stage = 8 → exec (.startupStageEnd r) s = .next (withMem s (setStage 9 (marchStage r.failing s.dev)))) ∧
    (s.dev.boot.stage = 9 → exec (.startupStageEnd r) s = .next (withMem s (setStage 10 (loadCal s.otp s.dev)))) ∧
    (s.dev.boot.stage = 10 →
      exec (.startupStageEnd r) s = .next (withMem s (startLinks (becomeReady (bringUp r.hallsRefused s.dev)))) ∧
      (becomeReady s.dev).boot.ready = true ∧ (becomeReady s.dev).avail.generation = 0 ∧
      (∀ h : Nat, h < 16 → (bringUp r.hallsRefused s.dev).avail.halls.getLsbD h =
        (s.dev.avail.halls.getLsbD h && !(BitVec.ofNat 16 r.hallsRefused).getLsbD h))))

/- Host accesses. -/

/-- R339: a host access through BAR4 that nothing makes wait is served: a read of mapped memory in service that no
injection or uncorrectable word meets delivers the bytes there, a write stores its bytes; an access that meets an unmapped
byte reads all ones, stores nothing, and is counted and logged. R268: an access that its unit makes wait, or one behind
it, is kept in the order of arrival. R337, R325: a successful completion of an op's host read gives the op its bytes, and the
op runs again; UR and CA end the op with BAD_ADDRESS and the host address, a poisoned completion and a timeout with
DEVICE_FAULT; a completion for a host fence that an op waits for is read against its threshold. -/
def Obligations.HostAccessesReachMemory : Prop :=
  (∀ (s : State) (o : BitVec 39) (x : HeldAccess), hostReach s.dev = true → o.toNat < bar4Size s.dev →
    x.addr = bar4Addr s.dev o.toNat →
    (s.dev.host.held = [] → accessHeld (holdAccess x s.dev) x = false →
      exec (.bar4Access o x.op) s = .next (withMem s
        { hostAccess x (holdAccess x s.dev) with
          host := { (hostAccess x (holdAccess x s.dev)).host with held := [] } })) ∧
    (∀ (y : HeldAccess) (t : List HeldAccess), (holdAccess x s.dev).host.held = y :: t →
      accessHeld (holdAccess x s.dev) y = true →
      exec (.bar4Access o x.op) s = .next (withMem s (holdAccess x s.dev)))) ∧
  (∀ (d : Dev) (a : Nat),
    (∀ n : Nat,
      (hostMiss d a n = true → hostAccess { addr := a, op := .read n } d =
        missed a { d with host := { d.host with bar4Read := List.replicate n 0xFF } }) ∧
      (∀ (bs : Bytes) (d' : Dev), hostMiss d a n = false → readPart a n (countHostFlow true a n d) = .ok (bs, none) d' →
        hostAccess { addr := a, op := .read n } d = { d' with host := { d'.host with bar4Read := bs } })) ∧
    (∀ bs : Bytes,
      (hostMiss d a bs.length = true → hostAccess { addr := a, op := .write bs } d = missed a d) ∧
      (∀ d' : Dev, hostMiss d a bs.length = false → devWrite a bs (countHostFlow false a bs.length d) = .ok () d' →
        hostAccess { addr := a, op := .write bs } d = d'))) ∧
  (∀ (s : State) (q : QRef) (op : Fin 32768) (a : BitVec 63) (bs : Bytes) (e : Entry) (i : OpIssue),
    (queueOf s.dev q).cur = some e → openIssue e op.val = some i →
    (∀ x n : Nat, i.wait = .host x n →
      exec (.hostCompletion q op a .success bs) s = .next (withMem s (pumpQueue q (runAgain q op.val
        (modIssue q op.val (fun i => { i with got := (a.toNat + 2 ^ 63, bs) :: i.got })
          (forwardLog e.ctx (.hostBytes (a.toNat + 2 ^ 63) bs)
            { s.dev with
              host := { s.dev.host with mem := cellsSet a.toNat bs s.dev.host.mem }
              tele := { s.dev.tele with rxBytes := min (2 ^ 64 - 1) (s.dev.tele.rxBytes + bs.length) } }))))) ∧
      (∀ st detail : Nat, hostReadFails q op.val i st detail s.dev =
        runAgain q op.val (modIssue q op.val (fun i => { i with badRead := some (st, detail) })
          (forwardLog e.ctx (.hostBytes (x + 2 ^ 63) [])
            (logOpen 0x08 17 dieNorth (qNumber q + 0x8000 * ofBool (qIsKernel q)) st op.val s.dev))))) ∧
    (∀ x t : Nat, i.wait = .fence x t → isHost x = true →
      exec (.hostCompletion q op a .success bs) s = .next (withMem s (pumpQueue q (fenceReads e.ctx q op.val x t
        { s.dev with
          host := { s.dev.host with mem := cellsSet a.toNat bs s.dev.host.mem }
          tele := { s.dev.tele with rxBytes := min (2 ^ 64 - 1) (s.dev.tele.rxBytes + bs.length) } })))) ∧
    (readsHost i.wait = true →
      exec (.hostCompletion q op a .unsupported bs) s = .next (withMem s (pumpQueue q
        (hostReadFails q op.val i stBadAddress (a.toNat + 2 ^ 63) s.dev))) ∧
      exec (.hostCompletion q op a .completerAbort bs) s = .next (withMem s (pumpQueue q
        (hostReadFails q op.val i stBadAddress (a.toNat + 2 ^ 63) s.dev))) ∧
      exec (.hostCompletion q op a .poisoned bs) s = .next (withMem s (pumpQueue q
        (hostReadFails q op.val i stDeviceFault anyDetail s.dev))) ∧
      exec (.completionTimeout q op) s = .next (withMem s (pumpQueue q
        (hostReadFails q op.val i stDeviceFault anyDetail s.dev)))))

/-- R336, R434: before READY a configuration request is answered with Request Retry Status; from READY on a read returns
its item and a write sets its control, the link takes a new speed and width, D3hot is entered, and D0 is returned to with
the messages that waited sent. -/
def Obligations.ConfigurationAndPowerStatesChange : Prop :=
  (∀ (s : State) (r : CfgReq), s.dev.boot.ready = false →
    exec (.configRequest r) s = .next (withDev s { s.dev with host := { s.dev.host with cfgAnswer := some .retry } })) ∧
  (∀ s : State, s.dev.boot.ready = true →
    (∀ i : CfgItem, exec (.configRequest (.read i)) s = .next (withDev s
      { s.dev with host := { s.dev.host with cfgAnswer := some (.value (cfgItem s.dev.host i)) } })) ∧
    (∀ on : Bool,
      exec (.configRequest (.memSpace on)) s =
        .next (withDev s { s.dev with host := { s.dev.host with memSpace := on, cfgAnswer := some (.value 0) } }) ∧
      (∀ d : Dev, d = flushMsi { s.dev with host := { s.dev.host with busMaster := on } } →
        exec (.configRequest (.busMaster on)) s =
          .next (withDev s { d with host := { d.host with cfgAnswer := some (.value 0) } })) ∧
      exec (.configRequest (.atomicRequester on)) s =
        .next (withDev s { s.dev with host := { s.dev.host with atomicReq := on, cfgAnswer := some (.value 0) } }) ∧
      (∀ d : Dev, d = sendPending { s.dev with host := { s.dev.host with msixEnable := on } } →
        exec (.configRequest (.msixEnable on)) s =
          .next (withDev s { d with host := { d.host with cfgAnswer := some (.value 0) } })) ∧
      (∀ d : Dev, d = sendPending { s.dev with host := { s.dev.host with msixMaskAll := on } } →
        exec (.configRequest (.msixMaskAll on)) s =
          .next (withDev s { d with host := { d.host with cfgAnswer := some (.value 0) } }))) ∧
    (∀ i : Fin 6,
      exec (.configRequest (.bar4Size i)) s = .next (withDev s { s.dev with host := { s.dev.host with
        bar4Index := if s.dev.host.memSpace then s.dev.host.bar4Index else i.val, cfgAnswer := some (.value 0) } })) ∧
    (∀ (g w : Fin 17), 1 ≤ g.val → g.val ≤ 6 → 1 ≤ w.val →
      exec (.pcieRetrain g w) s = .next (withDev s (setAvail
        { s.dev.avail with pcieGen := g.val, pcieWidth := w.val }
        { s.dev with host := { s.dev.host with linkUp := true, lkGen := g.val, lkWidth := w.val } }))) ∧
    exec .d3hotEnter s = .next (withDev s { s.dev with host := { s.dev.host with d3 := true } }) ∧
    exec .d0Return s = .next (withDev s (flushMsi { s.dev with host := { s.dev.host with d3 := false } })))

/-- R10, R338, R343: an aligned write of 8 bytes to a window by the owner host sets it when bits [63:48] are zero; one
of 4 bytes to the mailbox buffer stores its bytes while BUSY is clear; a write at an offset that no block defines
changes nothing. -/
def Obligations.RegisterWritesReachTheirRegister : Prop :=
  ∀ s : State, hostReach s.dev = true → s.dev.boot.ready = true →
    (∀ (i : Nat) (v : BitVec 64), i < 4 → s.dev.own.owner = some .host → v.toNat < 2 ^ 48 →
      exec (.registerWrite (BitVec.ofNat 26 (0x2000 + 8 * i)) .b8 v) s = .next (withMem s
        { s.dev with host := { s.dev.host with windows := s.dev.host.windows.set i v.toNat } })) ∧
    (∀ (i : Nat) (v : BitVec 64), i < 0x404 → s.dev.mbHost.busy = false →
      exec (.registerWrite (BitVec.ofNat 26 (0x10040 + 4 * i)) .b4 v) s = .next (withMem s
        { s.dev with mbHost := { s.dev.mbHost with
          buf := cellsSet (0x40 + 4 * i) (leBytes 4 (v.toNat % 2 ^ 32)) s.dev.mbHost.buf } })) ∧
    (∀ (o : BitVec 26) (v : BitVec 64), 0x88000 ≤ o.toNat →
      exec (.registerWrite o .b4 v) s = .next (withMem s s.dev))

/- Ends of ops. -/

/-- R298, R316, R318, R319: an op with its final status ends, its context not mirrored: it is recorded as ended and the entry
is failed unless the status is OK or OK_PARTIAL. With COMPLETE its op completion is written first, and where the ring has
no room the queue waits for it. -/
def Obligations.OpsEndWithTheirStatus : Prop :=
  ∀ (s : State) (q : QRef) (op : Fin 32768) (e : Entry) (i : OpIssue) (out o : OpOut) (d : Dev),
    (queueOf s.dev q).cur = some e → openIssue e op.val = some i → i.wait = .out out → mirrorCtx s.dev e.ctx = none →
    reported out.detail s.dev = (o.detail, d) → o = { out with detail := o.detail } →
    (recComplete i.record = false →
      exec (.opEnd q op) s = .next (withMem s (pumpQueue q (modIssue q op.val (fun i => { i with wait := .ended o })
        (setEntry q (some { e with failed := e.failed || !(o.status == stOk || o.status == stPartial) }) d))))) ∧
    (recComplete i.record = true → complRoom d q = true →
      exec (.opEnd q op) s = .next (withMem s (pumpQueue q (modIssue q op.val (fun i => { i with wait := .ended o })
        (setEntry q (some { e with failed := e.failed || !(o.status == stOk || o.status == stPartial) })
          (postCompl q e.irq (opCompl d e op.val o) d)))))) ∧
    (recComplete i.record = true → complRoom d q = false →
      exec (.opEnd q op) s = .next (withMem s (pumpQueue q (setQueue q { queueOf d q with cqWait := true } d))))

/- Problems, schedules and results. -/

/-- R51, R60 to R62, R471: a load whose four stages pass, with the expert enable that STOCH_ROUND and SPILL need and no
run, shared or dead gallery in the way, gives the context the problem, places its storage and drops its waiting updates;
the detail word, the report and the op steps are the load's. -/
def Obligations.AProblemIsLoaded : Prop :=
  ∀ (s : State) (q : QRef) (e : Entry) (o : Nat) (r x h : Bytes) (d d0 d1 d2 d3 d4 t l : Dev) (c : Ctx) (f : LoadForm)
    (key : Option Nat × Bool) (v : LoadVals) (w : LoadStored) (fit : FitSoFar) (inits : List (List Bool))
    (env : OpEnv) (rep : LoadRep) (placed : List PBlock) (p : Problem × Nat), env = opEnv q e o →
    OpRuns s q 0x40 e o r x d → descriptor env x 128 d = .ok h d0 →
    (u64 h 0x58 = 0 ∨ checkDest (u64 h 0x58) 64 d0 = .ok () d0) → ctxIs d0 e c → c.run = none →
    (loadForm env (importCount c) h).run d0 = .ok (.ok f) d1 →
    (spanChecks c 0 [] (f.shapes.zip f.descs)).run d1 = .ok (.ok ()) d1 → roundKey env f.hdr d1 = .ok key d2 →
    loadValues env f d2 = .ok v d3 → quantise f v key.1 = .ok w →
    ((hStoch f.hdr || hSpill f.hdr) = true → expertOn d3 exLoad = true) →
    sharedGallery d3 e.ctx (f.shapes.flatMap spanGalleries).eraseDups = none →
    deadGallery d3 (f.shapes.flatMap spanGalleries).eraseDups = none →
    fitBlocks c (hSpill f.hdr) (if hSpill f.hdr then u64 f.hdr 0x50 else 0) (f.edges.map (fun y => y.pair)) f.colours 0 {}
      (f.shapes.zip f.descs) = .ok fit →
    initAll env (f.shapes.zip f.descs) d3 = .ok inits d4 →
    placed = placeStorage c (f.edges.map (fun y => y.pair)) [] (f.shapes.zip f.descs) →
    p = buildProblem f w (importCount c) fit.spilled placed inits →
    l = markStorage placed (u64 f.hdr 0x48) fit.spilled
      (modCtx e.ctx (fun y => { y with problem := some p.1 }) (discardUpdates e.ctx d4)) →
    rep = { w.rep with
      colours := coloursMax f.shapes f.colours, id := u32 f.hdr 4, fixups := p.2, spilled := fit.spilled } →
    ((u64 h 0x58 = 0 ∧ t = l) ∨ (u64 h 0x58 ≠ 0 ∧ wr (u64 h 0x58) (loadReport rep 0xFFFF 0) l = .ok () t)) →
    exec (.loadProblem q) s = .next (opEnds q e o r
      { detail := w.rep.rel + min w.rep.zeros (2 ^ 32 - 1) * 2 ^ 32, seed := key.1.getD 0, spilled := fit.spilled != 0,
        seedDrawn := key.2 } (4 + f.shapes.length) (e.next + 1) t s)

/-- R63 to R68: an update for an explicit epoch without a run is registered and ends OK_PARTIAL; with a run it waits for
its boundary; otherwise its entries apply at once, in list order, and the detail word counts them. -/
def Obligations.CoefficientsAreUpdated : Prop :=
  ∀ (s : State) (q : QRef) (e : Entry) (o sd : Nat) (r x h : Bytes) (d d0 d1 d2 d3 t : Dev) (c : Ctx) (p : Problem)
    (drawn : Bool) (es : List UpdEntry) (env : OpEnv), env = opEnv q e o → OpRuns s q 0x41 e o r x d → ctxIs d e c →
    c.problem = some p → descriptor env x 64 d = .ok h d0 → updHeaderBad (some p.id) h = none →
    (∀ u ∈ c.updates, bit (u16 h 2) 4 = true → u.explicit = true → u.epoch = bits (u64 h 8) 0 48 → u.seq ≠ u32 h 0x10) →
    (if bit (u16 h 2) 4 = true ∧ c.run = none then d1 = d0 else readEntries env h d0 = .ok es d1) →
    (updStoch h = true → expertOn d1 exLoad = true) → (u64 h 0x20 = 0 ∨ checkDest (u64 h 0x20) 32 d1 = .ok () d1) →
    (if updStoch h then seedOf env (u64 h 0x28) else pure (0, false)) d1 = .ok (sd, drawn) d2 →
    ∀ u : Option (QRef × Nat) → Update, u = (fun op =>
      { header := h, explicit := bit (u16 h 2) 4, epoch := bits (u64 h 8) 0 48, seq := u32 h 0x10, order := c.updateOrder,
        late := false, seed := sd, drawn := drawn, op := op }) →
    (bit (u16 h 2) 4 = true → c.run = none →
      exec (.updateCoeffs q) s = .next (opEnds q e o r
        { status := stPartial, detail := 0, seed := sd, seedDrawn := drawn } 1 (e.next + 1)
        (modCtx e.ctx (fun y => { y with updates := y.updates ++ [u none], updateOrder := y.updateOrder + 1 }) d2) s)) ∧
    (c.run ≠ none →
      exec (.updateCoeffs q) s = .next (opWaits q e o r .update 0 (modCtx e.ctx (fun y =>
        { y with updates := y.updates ++ [u (some (q, e.next))], updateOrder := y.updateOrder + 1 }) d2) s)) ∧
    (∀ (k : UpdCount) (p' : Problem), bit (u16 h 2) 4 = false → c.run = none → readEntries env h d2 = .ok es d3 →
      (ctxOf d3 e.ctx).bind (fun y => y.problem) = some p →
      applyEntries p (updAdd h) (updFmt h) (if updStoch h then some sd else none) es = (p', k) →
      ((u64 h 0x20 = 0 ∧ t = modCtx e.ctx (fun y => { y with problem := some p' }) d3) ∨
       (u64 h 0x20 ≠ 0 ∧ wr (u64 h 0x20) (updateReport k.applied k.missing k.saturated k.refused noEpoch false false false
          false) (modCtx e.ctx (fun y => { y with problem := some p' }) d3) = .ok () t)) →
      exec (.updateCoeffs q) s = .next (opEnds q e o r { detail := updDetail k, seed := sd, seedDrawn := drawn }
        (k.applied / 4096 + 1) (e.next + 1) t s))

/-- R101, R102: SET_SCHEDULE keeps a valid schedule under its identifier where the pages suffice and no run uses it.
R203 to R205: BOUNDARY_LOAD gives the context its map, and its problem an import value for each import. -/
def Obligations.SchedulesAndMapsAreKept : Prop :=
  (∀ (s : State) (q : QRef) (e : Entry) (o : Nat) (r x h raw : Bytes) (d d0 d1 : Dev) (c : Ctx),
    OpRuns s q 0x42 e o r x d → ctxIs d e c → descriptor (opEnv q e o) x 64 d = .ok h d0 → setScheduleBad h = none →
    rd (opEnv q e o) (u64 h 8) (16 * u16 h 4) d0 = .ok raw d1 →
    (∀ b ∈ chunks 16 (u16 h 4) raw, schedEntryOk b = true) → (∀ g, c.run = some g → g.desc.schedule ≠ u8 h 2) →
    schedulePages (u16 h 4) ≤ scheduleStorePages - pagesHeld d1 e.ctx (u8 h 2) →
    exec (.setSchedule q) s = .next (opOk q e o r anyDetail (modCtx e.ctx (fun y =>
      { y with schedules := tabSet (u8 h 2) ((chunks 16 (u16 h 4) raw).map entryOf) y.schedules }) d1) s)) ∧
  (∀ (s : State) (q : QRef) (e : Entry) (o : Nat) (r x h raw list : Bytes) (d d0 d1 d2 : Dev) (c : Ctx) (env : OpEnv)
    (b : Boundary), env = opEnv q e o → OpRuns s q 0x47 e o r x d → ctxIs d e c → descriptor env x 128 d = .ok h d0 →
    mapHeaderOk d0.mem h = true →
    (if u8 h 0xA = 0 then pure [] else rd env (u64 h 0x10) (32 * u8 h 0xA)) d0 = .ok raw d1 →
    (∀ y ∈ chunks 32 (u8 h 0xA) raw, peerFormOk y = true) →
    mapPartBad (mapOf h ((chunks 32 (u8 h 0xA) raw).map peerOf) []) = none →
    mapImportBad (mapOf h ((chunks 32 (u8 h 0xA) raw).map peerOf) []) = none → importsFit c (u32 h 0xC) = true →
    mapExportBad (mapOf h ((chunks 32 (u8 h 0xA) raw).map peerOf) []) (u32 h 0x20) = none →
    (if u32 h 0x20 = 0 then pure [] else rd env (u64 h 0x18) (4 * u32 h 0x20)) d1 = .ok list d2 →
    b = mapOf h ((chunks 32 (u8 h 0xA) raw).map peerOf) (u32sOf (u32 h 0x20) list) →
    (∀ p, c.problem = some p → exportBad (spinCount p.blocks) b = none) → workNeed b 0 ≤ b.workBytes →
    (b.ring % 64 == 0 && isPow2 b.ringEntries && inRange b.ringEntries 16 65536 && b.countAddr % 8 == 0) = true →
    addrForm b.workAddr = true → addrForm b.ring = true → addrForm b.countAddr = true → addrForm b.bestAddr = true →
    addrForm b.endAddr = true → c.run = none →
    exec (.boundaryLoad q) s = .next (opEnds q e o r {} 6 (e.next + 1) (modCtx e.ctx (fun y =>
      { y with boundary := some b, problem := y.problem.map (withImports b.imports) }) d2) s))

/-- R117, R118: READ_STATE of a context without a run writes the image of its blocks, and with one waits for the end of
the epoch. R116: READ_TRACE copies the entries still present in the ring that its command names. -/
def Obligations.StatesAndTracesAreRead : Prop :=
  (∀ (s : State) (q : QRef) (e : Entry) (o : Nat) (r x h : Bytes) (d d0 d1 : Dev) (c : Ctx) (p : Problem),
    OpRuns s q 0x45 e o r x d → ctxIs d e c → c.problem = some p → descriptor (opEnv q e o) x 64 d = .ok h d0 →
    readStateBad p h = none →
    (∀ n : Nat, c.run = none → n = imageBytes p (readForm h) (u16 h 4) (u16 h 6) → n ≤ u64 h 0x18 →
      checkDest (u64 h 0x10) n d0 = .ok () d0 →
      wr (u64 h 0x10) (stateImage p (readForm h) (u16 h 4) (u16 h 6)) d0 = .ok () d1 →
      exec (.readState q) s = .next (opEnds q e o r { detail := n } (u16 h 6) (e.next + 1) d1 s)) ∧
    (c.run ≠ none →
      exec (.readState q) s = .next (opWaits q e o r .snapshot 0 (modCtx e.ctx (fun y =>
        { y with snapshots := y.snapshots ++ [{ q := q, idx := e.next, desc := h }] }) d0) s))) ∧
  (∀ (s : State) (q : QRef) (e : Entry) (o w lo hi : Nat) (r x : Bytes) (ring entries first count dest : BitVec 64)
    (d d0 d1 t : Dev) (c : Ctx) (bs : List Bytes), OpRuns s q 0x46 e o r x d → ctxIs d e c →
    ring.toNat % 64 = 0 → isHost ring.toNat = false → 64 ≤ entries.toNat → entries.toNat ≤ 16777216 →
    isPow2 entries.toNat = true →
    w = ((c.traceRings.find? (fun k => k.1 == ring.toNat && k.2.1 == entries.toNat)).map (fun k => k.2.2)).getD 0 →
    lo = max first.toNat (w - entries.toNat) → hi = min (first.toNat + count.toNat) w →
    checkDest dest.toNat (32 * (hi - lo)) d = .ok () d →
    (List.range (hi - lo)).mapM (fun i => devRead (ring.toNat + 32 * ((lo + i) % entries.toNat)) 32) d = .ok bs d0 →
    wr dest.toNat (bs.flatMap id) d0 = .ok () d1 →
    t = endOp q e.next (opSteps q (transferSteps (32 * (hi - lo))) (addIssue q (opIssue e o r
      (.out { status := if hi - lo < count.toNat then stPartial else stOk
              detail := low 48 (if hi - lo = 0 then first.toNat else lo) + min (hi - lo) 65535 * 2 ^ 48 })) (e.next + 1)
      { d1 with actor := none })) →
    exec (.readTrace q ring entries first count dest) s =
      .next (withMem s (keepTraceAreas q dest.toNat count.toNat ring.toNat entries.toNat s.dev t)))

/- Runs. -/

/-- R107, R192, R206, R188: ANNEAL and STAND with a descriptor that passes its checks, and FLIGHT_RUN of a built flight,
set up their run with the seed the descriptor gives or the entropy source drew; its first stages follow at once. -/
def Obligations.RunsStart : Prop :=
  ∀ (s : State) (q : QRef) (e : Entry) (o sd : Nat) (r x h : Bytes) (d d0 d1 d2 : Dev) (drawn : Bool) (env : OpEnv)
    (plan : RunPlan), env = opEnv q e o →
    (∀ stand : Bool, OpRuns s q (if stand then 0x44 else 0x43) e o r x d → descriptor env x 128 d = .ok h d0 →
      runChecks env stand false (fun _ => pure ()) h d0 = .ok plan d1 → seedOf env (u64 h 8) d1 = .ok (sd, drawn) d2 →
      exec (if stand then .stand q else .anneal q) s = .next (withMem s (afterIssue (resumeRun e.ctx) s.dev
        (opStarted q e o r .run 0 (setupRun env none (runDescOf stand h sd drawn) plan d2))))) ∧
    (∀ (c : Ctx) (y : Flight) (f : Nat) (fr : FlightRun), OpRuns s q 0x81 e o r x d → descriptor env x 64 d = .ok h d0 →
      ctxIs d0 e c → flightRunBad h = none → f = bits (u16 h 2) 0 2 → flightOf c f = some y → y.run = none →
      ((frKind h == 0) = y.steps.all (fun z => z.kind != fkAnneal)) →
      checkStillFits c y d0 = .ok () d0 →
      (u64 h 0x10 = 0 ∨ checkDest (u64 h 0x10) (128 + 16 * y.steps.length) d0 = .ok () d0) →
      fr = { q := q, idx := e.next, kind := frKind h, frameLimit := u32 h 4, counters := u64 h 0x10 } →
      (frKind h = 0 → placeNulls y d0 = .ok () d1 →
        exec (.flightRun q) s = .next (withMem s (afterIssue (flightGoes e.ctx) s.dev
          (opStarted q e o r (.flight f) 0 (modFlight e.ctx f (startFlight fr) d1))))) ∧
      (∀ (rh : Bytes) (d3 d4 : Dev), frKind h ≠ 0 → rd env (u64 h 8) 128 d0 = .ok rh d1 →
        runChecks env (frKind h == 2) (y.streams.any (fun z => z.kind == skDelta)) (clusterRoom y (u16 rh 0x10)) rh d1 =
          .ok plan d2 →
        seedOf env (u64 rh 8) d2 = .ok (sd, drawn) d3 → placeNulls y d3 = .ok () d4 →
        exec (.flightRun q) s = .next (withMem s (afterIssue (flightGoes e.ctx) s.dev
          (opStarted q e o r (.flight f) 0 (setupRun env (some f)
            (runDescOf (frKind h == 2) rh sd drawn) plan (modFlight e.ctx f (startFlight fr) d4)))))))

/-- R76, R77, R80 to R82, R87: a gallery of a run's problem that has not started the phase starts it, and its sparse spins
of the phase decide; a quiet replica of a dense block decides its next group, its next window of eligible spins, or has none
left, while the flip out-queues of the treads concerned have room; in a tournament the round's winner flips. -/
def Obligations.PhasesAndRoundsDecide : Prop :=
  ∀ (s : State) (c : CtxId) (g : Run) (p : Problem), runOf s.dev c.val = some (g, p) →
    (∀ (h : Hall) (k : Gallery), (h.val, k.val) ∈ problemGalleries p → galleryWaits s.dev p h.val k.val = false →
      (maySweep g = true → epochHeld s.dev c.val g = false →
        exec (.phaseStart c h k) s = .next (withDev s (setRunProblem c.val
          (sparseGallery h.val k.val { (startSweep g p).1 with started := [(h.val, k.val)] } (startSweep g p).2).1
          (sparseGallery h.val k.val { (startSweep g p).1 with started := [(h.val, k.val)] } (startSweep g p).2).2
          s.dev))) ∧
      (g.inSweep = true → (h.val, k.val) ∉ g.started →
        exec (.phaseStart c h k) s = .next (withDev s (setRunProblem c.val
          (sparseGallery h.val k.val { g with started := g.started ++ [(h.val, k.val)] } p).1
          (sparseGallery h.val k.val { g with started := g.started ++ [(h.val, k.val)] } p).2 s.dev))) ∧
      (phaseDone g p = true → g.phase + 1 < sweepPhases g p →
        exec (.phaseStart c h k) s = .next (withDev s (setRunProblem c.val
          (sparseGallery h.val k.val { g with phase := g.phase + 1, started := [(h.val, k.val)] } p).1
          (sparseGallery h.val k.val { g with phase := g.phase + 1, started := [(h.val, k.val)] } p).2 s.dev)))) ∧
    (∀ (b : Fin 2560) (i : Fin 64) (x : PBlock), p.blocks[b.val]? = some x → x.dense = true → denseInPhase g p x = true →
      i.val < x.reps.length → repQuiet g b.val i.val = true → spanWaits s.dev x = false →
      ((runEntry g).tournament = false →
        (∀ k gr, nextGroup p x (repAt x i.val).pos = some (k, gr) → roomFor g p x gr 2 = true →
          exec (.scanRound c b i) s = .next (withDev s (setRunProblem c.val
            (scanGroup g p x b.val i.val k gr).1 (scanGroup g p x b.val i.val k gr).2 s.dev))) ∧
        (nextGroup p x (repAt x i.val).pos = none → windowFrom p x (repAt x i.val).pos ≠ [] →
          roomFor g p x (windowFrom p x (repAt x i.val).pos) 1 = true →
          exec (.scanRound c b i) s = .next (withDev s (setRunProblem c.val
            (scanWindow g p x b.val i.val (windowFrom p x (repAt x i.val).pos)).1
            (scanWindow g p x b.val i.val (windowFrom p x (repAt x i.val).pos)).2 s.dev))) ∧
        (nextGroup p x (repAt x i.val).pos = none → windowFrom p x (repAt x i.val).pos = [] →
          exec (.scanRound c b i) s = .next (withDev s (setRunProblem c.val g
            (modRep b.val i.val (fun y => { y with pos := x.n }) p) s.dev)))) ∧
      (∀ (keys : List (Nat × Option Int)) (p1 : Problem), (runEntry g).tournament = true → (repAt x i.val).rounds < x.n →
        roomFor g p x (List.range x.n) 1 = true →
        keys = (List.range x.n).map (fun k => (k, tourKey g b.val i.val (repAt x i.val).rounds k
          (flipDelta ((repAt x i.val).spins.getD k false) (intAt (repAt x i.val).fields k)))) →
        p1 = modRep b.val i.val (fun y => { y with rounds := y.rounds + 1 })
          (countMoves b.val i.val 1 (if (bestKey keys).isSome then 1 else 0) 0 p) →
        (∀ (k : Nat) (v : Int), bestKey keys = some (k, v) →
          exec (.tournamentRound c b i) s = .next (withDev s (setRunProblem c.val
            (takeMove [newFlip g p x b.val i.val k (!(repAt x i.val).spins.getD k false) 0] g p1).1
            (setSpin b.val i.val k (!(repAt x i.val).spins.getD k false) p1) s.dev))) ∧
        (bestKey keys = none →
          exec (.tournamentRound c b i) s = .next (withDev s (setRunProblem c.val g p1 s.dev)))))

/-- R93 to R95: in the last phase, with the phase done and the block's turn come, its next cluster record is read and
decided. R86, R87: a bus cycle grants up to 16 ports in turn, what they send leaves the hall's list in slots of Table 3.5,
and fields follow. R99: a sweep with nothing left to decide carries its last flips and ends; a run told to stop ends with
it. R116: a staged trace entry is written. R194, R197: space in a ring or a pace release lets a run go on. -/
def Obligations.SweepsGoOn : Prop :=
  (∀ (s : State) (c : CtxId) (b : Fin 2560) (g : Run) (p : Problem) (x : PBlock) (f : Nat) (y : FStream) (r : Bytes)
    (d : Dev), runOf s.dev c.val = some (g, p) → p.blocks[b.val]? = some x → clusterStream s.dev c.val b.val = some (f, y) →
    g.phase + 1 = sweepPhases g p → phaseDone g p = true → (clustersDone g b.val).1 < clusterQuota s.dev c.val g b.val →
    clusterTurn s.dev c.val g p b.val = true → epochOf g < y.arrived → spanWaits s.dev x = false →
    devRead (slotAddr y (epochOf g) + (clustersDone g b.val).2 * clusterStride y) (clusterStride y) s.dev = .ok r d →
    exec (.clusterDecision c b) s =
      .next (withDev s (decideCluster c.val b.val (clustersDone g b.val).1 y.stamp r g p x d))) ∧
  (∀ (s : State) (h : Hall) (l : List BusFlip) (out : List (List BusFlip)) (order : List Nat) (d t : Dev),
    l = busFlips s.dev h.val → l ≠ [] → busStands s.dev h.val = false →
    order = portOrder (s.dev.flipTurn.getD h.val 643) (l.map (fun b => b.port)).eraseDups →
    out = (order.take 16).map (fun p => sends (l.filter (fun b => b.port == p))) →
    d = ((out.flatten.map (fun b => b.ctx)).eraseDups).foldl (fun d c => afterCycle c d)
      (out.flatten.foldl (fun d b => carryFlip h.val b d) s.dev) →
    t = modHallCounters h.val (fun k =>
      { k with flipSlots := satAdd 64 k.flipSlots (order.take 16).length
               flipWait := satAdd 64 k.flipWait (ofBool (decide (16 < order.length))) }) d →
    exec (.flipSlotGrant h) s = .next (withDev s { t with
      flipTurn := setAt h.val ((order.take 16).getLast?.getD 643) t.flipTurn
      busSlots := setAt h.val (out.map slotOf) t.busSlots })) ∧
  (∀ (s : State) (c : CtxId) (g0 g g' k : Run) (p0 p p' : Problem) (d d1 : Dev) (x : Ctx),
    runOf s.dev c.val = some (g0, p0) → sweepDue s.dev c.val g0 p0 = true → d = carryLast c.val (cyclesDue s.dev) s.dev →
    runOf d c.val = some (g, p) → sweepDue d c.val g p = true → g.flips = [] → sweepActions g p = (g', p') →
    k = (if g'.sweep % g'.desc.epochSweeps = 0 ∨ scheduleOver g' = true then
      { g' with clusters := g'.clusters.map (fun z => (z.1, 0, 0)) } else g') →
    d1 = readStorage c.val p' (opSteps k.q 1 (setRunProblem c.val k p' d)) → ctxOf d1 c.val = some x →
    (x.run.bind (fun g => g.stop) = none → ¬(g'.sweep % g'.desc.epochSweeps = 0 ∨ scheduleOver g' = true) →
      exec (.sweepEnd c) s = .next (withMem s (resumeRun c.val (advance c.val [.staged] d1)))) ∧
    (x.run.bind (fun g => g.stop) = none → (g'.sweep % g'.desc.epochSweeps = 0 ∨ scheduleOver g' = true) →
      exec (.sweepEnd c) s = .next (withMem s (resumeRun c.val (advance c.val (epochStages x k)
        (freeRecords c.val k d1))))) ∧
    (x.run.bind (fun g => g.stop) ≠ none →
      exec (.sweepEnd c) s = .next (withMem s (resumeRun c.val (resumeRun c.val d1))))) ∧
  (∀ (s : State) (c : CtxId) (x : Ctx) (g : Run) (i : TraceItem) (l : List TraceItem) (d : Dev),
    ctxOf s.dev c.val = some x → x.run = some g → g.staging = i :: l → i.entry = true →
    wr i.addr i.data { s.dev with actor := some c.val } = .ok () d →
    exec (.traceStagingDrain c) s = .next (withMem s (resumeRun c.val (drainStaging c.val g l
      (modCtx c.val (fun x => { x with traceRings := countEntry g i.addr x.traceRings }) { d with actor := none }))))) ∧
  (∀ (s : State) (ch : Fin 64) (c : Nat) (k k' : Decision) (d : Dev), s.dev.heldOut = [(c, k)] → k.channel = ch.val →
    writeHeld k { s.dev with actor := some c } = .ok k' d → k'.held = none → d.heldOut = [(c, k)] →
    (∀ y ∈ d.ctxs, y.2.run = none) →
    exec (.decisionRingSpace ch) s = .next (withMem s { d with actor := none, heldOut := [] })) ∧
  (∀ (s : State) (c : CtxId), exec (.paceRelease c) s = .next (withMem s (resumeRun c.val s.dev)))

/- Tensor ops and tiles. -/

/-- R130, R140 to R143, R151, R153, R156, R158: MATMUL and BATCHED_MATMUL over a descriptor that passes its checks, with
their treads free and their granules not held by earlier ops, sum their tiles, new ones with BEGIN and OPEN ones without;
with END the op waits for its tiles to reach memory, and otherwise it ends. R164: DRAIN asks for the end of its OPEN tiles,
or with DISCARD removes them. -/
def Obligations.TilesAreSummedAndDrained : Prop :=
  (∀ (s : State) (q : QRef) (e : Entry) (o : Nat) (r x h out : Bytes) (d d0 d1 d2 d3 : Dev) (c : Ctx) (env : OpEnv)
    (m : MatmulReq) (u : TileUser) (plan : TilePlan) (its : List (List Tile)) (batched : Bool), env = opEnv q e o →
    u = .op q e.next → OpRuns s q (if batched then 0x61 else 0x60) e o r x d →
    descriptor env x (if batched then 192 else 128) d = .ok h d0 →
    matmulPre batched env h (outRecord env (u64 h 0x50)) d0 = .ok (c, m, out) d1 → plan = tilePlan d1 e.ctx c u →
    (m.start = true ∨ ∀ k ∈ gridPlaces m.grid, (openTile plan.ctx m.grid m.fmt k).isSome = true) →
    treadsGo m.grid.hall (((gridPlaces m.grid).map (fun k => k.tread)).eraseDups) d1 = .ok () d1 →
    granulesHeld d1 e.ctx plan c ((gridPlaces m.grid).map (fun k =>
      ⟨m.grid.hall, k.tread, k.pos * tileGranules m.grid.h m.grid.w m.fmt, tileGranules m.grid.h m.grid.w m.fmt⟩)) = false →
    (List.range m.grid.batch).mapM (itemTiles env c m u out) d1 = .ok its d2 →
    stageFetch m.grid.hall (u32 h 0x48) (farTreads m) d2 = .ok () d3 →
    exec (if batched then .batchedMatmul q else .matmul q) s = .next
      (if m.ends then
        opWaits q e o r .tiles (gridTiles m.grid * ceilDiv m.k 1024) (tilesSummed e.ctx m u (its.flatMap id) d3) s
       else opEnds q e o r { detail := 0, longRed := (its.flatMap id).any tileLong } (gridTiles m.grid * ceilDiv m.k 1024)
        (e.next + 1) (tilesSummed e.ctx m u (its.flatMap id) d3) s)) ∧
  (∀ (s : State) (q : QRef) (e : Entry) (o : Nat) (r x h out : Bytes) (d d0 d1 : Dev) (c : Ctx) (env : OpEnv) (g : Grid)
    (u : TileUser) (plan : TilePlan) (ts : List (GridTile × Tile)), env = opEnv q e o → u = .op q e.next →
    OpRuns s q 0x67 e o r x d → descriptor env x 64 d = .ok h d0 → g = drainGrid h →
    drainPre env h (outRecord env (u64 h 0x18)) d0 = .ok (c, out) d1 → plan = tilePlan d1 e.ctx c u →
    (∀ k ∈ gridPlaces g, (drainTile plan.ctx g k).isSome = true) →
    treadsGo g.hall (((gridPlaces g).map (fun k => k.tread)).eraseDups) d1 = .ok () d1 →
    granulesHeld d1 e.ctx plan c ((gridPlaces g).filterMap (fun k => (drainTile plan.ctx g k).map granulesOf)) = false →
    ts = (gridPlaces g).filterMap (fun k => (drainTile c g k).map (fun t => (k, t))) →
    exec (.drain q) s = .next
      (if bit (u8 h 2) 0 then
        opEnds q e o r { detail := 0 } (gridTiles g) (e.next + 1)
          (modCtx e.ctx (fun y => { y with tiles := y.tiles.filter (fun t => !ts.any (fun z => z.2 == t)) }) d1) s
       else opWaits q e o r .tiles 0 (takeTreads e.ctx g.hall ((gridPlaces g).map (fun k => k.tread))
          (modCtx e.ctx (drainAsk u g out (u64 h 0x20) ts) d1)) s))

/-- R140, R144, R145, R330: REDUCE, ELEMENTWISE and CONVERT write their encoded results; GATHER and SCATTER make their moves
in order, and end OK_PARTIAL with the number of indices out of range where there are any. What lies elsewhere passes through
the staging areas of the treads. -/
def Obligations.VectorOpsWriteTheirResults : Prop :=
  ∀ (s : State) (q : QRef) (e : Entry) (o : Nat) (r x h : Bytes) (d d0 d1 d2 d3 d4 : Dev) (env : OpEnv) (treads : List Nat),
    env = opEnv q e o → descriptor env x 64 d = .ok h d0 →
    (∀ (l : List (List NumVal)) (res : List NumVal), OpRuns s q 0x63 e o r x d → reducePre env h d0 = .ok () d1 →
      treads = itemTreads (u16 h 6) (u16 h 8) (reduceOuts h) → treadsGo (u8 h 5) treads d1 = .ok () d1 →
      readRows env (reduceIn h) (u32 h 0x10) 0 (u32 h 0xC) d1 = .ok l d2 →
      stageFetch (u8 h 5) (u32 h 0x28) (treads.filter (fun t => reduceFar h t)) d2 = .ok () d3 →
      res = (if bit (u8 h 2) 3 then l else (List.range (u32 h 0x10)).map (column l)).map
        (reduceNum (bits (u8 h 2) 0 3)) →
      writeCodes (u64 h 0x20) (bits (u8 h 4) 4 4) (res.map (encodeNum (bits (u8 h 4) 4 4) false)) d3 = .ok () d4 →
      exec (.reduce q) s = .next (opEnds q e o r
        { detail := (countAll res).detail
          longRed := decide (bits (u8 h 2) 0 3 ≤ 1) && !fmtIsInt (bits (u8 h 4) 0 4) &&
            decide (65536 < (if bit (u8 h 2) 3 then u32 h 0x10 else u32 h 0xC)) }
        (transferSteps (packedBytes (bits (u8 h 4) 4 4) (reduceOuts h))) (e.next + 1) d4 s)) ∧
    (∀ (as bs : Bytes) (res : List NumVal) (d5 : Dev), OpRuns s q 0x62 e o r x d → elementwisePre env h d0 = .ok () d1 →
      treads = itemTreads (u16 h 8) (u16 h 0xA) (u32 h 0xC) → treadsGo (u8 h 6) treads d1 = .ok () d1 →
      rd env (u64 h 0x10) (u32 h 0xC * elemSize (bits (u8 h 4) 0 4)) d1 = .ok as d2 →
      (if eUsesB h then
        rd env (u64 h 0x18) ((if eScalar h then 1 else u32 h 0xC) * elemSize (bits (u8 h 4) 4 4))
       else pure []) d2 = .ok bs d3 →
      stageFetch (u8 h 6) (u32 h 0x30) (treads.filter (elementFar h)) d3 = .ok () d4 →
      res = (List.range (u32 h 0xC)).map (fun i =>
        let a := elemAt (bits (u8 h 4) 0 4) as i
        let b := if eUsesB h then elemAt (bits (u8 h 4) 4 4) bs (if eScalar h then 0 else i) else .i 0
        if eInteger h then intElem (eOp h) a b
        else .f (floatElem (eOp h) (u8 h 7) (f32Of (u32 h 0x28)) (f32Of (u32 h 0x2C)) (toF32 a) (toF32 b))) →
      writeCodes (u64 h 0x20) (bits (u8 h 5) 0 4) (res.map (encodeNum (bits (u8 h 5) 0 4) false)) d4 = .ok () d5 →
      exec (.elementwise q) s = .next (opEnds q e o r { detail := (countAll res).detail }
        (transferSteps (packedBytes (bits (u8 h 5) 0 4) (u32 h 0xC))) (e.next + 1) d5 s)) ∧
    (∀ (bs : Bytes) (l : List NumVal), OpRuns s q 0x66 e o r x d → movePre .convert env h d0 = .ok () d1 →
      treads = (List.range (u16 h 8)).map (fun j => u16 h 6 + j) → treadsGo (u8 h 4) treads d1 = .ok () d1 →
      (if isHost (u64 h 0x18) then
        (fun d => match hostRead env (u64 h 0x18) (packedBytes (bits (u8 h 2) 0 4) (u32 h 0xC)) d with
          | .ok b d => .ok (b, none) d
          | .error e d => .error e d)
       else readPart (u64 h 0x18) (packedBytes (bits (u8 h 2) 0 4) (u32 h 0xC))) d1 = .ok (bs, none) d2 →
      moveStage .convert h d2 = .ok () d3 →
      l = (List.range (u32 h 0xC)).map (elemAt (bits (u8 h 2) 0 4) bs) →
      writeCodes (u64 h 0x20) (bits (u8 h 2) 4 4) (l.map (encodeNum (bits (u8 h 2) 4 4) (bit (u8 h 3) 0))) d3 =
        .ok () d4 →
      exec (.convert q) s = .next (opEnds q e o r { detail := (countAll l).detail }
        (transferSteps (packedBytes (bits (u8 h 2) 4 4) (u32 h 0xC))) (e.next + 1) d4 s)) ∧
    (∀ (scatter : Bool) (op : MoveOp) (ib : Bytes) (idx : List Nat) (bad : Nat) (d5 : Dev),
      op = (if scatter then .scatter else .gather) → OpRuns s q (if scatter then 0x65 else 0x64) e o r x d →
      movePre op env h d0 = .ok () d1 → treads = (List.range (u16 h 8)).map (fun j => u16 h 6 + j) →
      treadsGo (u8 h 4) treads d1 = .ok () d1 → rd env (u64 h 0x28) (4 * u32 h 0xC) d1 = .ok ib d2 →
      idx = (List.range (u32 h 0xC)).map (fun i => u32 ib (4 * i)) →
      (moveList op h idx).forM (moveCheck (u32 h 0x10)) d2 = .ok () d3 → moveStage op h d3 = .ok () d4 →
      (moveList op h idx).forM (moveDo env (u32 h 0x10)) d4 = .ok () d5 →
      bad = (idx.filter (fun i => decide (u32 h 0x14 ≤ i))).length →
      exec (if scatter then .scatter q else .gather q) s = .next (opEnds q e o r
        (if bad = 0 then { detail := 0 } else { status := stPartial, detail := min bad 0xFFFFFFFF })
        (transferSteps (u32 h 0xC * u32 h 0x10)) (e.next + 1) d5 s))

/-- R154, R155, R165, R166: an END request of a tile whose landing copies are free swaps it, and otherwise makes it wait for
its swap; a drain that ends writes the tile out and frees it, and the next drain starts where no context switch waits; a
switch to a context is made at once on a tread with no op in progress, and otherwise waits; the tiles that leave go to the
save area. -/
def Obligations.TilesSwapDrainAndSwitch : Prop :=
  (∀ (s : State) (c : CtxId) (h : Hall) (t : HTread) (k : Fin 32) (x : Ctx) (y : Tile), ctxOf s.dev c.val = some x →
    onTread s.dev c.val h.val t.val = true →
    (tileAt x h.val t.val k.val .opened = some y → y.endReq.isSome = true →
      exec (.endRequest c h t k) s = .next (withDev s (trySwitch h.val t.val (drainNext c.val h.val t.val
        (modCtx c.val (fun z =>
          if landingFree z h.val t.val k.val (tileSize y) then swapTile y z
          else { z with tiles := z.tiles.map (fun w => if w == y then { w with state := .swapPending } else w) })
          s.dev))))) ∧
    (tileAt x h.val t.val k.val .swapPending = some y → landingFree x h.val t.val k.val (tileSize y) = true →
      exec (.tileSwap c h t k) s =
        .next (withDev s (drainNext c.val h.val t.val (modCtx c.val (swapTile y) s.dev))))) ∧
  (∀ (s : State) (c : CtxId) (h : Hall) (t : HTread) (x : Ctx) (y : Tile) (o : TileOut) (u : TileUser) (d d1 : Dev)
    (env : OpEnv), ctxOf s.dev c.val = some x →
    x.tiles.find? (fun k => k.state == .draining && k.hall == h.val && k.tread == t.val) = some y →
    onTread s.dev c.val h.val t.val = true → y.endReq = some o → y.user = some u →
    env = { q := .kernel 0, idx := 0, off := 0, ctx := c.val, drawn := none, hostOk := true } →
    drainTileOut env y o { s.dev with actor := some c.val } = .ok () d →
    d1 = trySwitch h.val t.val (drainNext c.val h.val t.val (modCtx c.val (fun z =>
      { addCount (some u) (tileCount y o) z with
        tiles := (addCount (some u) (tileCount y o) z).tiles.filter (fun w => w != y) }) (tileStep (some u) d))) →
    exec (.tileDrainEnd c h t) s = .next (withMem s (settleTiles c.val u { d1 with actor := none }))) ∧
  (∀ (s : State) (h : Hall) (t : HTread) (c : CtxId) (x : Ctx) (d : Dev), ctxOf s.dev c.val = some x →
    usesGallery x h.val (t.val / 32) = true → onTread s.dev c.val h.val t.val = false →
    d = { s.dev with switches := tabSet (640 * h.val + t.val) c.val s.dev.switches } →
    (tabGet? (640 * h.val + t.val) s.dev.treadCtx = none →
      exec (.contextSwitch h t c) s = .next (withDev s (arrive c.val h.val t.val d))) ∧
    (∀ (k : Nat) (y : Ctx), tabGet? (640 * h.val + t.val) s.dev.treadCtx = some k → ctxOf s.dev k = some y →
      (treadBusy y h.val t.val = true → exec (.contextSwitch h t c) s = .next (withDev s d)) ∧
      (treadBusy y h.val t.val = false →
        ((y.tiles.all (fun z => !(z.hall == h.val && z.tread == t.val)) || y.saveBytes == 0) = true →
          exec (.contextSwitch h t c) s = .next (withDev s (arrive c.val h.val t.val d))) ∧
        ((∃ z ∈ y.tiles, z.hall = h.val ∧ z.tread = t.val) → y.saveBytes ≠ 0 →
          exec (.contextSwitch h t c) s =
            .next (withDev s (arrive c.val h.val t.val (freshMark (.span y.saveBase y.saveBytes) d)))))))

/- Flights. -/

/-- R171 to R175, R190: FLIGHT_BUILD of a descriptor whose steps, streams, bodies, problem, galleries, buffers and pages pass
their checks gives the context the flight under its number; FLIGHT_TEAR of a flight without a run removes it. -/
def Obligations.FlightsAreBuiltAndTorn : Prop :=
  (∀ (s : State) (q : QRef) (e : Entry) (o pages : Nat) (r x h raw traw : Bytes) (d d0 d1 d2 d3 d4 d5 d6 : Dev) (c : Ctx)
    (env : OpEnv) (steps0 steps : List FStep) (streams : List FStream), env = opEnv q e o →
    OpRuns s q 0x80 e o r x d → descriptor env x 64 d = .ok h d0 → ctxIs d0 e c → flightHeaderBad h = none →
    rd env (u64 h 0x10) (64 * u8 h 4) d0 = .ok raw d1 →
    readSteps env c 0 (chunks 64 (u8 h 4) raw) [] d1 = .ok steps0 d2 →
    rd env (u64 h 0x18) (64 * u8 h 5) d2 = .ok traw d3 →
    readStreams env c steps0 0 (chunks 64 (u8 h 5) traw) [] d3 = .ok streams d4 →
    (∀ y ∈ steps0.zipIdx, stepCountsOk streams y.1 y.2 = true) →
    readBodies env streams 0 (steps0.zip (chunks 64 (u8 h 4) raw)) d4 = .ok steps d5 →
    checkProblem c (u32 h 8) steps streams d5 = .ok () d5 → flightOf c (bits (u16 h 2) 0 2) = none →
    checkExclusive env steps d5 = .ok () d5 → checkBuffers c [] streams d5 = .ok () d6 →
    pages = ceilDiv (flightBytes steps streams) 4096 → pages ≤ storePages - pagesUsed d6 →
    exec (.flightBuild q) s = .next (opOk q e o r anyDetail (modCtx e.ctx (fun y =>
      { y with
        flights := tabSet (bits (u16 h 2) 0 2)
          { problemId := u32 h 8, pages := pages, steps := steps, streams := streams } y.flights }) d6) s)) ∧
  (∀ (s : State) (q : QRef) (e : Entry) (o : Nat) (r x h : Bytes) (d d0 : Dev) (c : Ctx) (y : Flight),
    OpRuns s q 0x82 e o r x d → descriptor (opEnv q e o) x 64 d = .ok h d0 → ctxIs d0 e c → u16 h 0 = 3 →
    flightOf c (bits (u16 h 2) 0 2) = some y → y.run = none →
    exec (.flightTear q) s = .next (opOk q e o r anyDetail (modCtx e.ctx (fun z =>
      { z with flights := tabDel (bits (u16 h 2) 0 2) z.flights }) d0) s))

/-- R25, R176 to R178: a COMPUTE step with its inputs and credits, none of its treads held, fires and takes the credits; a
body op that may issue runs over its bound descriptor; a firing whose body is done frees its inputs, completes its outputs
and is counted. -/
def Obligations.StepsFireAndEnd : Prop :=
  ∀ (s : State) (c : CtxId) (f : Fin 4) (i : Fin 16) (x : Ctx) (y : Flight) (r : FlightRun) (z : FStep),
    ctxOf s.dev c.val = some x → flightOf x f.val = some y → y.run = some r → y.steps[i.val]? = some z →
    mirrorGoes s.dev c.val = true →
    (z.kind = fkCompute → runLive y = true → z.firing = none → inputsHeld y i.val = true → creditsHeld y i.val = true →
      stepWaits s.dev z = false →
      exec (.computeFiring c f i) s = .next (withDev s (modFlight c.val f.val (fun y =>
        { y with
          streams := y.streams.map (fun t => if t.producer = i.val then { t with credits := t.credits - 1 } else t)
          steps := modAt i.val (fun w =>
            { w with firing := some { next := 0, loops := [], ops := [] }, waited := false }) y.steps }) s.dev))) ∧
    (∀ (g : Firing) (k : Nat) (loops : List (Nat × Nat)) (b : BodyEntry) (env : OpEnv) (p : Bytes × Bytes) (d : Dev),
      z.firing = some g → firingAt z g = (k, loops) → z.body[k]? = some b → bodyMayIssue g b = true →
      env = { q := r.q, idx := r.idx, off := 0, ctx := c.val, drawn := none, hostOk := true } →
      p = bindEntry z.bindings k (innerIndex z.body loops k) (firingSlot y) b.desc b.out →
      (∀ (out : OpOut) (n : Nat),
        bodyOpRun env (.body f.val i.val g.issued) b.opcode p.1 p.2 { s.dev with actor := some c.val } =
          .ok (.done out n) d →
        exec (.bodyOpIssue c f i) s = .next (withMem s (bodyIssued c.val f.val i.val k loops
          (some (out.status, out.detail)) { d with actor := none }))) ∧
      (∀ (w : OpWait) (n : Nat),
        bodyOpRun env (.body f.val i.val g.issued) b.opcode p.1 p.2 { s.dev with actor := some c.val } =
          .ok (.running w n) d →
        exec (.bodyOpIssue c f i) s =
          .next (withMem s (bodyIssued c.val f.val i.val k loops none { d with actor := none })))) ∧
    (∀ (g : Firing) (d : Dev), z.firing = some g → z.body.length ≤ (firingAt z g).1 →
      (∀ w ∈ g.ops, w.status.isSome = true) →
      writeDeltaHeaders y i.val { s.dev with actor := some c.val } = .ok () d →
      exec (.firingEnd c f i) s = .next (withMem s (flightProgress c.val f.val (opSteps r.q 1 (modFlight c.val f.val
        (fun y =>
          { y with streams := firingStreams i.val y.streams
                   steps := modAt i.val (fun w => { w with firing := none, firings := w.firings + 1 }) y.steps })
        { d with actor := none })))))

/-- R179, R186, R187, R194: a slot notice brings a record to its consumer, a credit returns to its producer, a DELTA
record raises its stream's watermark; an INGEST step consumes a measurement record into its frame, closes the frame at its
last record, and reads its tail count again. -/
def Obligations.StreamsCarryRecords : Prop :=
  ∀ (s : State) (c : CtxId) (f : Fin 4) (x : Ctx) (y : Flight) (r : FlightRun), ctxOf s.dev c.val = some x →
    flightOf x f.val = some y → y.run = some r →
    (∀ (k : Fin 96) (t : FStream), y.streams[k.val]? = some t →
      (t.kind ≠ skDelta → t.flying ≠ 0 →
        exec (.streamSlotNotice c f k) s = .next (withMem s (flightProgress c.val f.val (modStream c.val f.val k.val
          (fun t => { t with flying := t.flying - 1, arrived := t.arrived + 1 }) s.dev)))) ∧
      (t.returning ≠ 0 →
        exec (.streamCredit c f k) s = .next (withMem s (resumeRun c.val (modStream c.val f.val k.val
          (fun t => { t with returning := t.returning - 1, credits := t.credits + 1 }) s.dev)))) ∧
      (∀ (h : Bytes) (d : Dev), t.kind = skDelta → t.flying ≠ 0 → mirrorGoes s.dev c.val = true →
        devRead (slotAddr t t.arrived) 64 { s.dev with actor := some c.val } = .ok h d →
        exec (.deltaRecordArrive c f k) s = .next (withMem s (resumeRun c.val { modStream c.val f.val k.val (fun t =>
          { t with flying := t.flying - 1, arrived := t.arrived + 1
                   watermark := some (match t.watermark with
                     | some w => max w (deltaMark d c.val (deltaHead h))
                     | none => deltaMark d c.val (deltaHead h)) }) d with actor := none })))) ∧
    (∀ (i : Fin 16) (z : FStep) (src : FSource), y.steps[i.val]? = some z → z.source = some src →
      (∀ (t : FStream) (k : Nat) (b : FrameBuild) (m : Bytes) (d u : Dev) (x1 : Ctx) (y1 : Flight) (w : FStep),
        (outputsOf y i.val).head? = some (t, k) →
        runLive y = true → mirrorGoes s.dev c.val = true → ¬(r.kind = 0 ∧ r.frameLimit ≠ 0 ∧ r.frameLimit ≤ z.frames) →
        takeNext c.val f.val i.val z src { s.dev with actor := some c.val } = .ok m d →
        b = z.frame.getD { epoch := recEpoch m, explicit := recExplicit m, kept := [], records := 0, invalid := 0,
                           overflow := 0 } →
        (z.frame = none → t.credits ≠ 0) →
        u = (if z.frame.isNone then modStream c.val f.val k (fun t => { t with credits := t.credits - 1 }) d else d) →
        (recEndFrame m = false → ctxOf u c.val = some x1 → flightOf x1 f.val = some y1 → y1.steps[i.val]? = some w →
          w.frames = z.frames →
          exec (.ingestRecord c f i) s = .next (withMem s (flightProgress c.val f.val (opSteps r.q 0 { modStep c.val f.val
            i.val (fun w => { w with frame := some (takeRecord src.slotBytes t.slotBytes m b) }) u with
              actor := none })))) ∧
        (∀ v v' : Dev, recEndFrame m = true →
          closeFrame c.val f.val i.val k t z (takeRecord src.slotBytes t.slotBytes m b) (recHorizon m) u = .ok () v →
          (if r.kind = 0 then writeCounters c.val f.val v = .ok () v' else v' = v) →
          ctxOf v' c.val = some x1 → flightOf x1 f.val = some y1 → y1.steps[i.val]? = some w →
          exec (.ingestRecord c f i) s = .next (withMem s (flightProgress c.val f.val
            (opSteps r.q (w.frames - z.frames) { v' with actor := none }))))) ∧
      (∀ (v : Nat) (d : Dev), src.chain = false → runLive y = true → z.tailSeen ≤ z.consumed →
        (hushed s.dev c.val = false ∨ isSecondary s.dev = false) →
        rd64 ringEnv src.tail { s.dev with actor := some c.val } = .ok v d →
        exec (.tailPoll c f i) s = .next (withMem s { modStep c.val f.val i.val (fun w => { w with tailSeen := v }) d with
          actor := none })))

/- Messages of boundary exchange. -/

/-- R208, R209: a frame or newel of a BOUNDARY peer whose frame has not arrived is placed in its slot of the frame store; a
slot whose two halves disagree is emptied and asked for again, up to 3 times, and then the run ends with LINK_LOST; a RESEND
is answered from the send store. R186, R213, R215, R216, R218: a hello is kept for its run; a child's sums join the
checkpoint; the verdict of the checkpoint in progress is settled; an end notice is forwarded and the run ends as with an
abort, with a stop fence as with its own; a chain source takes the measurement records of its tag. -/
def Obligations.BoundaryMessagesAreTaken : Prop :=
  ((∀ (s : State) (c : CtxId) (part : Fin 2048) (k : Nat) (g : Run) (b : Boundary) (p : Peer),
    activeMap s.dev c.val = some (g, b) → peerPart b part.val = some p →
    (p.boundary = true → frameHeld b part.val k = none → slotFree b part.val k = true →
      (∀ v : List Bool, exec (.frame c part k v) s = .next (withMem s (resumeRun c.val (checkProgress c.val
        (judgeSlot c.val part.val k (workWritten b (modBRun c.val (fun r =>
          { r with frames := putSlot part.val k (fun y => { y with bits := some v }) r.frames }) s.dev))))))) ∧
      (∀ (n : Nat) (crc : BitVec 32), exec (.newel c part k n crc) s = .next (withMem s (resumeRun c.val
        (checkProgress c.val (judgeSlot c.val part.val k (workWritten b (modBRun c.val (fun r =>
          { r with frames := putSlot part.val k (fun y => { y with newel := some (n, crc.toNat) }) r.frames })
          s.dev)))))))) ∧
    (∀ y : SentFrame, b.run.sent.find? (fun z => z.part == part.val && z.epoch == k) = some y →
      exec (.resend c part k) s = .next (withMem s (sendTo p.chain (.newel b.part k y.bits.length (frameCrc y.bits))
        (sendTo p.chain (.frame b.part k y.bits) s.dev))))) ∧
  (∀ (d : Dev) (c part k : Nat) (g : Run) (b : Boundary) (p : Peer) (y : FrameSlot) (bits : List Bool) (n crc : Nat),
    activeMap d c = some (g, b) → peerPart b part = some p →
    b.run.frames.find? (fun z => z.part == part && z.epoch == k) = some y → y.bits = some bits →
    y.newel = some (n, crc) →
    (bits.length = n → crc32c (packBits (ceilDiv bits.length 8) bits) = crc → judgeSlot c part k d = d) ∧
    (bits.length ≠ n ∨ crc32c (packBits (ceilDiv bits.length 8) bits) ≠ crc → y.resends < 3 →
      judgeSlot c part k d = sendTo p.chain (.resend b.part k) (modBRun c (fun r =>
        { r with frames := putSlot part k (fun z => { z with bits := none, newel := none, resends := z.resends + 1 })
                  r.frames }) d)) ∧
    (bits.length ≠ n ∨ crc32c (packBits (ceilDiv bits.length 8) bits) ≠ crc → 3 ≤ y.resends →
      judgeSlot c part k d = stopRun c (.status stLinkLost (lostDetail ((routeOf d p.chain).getD 0) p)) d))) ∧
  (∀ (s : State) (c : CtxId),
    (∀ m : HelloMsg, s.dev.chain.id.isSome = true → activeMap s.dev c.val = none →
      exec (.hello c m) s = .next (withMem s (modCtx c.val (fun x => { x with hellos := putHello m x.hellos }) s.dev))) ∧
    (∀ (tag : BitVec 16) (n : LinkId) (data : Bytes), s.dev.chain.id.isSome = true →
      exec (.ingest tag n data) s = .next (withDev s (deliverIngest tag.toNat (some n.val) data s.dev))) ∧
    (∀ (g : Run) (b : Boundary), activeMap s.dev c.val = some (g, b) →
      (∀ m : HelloMsg, exec (.hello c m) s = .next (withMem s
        (if g.begun then modCtx c.val (fun x => { x with hellos := putHello m x.hellos }) s.dev
         else resumeRun c.val (modBRun c.val (fun r => { r with hellos := putHello m r.hellos }) s.dev)))) ∧
      (∀ (part : Fin 2048) (k : Nat) (x y : Int) (n : Nat) (p : Peer), peerPart b part.val = some p → p.child = true →
        exec (.checkUp c part k x y n) s = .next (withMem s (resumeRun c.val (checkProgress c.val
          (modBRun c.val (fun r =>
            { r with checks := r.checks.filter (fun j => !(j.part == part.val && j.epoch == k)) ++
                       [{ part := part.val, epoch := k, sumA := x, sumB := y, parts := n }] }) s.dev))))) ∧
      (∀ (v : VerdictMsg) (pt : CheckPoint), b.run.point = some pt → pt.epoch = v.epoch → b.part ≠ 0 →
        exec (.verdict c v) s = .next (withMem s (resumeRun c.val (settleVerdict c.val
          (modBRun c.val (fun r => { r with due := some v }) s.dev))))) ∧
      (∀ (part : Fin 2048) (k : EndKind), g.stop = none → g.ending = none → b.run.notice = none →
        exec (.endNotice c part k) s = .next (withMem s (resumeRun c.val
          (stopRun c.val (if k = .stopFence then .stopFence else .status stAborted anyDetail)
            (sendNotices b part.val k
              (modBRun c.val (fun r => { r with notice := some (part.val, k) }) s.dev))))))))

/- Links. -/

/-- R221, R232, R240: the candidate in work trains on a lane choice of its mode: the link is up and available, its fault
cause ends, its held flits go again and its partner is told; one that times out gives way to the next candidate; a
negotiation without a candidate left is tried again, and the third in a row loses the link; a silent link negotiates at
once, or, with the mirror role, keeps its mode while what it carried goes on the other link; a lost link tries again at its
timer. -/
def Obligations.LinksTrainFailAndRetry : Prop :=
  (∀ (s : State) (n : LinkId) (l : Link), linkOf s.dev n.val = l → l.state = .training →
    (∀ k lanes rate : Nat, candidateNow l = some (k, lanes, rate) →
      (∀ a : Fin 4,
        exec (.linkTrained ⟨n, a⟩) s = .next (withMem s (mirrorWake
          (if laneChoice lanes a.val then
            sendInfo n.val (runLink n.val (linkAvail n.val true (causeEnds (linkSource n.val) (setLink n.val
              { l with state := .up, lanes := lanes, rate := rate, fec := fecUsed l rate, firstLane := a.val, wasUp := true
                       failures := 0, silent := false, replays := satAdd 32 l.replays l.unacked.length } s.dev))))
           else s.dev)))) ∧
      ((candidateNow { l with candidate := k + 1 }).isSome = true →
        exec (.linkCandidateTimeout n) s = .next (withMem s (pairStep (losing
          (fun d => setLink n.val { l with candidate := k + 1 } d) s.dev)))) ∧
      (candidateNow { l with candidate := k + 1 } = none → l.failures < 2 →
        exec (.linkCandidateTimeout n) s = .next (withMem s (pairStep (losing
          (fun d => setLink n.val (negotiate { l with failures := l.failures + 1 }) d) s.dev)))) ∧
      (candidateNow { l with candidate := k + 1 } = none → l.failures = 2 →
        exec (.linkCandidateTimeout n) s = .next (withMem s (pairStep (losing
          (fun d => linkLost n.val (setLink n.val { l with failures := 3 } d)) s.dev)))) ∧
      (candidateNow { l with candidate := k + 1 } = none → 3 ≤ l.failures →
        exec (.linkCandidateTimeout n) s = .next (withMem s (pairStep (losing
          (fun d => setLink n.val { l with state := .lost } d) s.dev)))))) ∧
  (∀ (s : State) (n : LinkId) (l : Link), linkOf s.dev n.val = l →
    (l.state = .up → l.mirror = false →
      exec (.linkSilent n) s = .next (withMem s (setLink n.val (negotiate { l with failures := 0 }) s.dev))) ∧
    (∀ d : Dev, l.state = .up → l.mirror = true → l.silent = false →
      d = logOpen 0x09 15 (if n.val < 8 then dieE else dieW) n.val 0 0 (setLink n.val { l with silent := true } s.dev) →
      exec (.linkSilent n) s =
        .next (withMem s (if mirrorLive1 d (otherMirror d n.val) then moveFlits n.val d else d))) ∧
    (l.state = .lost →
      exec (.linkRetryTimer n) s = .next (withDev s (setLink n.val (negotiate { l with failures := 3 }) s.dev))))

/-- R223 to R230: the trailer of a flit frees flits, returns credits and counts corrected words; a NAK sends the later flits
again; a flit with a bad CRC is dropped, counted and answered with NAK. Of flits in order, a malformed one is counted in
FORMAT_DROPS, one for another device is forwarded with one hop more, or dropped and counted at 63 hops; one out of order is
dropped. LINK_MGMT reports the partner, or carries a mailbox message. -/
def Obligations.FlitsAreAcknowledgedAndForwarded : Prop :=
  ∀ (s : State) (n : LinkId) (l : Link), linkOf s.dev n.val = l → l.state = .up →
    (∀ (h : FlitHeader) (t : FlitTrailer) (d : Dev),
      d = setLink n.val (addCredits t.credits (ackFlits t.ackSeq.val
        { l with silent := false, fecCorrected := if l.fec then satAdd 64 l.fecCorrected t.corrected else l.fecCorrected })) s.dev →
      exec (.flitAck n h t) s =
        .next (withMem s (mirrorWake (pairStep (receiveFlit n.val h (runLink n.val d)))))) ∧
    (∀ (a : Fin 4096) (k : Link), k = ackFlits a.val { l with silent := false } →
      exec (.nak n a) s = .next (withMem s (mirrorWake (pairStep (runLink n.val
        (setLink n.val { k with replays := satAdd 32 k.replays k.unacked.length } s.dev)))))) ∧
    (∀ u : Bool, exec (.flitCrcFail n u) s = .next (withDev s (runLink n.val (setLink n.val
      { l with nakDue := true
               fecUncorrectable := if u then satAdd 32 l.fecUncorrectable 1 else l.fecUncorrectable } s.dev)))) ∧
    (∀ (h : FlitHeader) (d : Dev),
      d = setLink n.val { linkOf (hears n.val s.dev) n.val with rxSeq := h.seq.val, ackDue := true }
        (hears n.val s.dev) →
      (flitBad h = true →
        (h.type.val = 0 →
          exec (.flitFormatDrop n h) s = .next (withDev s (dropFormat n.val (hears n.val s.dev)))) ∧
        (h.type.val ≠ 0 → h.seq.val = (l.rxSeq + 1) % 4096 →
          exec (.flitFormatDrop n h) s =
            .next (withDev s (runLink n.val (dropFormat n.val (oweCredit n.val h.vc.val d)))))) ∧
      (s.dev.chain.id ≠ some h.dest.val → h.type.val ≠ 0 → h.seq.val ≠ (l.rxSeq + 1) % 4096 →
        exec (.flitForward n h) s = .next (withDev s (runLink n.val (setLink n.val
          { linkOf (hears n.val s.dev) n.val with ackDue := true } (hears n.val s.dev))))) ∧
      (flitBad h = false → s.dev.chain.id ≠ some h.dest.val → 1 < h.type.val → h.seq.val = (l.rxSeq + 1) % 4096 →
        chainHears d = true → (linkOf d n.val).mirror = false →
        (∀ d1 : Dev, d1 = oweCredit n.val h.vc.val d → h.hops.val = 63 →
          exec (.flitForward n h) s = .next (withDev s (runLink n.val
            (logOpen 0x09 16 (if n.val < 8 then dieE else dieW) n.val h.dest.val h.src.val (setLink n.val
              { linkOf d1 n.val with hopDrops := satAdd 32 (linkOf d1 n.val).hopDrops 1 } d1))))) ∧
        (h.hops.val ≠ 63 → routeOf d h.dest.val = none →
          exec (.flitForward n h) s = .next (withDev s (runLink n.val (oweCredit n.val h.vc.val d)))) ∧
        (∀ m : Nat, h.hops.val ≠ 63 → routeOf d h.dest.val = some m →
          exec (.flitForward n h) s = .next (withDev s (runLink n.val (queueFlits m
            [{ head := { h with hops := h.hops + 1 }, via := if h.vc.val = 0 then none else some n.val }]
            (if h.vc.val = 0 then oweCredit n.val 0 d else d))))))) ∧
    (∀ (v off : Bool) (id : Fin 2048) (lanes rate role : Fin 3),
      exec (.linkMgmt n (.info v id lanes rate off role)) s = .next (withMem s (pairStep (setLink n.val
        { linkOf (hears n.val s.dev) n.val with
          peer := if v then some id.val else none, peerLanes := lanes.val, peerRate := rate.val, peerFecOff := off,
          peerRole := role.val } (hears n.val s.dev))))) ∧
    (∀ bs : Bytes, exec (.linkMgmt n (.mailbox bs)) s = .next (withMem s (mirrorMail n.val bs (hears n.val s.dev))))

/- The mirrored pair. -/

/-- R234 to R236, R238: beats leave on both mirror links and are taken on one; on a paired secondary a log entry joins its
context's log, and what waited for it goes on, and a checkpoint message joins its points; the partner's ATTACH meets this
device's own or is kept for it, and its DETACH ends the mirroring; a copy that stands at a point that agrees goes on, and
one that disagrees is barred and raises its divergence source. -/
def Obligations.MirrorTrafficIsTaken : Prop :=
  (∀ s : State, exec .mirrorBeatSend s = .next (withMem s (pairStep
    ((mirrorLinks s.dev).foldl (fun d n => sendBeat n d) s.dev)))) ∧
  (∀ (s : State) (n : LinkId) (l : Link), linkOf s.dev n.val = l → l.mirror = true → l.state = .up →
    s.dev.chain.id.isSome = true →
    exec (.mirrorBeat n) s = .next (withMem s (pairStep (setLink n.val { l with beatIn := true, silent := false }
      s.dev)))) ∧
  (∀ (s : State) (c : CtxId), s.dev.chain.id.isSome = true → s.dev.chain.mirror.state = .paired →
    (∀ p : Option Bytes, exec (.mirrorLog c (.attach p)) s =
      .next (withMem s (feedCtx c.val (mirrorWake (attachArrives c.val p s.dev))))) ∧
    (exec (.mirrorLog c .detach) s = .next (withMem s (feedCtx c.val (mirrorWake
      (releaseCtxs (fun m => m.ctx == c.val)
        (modMirror (fun m => { m with offers := m.offers.filter (fun o => o.1 != c.val) }) s.dev)))))) ∧
    (∀ m : MirrorCtx, s.dev.chain.mirror.role = 2 → mirrorCtx s.dev c.val = some m → m.barred = false →
      (∀ e : MirrorEntry, (∀ p : Option Bytes, e ≠ .attach p) → e ≠ .detach →
        exec (.mirrorLog c e) s = .next (withMem s (feedCtx c.val (mirrorWake (modMirrorCtx c.val (fun m =>
          { m with log := m.log ++ [e] }) s.dev))))) ∧
      (∀ p : MirrorPoint, exec (.mirrorState c p) s = .next (withMem s (mirrorWake (modMirrorCtx c.val (fun m =>
        { m with points := m.points ++ [p] }) s.dev)))) ∧
      (∀ (p : MirrorPoint) (ps : List MirrorPoint), m.points = p :: ps → m.mark = 1 →
        exec (.mirrorPointReached c) s = .next (withMem s
          (if pointsAgree p (ownPoint s.dev c.val m) then mirrorWake (modMirrorCtx c.val (recordPoint p) s.dev)
           else diverge c.val s.dev)))))

/-- R240 to R242, R458: an edge of ALIVE_IN is noted; a paired secondary takes over when ALIVE_IN stops or both links
are silent; a paired primary whose links are silent detaches if it is wired and ALIVE_IN has stopped, and otherwise
yields every context. Takeover drops the partial messages of the mirror, replays every context that is not barred and
signals the takeover vector. -/
def Obligations.SilenceMakesTheMirrorTakeOverOrYield : Prop :=
  (∀ (s : State) (b : Bool), b ≠ s.dev.boot.aliveInLevel →
    exec (.aliveInEdge b) s = .next (withDev s { s.dev with
      boot := { s.dev.boot with aliveInLevel := b, aliveInEdge := some s.dev.clock } })) ∧
  (∀ s : State, s.dev.chain.mirror.state = .paired →
    (s.dev.chain.mirror.role = 2 →
      exec .secondaryLinksSilent s = .next (withMem s (takeOver (bothSilent s.dev))) ∧
      (∀ t : Nat, s.dev.boot.aliveInEdge = some t →
        exec .aliveInTimeout s = .next (withMem s (takeOver (tickTo (t + 1000000) s.dev))))) ∧
    (s.dev.chain.mirror.role = 1 →
      exec .primaryLinksSilent s = .next (withMem s (primarySilent (bothSilent s.dev))))) ∧
  (∀ d : Dev,
    takeOver d = mirrorWake (signal d.chain.mirror.vector (logOpen 0x09 19 diePackage d.chain.mirror.partner 0 0
      (modMirror (fun m =>
        { m with state := .takenOver, ctxs := m.ctxs.map (fun x => { x with replay := !x.barred }) })
        { d with chain := { d.chain with inbound := d.chain.inbound.filter (fun m => m.2.1 != 3) } }))) ∧
    primarySilent d =
      (if d.chain.mirror.wired && aliveInDead d then
        logOpen 0x09 21 diePackage d.chain.mirror.partner 0 0 (releaseCtxs (fun _ => true)
          (modMirror (fun m => { m with state := .detached }) d))
       else logOpen 0x09 20 diePackage d.chain.mirror.partner 0 0 (modMirror (fun m =>
          { m with state := .yielded, ctxs := m.ctxs.map (fun x => { x with yielded := true }) }) d)))

/- The whole machine. -/

/-- R348, R388, R398, R439, R441, R446: after a power-on reset no command waits; every queue is DISABLED and unbound; no
context, placement or owner exists; EXPERT is 0; no mailbox is BUSY; the entropy source is not READY and its pool is
empty; no fault is active and the device is not in the safe state; the chain identifier is unset and every link down;
every vector is clear of pending; start-up stands in stage 1, not READY; memory holds no written byte. -/
def Obligations.ResetLeavesNothingInProgress : Prop :=
  State.reset.pending = [] ∧
  (∀ q : QRef, (queueOf State.reset.dev q).state = .disabled ∧ (queueOf State.reset.dev q).cur = none ∧
    (queueOf State.reset.dev q).bound = false) ∧
  State.reset.dev.ctxs = [] ∧ State.reset.dev.own.owner = none ∧ State.reset.dev.own.expert = 0#16 ∧
  (∀ ch : Chan, (mbox State.reset.dev ch).busy = false ∧ (mbox State.reset.dev ch).msg = none) ∧
  State.reset.dev.ent.ready = false ∧ State.reset.dev.ent.failed = false ∧ State.reset.dev.ent.pool = [] ∧
  State.reset.dev.fc.safeState = false ∧ State.reset.dev.fc.status = 0#512 ∧
  State.reset.dev.fc.unacked = 0#512 ∧
  State.reset.dev.chain.id = none ∧ (∀ n : LinkId, (linkOf State.reset.dev n.val).state = .down) ∧
  (∀ v : Fin 2048, (msixOf State.reset.dev v.val).pending = false) ∧
  State.reset.dev.boot.stage = 1 ∧ State.reset.dev.boot.ready = false ∧
  State.reset.dev.mem.cells = [] ∧ State.reset.dev.host.mem = [] ∧ memoriesWf State.reset

/-- The commands that may program OTP (R366, R370, R371, R373, R379). -/
def programsOtp : Instr → Bool
  | .calWriteSetting _ _ => true
  | .raiseFloor _ _ => true
  | .lifecycleAdvance _ => true
  | .entropyRequest => true
  | _ => false

/-- Every command answers a next state, leaves the commands that wait, does not depend on them, and leaves OTP unless it
is one of the commands that program it. -/
def Obligations.EveryCommandAnswersAndKeepsTheQueue : Prop :=
  ∀ (c : Instr) (s : State), ∃ t : State, exec c s = .next t ∧ t.pending = s.pending ∧
    (programsOtp c = false → t.otp = s.otp) ∧
    ∀ p : List Instr, exec c { s with pending := p } = .next { t with pending := p }

/-- R367, R380: the life-cycle state is the latest whose word holds at least 24 ones; no step clears a bit of OTP or
changes the unique identifier, and so no step leaves a life-cycle state for an earlier one. -/
def Obligations.OtpBitsStayAndTheLifeCycleNeverGoesBack : Prop :=
  (∀ (o : Otp) (ones : Nat → Nat),
    (∀ i : Nat, ones i = ((List.range 32).filter (fun b => (o.words.getD i 0#32).getLsbD b)).length) →
    lifecycleOf o = if 24 ≤ ones 2 then 3 else if 24 ≤ ones 1 then 2 else if 24 ≤ ones 0 then 1 else 0) ∧
  (∀ s t : State, step s = .next t →
    (∀ i b : Nat, (s.otp.words.getD i 0#32).getLsbD b = true → (t.otp.words.getD i 0#32).getLsbD b = true) ∧
    (∀ b : Nat, s.otp.seedRow.getLsbD b = true → t.otp.seedRow.getLsbD b = true) ∧
    (∀ i b : Nat, (s.otp.gens.getD i 0#512).getLsbD b = true → (t.otp.gens.getD i 0#512).getLsbD b = true) ∧
    t.otp.uniqueId = s.otp.uniqueId ∧ lifecycleOf s.otp ≤ lifecycleOf t.otp)

/-- R298: counted from ENABLE, completion k of a queue goes to slot k mod size with PHASE 1 when k div size is even;
after it CQ_TAIL is (k + 1) mod size. The completions change neither the queue's configuration nor any other queue. -/
def Obligations.CompletionsFollowTheRing : Prop :=
  ∀ (d d' : Dev) (q : QRef) (x y : Queue) (l : List (Bool × Compl)), queueOf d q = x → x.cqTail = 0 → x.phase = true →
    d' = l.foldl (fun d c => postCompl q c.1 c.2 d) d → queueOf d' q = y →
    y.cqTail = l.length % cqSize x ∧ y.phase = decide (l.length / cqSize x % 2 = 0) ∧ y.config = x.config ∧
    y.cqBase = x.cqBase ∧ y.cur = x.cur ∧ (∀ p : QRef, p ≠ q → queueOf d' p = queueOf d p) ∧
    (∀ (irq : Bool) (c : Compl), isHost x.cqBase = true → d'.host.quiesced = false →
      d'.chain.mirror.ctxs = [] → low 63 x.cqBase + 64 * cqSize x < 2 ^ 63 →
      cellsRead (low 63 x.cqBase + 64 * (l.length % cqSize x)) 64 (postCompl q irq c d').host.mem =
        complBytes q (decide (l.length / cqSize x % 2 = 0)) (stamp d') c)

/-- R328: a FILL of device memory that asks for no completion of its own, while no memory error is pending and no host
access waits, gives every byte a of its destination byte (a mod 8) of the pattern, and leaves every other byte of device memory and
all of host memory. -/
def Obligations.FillReachesExactlyItsBytes : Prop :=
  ∀ (s t : State) (q : QRef) (e : Entry) (o : Nat) (r x : Bytes) (d d' : Dev), OpRuns s q 0x21 e o r x d →
    bytesInRange (opnd x 2) = true → isHost (opnd x 0) = false → checkDest (opnd x 0) (opnd x 2) d = .ok () d →
    devWrite (opnd x 0) (fillBytes (opnd x 0) (opnd x 2) (opnd x 1)) d = .ok () d' → recComplete r = false →
    s.dev.fc.injected = [] → s.dev.mem.writeback = [] → s.dev.host.held = [] → exec (.fill q) s = .next t →
    (∀ a : Nat, opnd x 0 ≤ a → a < opnd x 0 + opnd x 2 →
      memByte t.dev.mem a = BitVec.ofNat 8 (opnd x 1 / 2 ^ (8 * (a % 8)))) ∧
    (∀ a : Nat, a < opnd x 0 ∨ opnd x 0 + opnd x 2 ≤ a → memByte t.dev.mem a = memByte s.dev.mem a) ∧
    t.dev.host.mem = s.dev.host.mem

/-- R343: while a mailbox is BUSY, no write to its registers changes its buffer or the message it holds, and a GO sets
REJECTED. -/
def Obligations.ABusyMailboxKeepsItsMessage : Prop :=
  ∀ (d : Dev) (ch : Chan) (o v : Nat) (b : Byte), (mbox d ch).busy = true →
    ((mbox (mboxWrite32 ch o v d) ch).buf = (mbox d ch).buf ∧ (mbox (mboxWrite32 ch o v d) ch).msg = (mbox d ch).msg ∧
      (mbox (mboxWrite32 ch o v d) ch).busy = true ∧
      (bit v 0 = true → (mbox (mboxWrite32 ch 0 v d) ch).rejected = true)) ∧
    ((mbox (mboxWriteByte ch o b d) ch).buf = (mbox d ch).buf ∧
      (mbox (mboxWriteByte ch o b d) ch).msg = (mbox d ch).msg ∧ (mbox (mboxWriteByte ch o b d) ch).busy = true ∧
      (b.getLsbD 0 = true → (mbox (mboxWriteByte ch 0 b d) ch).rejected = true))

/- Addresses and variates. -/

/-- R11: a 64-bit address with bit [63] set names host memory; one with bit [63] clear is a device address, and is
refused with BAD_ADDRESS unless bits [62:48] are zero. -/
def Obligations.AddressesKeepTheirForm : Prop :=
  ∀ (a : Nat) (d : Dev), a < 2 ^ 64 →
    isHost a = decide (2 ^ 63 ≤ a) ∧
    (2 ^ 63 ≤ a ∨ a < 2 ^ 48 → checkAddr a d = .ok () d) ∧
    (2 ^ 48 ≤ a → a < 2 ^ 63 → checkAddr a d = .error (.fail stBadAddress a) d) ∧
    (∀ (e : OpEnv) (n : Nat) (bs : Bytes), 2 ^ 48 ≤ a → a < 2 ^ 63 →
      rd e a n d = .error (.fail stBadAddress a) d ∧ wr a bs d = .error (.fail stBadAddress a) d) ∧
    (∀ bs : Bytes, 2 ^ 63 ≤ a → d.host.quiesced = false → d.actor = none →
      store a bs d = { d with host := { d.host with mem := cellsSet (a - 2 ^ 63) bs d.host.mem }
                              tele := { d.tele with txBytes := min (2 ^ 64 - 1) (d.tele.txBytes + bs.length) } })

/-- R111: the generator gives the values of Tables 4.7 and 4.8. -/
def Obligations.TheGeneratorGivesItsTestVectors : Prop :=
  let k0 := seedKey0 1
  let k1 := seedKey1 1
  let start := genStart { domain := 0 }
  let z0 : Gen := genRound k0 0 start
  let z1 : Gen := genRound k1 1 z0
  let z2 : Gen := genRound k0 2 z1
  let z3 : Gen := genRound k1 3 z2
  let z4 : Gen := genRound k0 4 z3
  let z5 : Gen := genRound k1 5 z4
  let w : Counter := { domain := 0, part := 0, block := 2, replica := 1, sweep := 5, spin := 3, draw := 9 }
  let y := genRound k1 5 (genRound k0 4 (genRound k1 3 (genRound k0 2 (genRound k1 1 (genRound k0 0 (genStart w))))))
  k0 = 0xB5A31C46 ∧ k1 = 0x4E2D97F8 ∧
  z0 = ⟨0x20FD4E0A, 0xF1BB3186, 0xD8425EDF, 0xBBFBA93C⟩ ∧ z1 = ⟨0x916DBDFD, 0xC5F5FD8B, 0x6F5F1A2B, 0xD866E02F⟩ ∧
  z2 = ⟨0xBE26DDFA, 0xC3E31478, 0x80678A14, 0xD9089A89⟩ ∧ z3 = ⟨0x58AA3F97, 0xEB157F08, 0xDF823B9B, 0x4E36A848⟩ ∧
  z4 = ⟨0x6241567C, 0x16C5BDB6, 0x33051AFF, 0xE0E12810⟩ ∧ z5 = ⟨0xE72AD647, 0xF2FD2C3F, 0xCD35D537, 0x15F19263⟩ ∧
  treadVariate 1 { domain := 0 } = 0xCD13 ∧ treadVariate 1 { domain := 0 } = 52499 ∧
  genStart w = ⟨0x00000005, 0x00010000, 0x20003002, 0x00000001⟩ ∧
  y = ⟨0xC2FD33BA, 0xB955D1BE, 0x8BA6549F, 0xA89C3FBF⟩ ∧
  treadVariate 1 w = 0x5892 ∧ treadVariate 1 w = 22674

/-- R72, R73, R103, R105: a single flip of ΔE at temperature T_fix with variate u is accepted by the Metropolis rule
when 2^24·ΔE ≤ T_fix·(L[u] + LOGQ), by the heat-bath rule when 2^24·ΔE < T_fix·H[u]; a rung's temperature is T_FIX
scaled by its ratio of 12 fractional bits, at most 16,777,215; two rungs swap by the exchange rule, which at equal
temperatures always swaps and at a = 0 < b swaps when the upper energy is not higher. At temperature 0 the Metropolis
rule accepts exactly the moves that do not raise the energy, and the heat-bath rule those that lower it. The tables hold
the test values of Table 3.1. -/
def Obligations.MovesAreAcceptedByTheirRule : Prop :=
  (∀ (dE : Int) (t u : Nat) (q : Int),
    (metropolis dE t u q = true ↔ 2 ^ 24 * dE ≤ t * (tableL u + q)) ∧
    (heatBath dE t u = true ↔ 2 ^ 24 * dE < t * tableH u) ∧
    (metropolis dE 0 u q = true ↔ dE ≤ 0) ∧ (heatBath dE 0 u = true ↔ dE < 0) ∧ (dE ≤ 0 → 0 ≤ q → metropolis dE t u q = true)) ∧
  (∀ t k : Nat, ladderT t 4096 = min 16777215 t ∧ ladderT t 0 = 0 ∧ ladderT t k ≤ 16777215 ∧
    (t * k < 16777216 * 4096 → ladderT t k = t * k / 4096)) ∧
  (∀ (a b u : Nat) (x y : Int), exchangeRule a a x y u = true ∧
    (0 < b → (exchangeRule 0 b x y u = true ↔ y ≤ x)) ∧
    (exchangeRule a b x y u = true ↔ 2 ^ 24 * ((b : Int) - a) * (y - x) ≤ a * b * tableL u)) ∧
  tableL 0 = 772243 ∧ tableL 16383 = 90854 ∧ tableL 65535 = 0 ∧
  tableH 0 = 772243 ∧ tableH 16383 = 72001 ∧ tableH 65535 = -772244
end

