-- ==== Sys2Proof/Laws/Memory.lean ====
section
/-! SUPPORT. The laws of memory: what a byte reads as after each operation on cells, and that every operation keeps the
canonical form. -/

namespace Sys2Proof.Laws

open Sys2Proof Sys2Proof.Machine

/- Lists of cells. -/

theorem cellGet_cellPut_same (a : Nat) (v : Byte) (t : List Host.Cell) : cellGet a (cellPut a v t) = some v := by
  induction t with
  | nil => simp [cellPut, cellGet]
  | cons c t ih =>
    obtain ⟨b, w⟩ := c
    unfold cellPut
    split
    · simp [cellGet]
    · split
      · simp [cellGet]
      · rename_i h
        simp [cellGet, h, ih]

theorem cellGet_cellPut_other {a b : Nat} (v : Byte) (t : List Host.Cell) (h : b ≠ a) :
    cellGet b (cellPut a v t) = cellGet b t := by
  induction t with
  | nil => simp [cellPut, cellGet, Ne.symm h]
  | cons c t ih =>
    obtain ⟨k, w⟩ := c
    unfold cellPut
    split
    · simp [cellGet, Ne.symm h]
    · split
      · rename_i e
        subst e
        simp [cellGet, Ne.symm h]
      · simp [cellGet, ih]

theorem cellGet_filter_in (p : Host.Cell → Bool) (a : Nat) (t : List Host.Cell) (h : ∀ v, p (a, v) = true) :
    cellGet a (t.filter p) = cellGet a t := by
  induction t with
  | nil => rfl
  | cons c t ih =>
    obtain ⟨b, w⟩ := c
    by_cases e : b = a
    · subst e
      simp [h w, cellGet]
    · by_cases k : p (b, w) = true
      · simp [k, cellGet, e, ih]
      · simp [k, cellGet, e, ih]

theorem cellGet_filter_out (p : Host.Cell → Bool) (a : Nat) (t : List Host.Cell) (h : ∀ v, p (a, v) = false) :
    cellGet a (t.filter p) = none := by
  induction t with
  | nil => rfl
  | cons c t ih =>
    obtain ⟨b, w⟩ := c
    by_cases k : p (b, w) = true
    · have e : b ≠ a := fun e => by subst e; simp [h w] at k
      simp [k, cellGet, e, ih]
    · simp [k, ih]

theorem cellGet_cellDel_same (a : Nat) (t : List Host.Cell) : cellGet a (cellDel a t) = none :=
  cellGet_filter_out _ _ _ (fun _ => by simp)

theorem cellGet_cellDel_other {a b : Nat} (t : List Host.Cell) (h : b ≠ a) : cellGet b (cellDel a t) = cellGet b t :=
  cellGet_filter_in _ _ _ (fun _ => by simp [h])

/-- A byte where an unlisted address reads as zero. -/
theorem cellSet_getD (a b : Nat) (v : Byte) (t : List Host.Cell) :
    (cellGet b (cellSet a v t)).getD 0 = if b = a then v else (cellGet b t).getD 0 := by
  unfold cellSet
  by_cases h : b = a
  · subst h
    split
    · rename_i hv
      simp [hv, cellGet_cellDel_same]
    · simp [cellGet_cellPut_same]
  · split
    · rw [cellGet_cellDel_other t h]
    · rw [cellGet_cellPut_other v t h]

/-- Bytes where unlisted addresses read as zero: those written, and no other. -/
theorem cellsSet_getD (bs : Bytes) (a b : Nat) (t : List Host.Cell) :
    (cellGet b (cellsSet a bs t)).getD 0 =
      if a ≤ b ∧ b < a + bs.length then bs.getD (b - a) 0 else (cellGet b t).getD 0 := by
  induction bs generalizing a t with
  | nil =>
    have h : ¬ (a ≤ b ∧ b < a + ([] : Bytes).length) := by simp
    rw [if_neg h]; rfl
  | cons v vs ih =>
    rw [cellsSet, ih (a + 1) (cellSet a v t), cellSet_getD]
    by_cases h1 : b = a
    · subst h1
      rw [if_neg (by omega), if_pos rfl, if_pos (by simp)]
      simp
    · by_cases h2 : a + 1 ≤ b ∧ b < a + 1 + vs.length
      · have h3 : a ≤ b ∧ b < a + (v :: vs).length := by simp only [List.length_cons]; omega
        rw [if_pos h2, if_pos h3]
        have : b - a = (b - (a + 1)) + 1 := by omega
        rw [this, List.getD_cons_succ]
      · have h3 : ¬ (a ≤ b ∧ b < a + (v :: vs).length) := by simp only [List.length_cons]; omega
        rw [if_neg h2, if_neg h3, if_neg h1]

/-- What was written is read back. -/
theorem cellsRead_cellsSet (a : Nat) (bs : Bytes) (t : List Host.Cell) :
    cellsRead a bs.length (cellsSet a bs t) = bs := by
  unfold cellsRead
  apply List.ext_getElem
  · simp
  · intro i h1 h2
    simp only [List.getElem_map, List.getElem_range, cellsSet_getD]
    have h3 : a ≤ a + i ∧ a + i < a + bs.length := by omega
    rw [if_pos h3]
    have : a + i - a = i := by omega
    rw [this, List.getD_eq_getElem?_getD, List.getElem?_eq_getElem h2]
    rfl

/-- A range apart from the one written is as before. -/
theorem cellsRead_cellsSet_apart {a b n : Nat} (bs : Bytes) (t : List Host.Cell) (h : b + n ≤ a ∨ a + bs.length ≤ b) :
    cellsRead b n (cellsSet a bs t) = cellsRead b n t := by
  unfold cellsRead
  apply List.map_congr_left
  intro i hi
  rw [List.mem_range] at hi
  rw [cellsSet_getD, if_neg]
  omega

/- The canonical form. -/

theorem cellsRise_iff (t : List Host.Cell) : cellsRise t = true ↔ t.Pairwise (fun x y => x.1 < y.1) := by
  induction t with
  | nil => simp [cellsRise]
  | cons c t ih =>
    obtain ⟨a, v⟩ := c
    cases t with
    | nil => simp [cellsRise]
    | cons e t =>
      obtain ⟨b, w⟩ := e
      simp only [cellsRise, Bool.and_eq_true, decide_eq_true_eq, ih, List.pairwise_cons, List.mem_cons, forall_eq_or_imp]
      constructor
      · rintro ⟨h1, h2, h3⟩
        exact ⟨⟨h1, fun x hx => Nat.lt_trans h1 (h2 x hx)⟩, h2, h3⟩
      · rintro ⟨⟨h1, -⟩, h2, h3⟩
        exact ⟨h1, h2, h3⟩

theorem cellsRise_filter (p : Host.Cell → Bool) {t : List Host.Cell} (h : cellsRise t = true) :
    cellsRise (t.filter p) = true := by
  rw [cellsRise_iff] at h ⊢
  exact h.filter _

theorem mem_cellPut {a : Nat} {v : Byte} {t : List Host.Cell} {c : Host.Cell} (h : c ∈ cellPut a v t) :
    c = (a, v) ∨ c ∈ t := by
  induction t with
  | nil => simp [cellPut] at h; exact .inl h
  | cons k t ih =>
    obtain ⟨b, w⟩ := k
    unfold cellPut at h
    split at h
    · simp only [List.mem_cons] at h ⊢
      exact h
    · split at h
      · simp only [List.mem_cons] at h ⊢
        rcases h with h | h
        · exact .inl h
        · exact .inr (.inr h)
      · simp only [List.mem_cons] at h ⊢
        rcases h with h | h
        · exact .inr (.inl h)
        · rcases ih h with h | h
          · exact .inl h
          · exact .inr (.inr h)

theorem cellsRise_cellPut (a : Nat) (v : Byte) {t : List Host.Cell} (h : cellsRise t = true) :
    cellsRise (cellPut a v t) = true := by
  rw [cellsRise_iff] at h ⊢
  induction t with
  | nil => simp [cellPut]
  | cons c t ih =>
    obtain ⟨b, w⟩ := c
    rw [List.pairwise_cons] at h
    unfold cellPut
    split
    · rename_i hab
      refine List.pairwise_cons.2 ⟨?_, List.pairwise_cons.2 h⟩
      intro x hx
      rcases List.mem_cons.1 hx with rfl | hx
      · exact hab
      · exact Nat.lt_trans hab (h.1 x hx)
    · split
      · rename_i hb
        subst hb
        exact List.pairwise_cons.2 ⟨fun x hx => h.1 x hx, h.2⟩
      · rename_i h1 h2
        refine List.pairwise_cons.2 ⟨?_, ih h.2⟩
        intro x hx
        rcases mem_cellPut hx with rfl | hx
        · show b < a
          omega
        · exact h.1 x hx

/-- A write of one byte keeps the canonical form. -/
theorem cellsWf_cellSet (a : Nat) (v : Byte) {t : List Host.Cell} (h : cellsWf t = true) :
    cellsWf (cellSet a v t) = true := by
  unfold cellsWf at h ⊢
  rw [Bool.and_eq_true, List.all_eq_true] at h ⊢
  unfold cellSet
  split
  · exact ⟨cellsRise_filter _ h.1, fun c hc => h.2 c (List.mem_filter.1 hc).1⟩
  · rename_i hv
    refine ⟨cellsRise_cellPut a v h.1, fun c hc => ?_⟩
    rcases mem_cellPut hc with rfl | hc
    · simpa using hv
    · exact h.2 c hc

/-- A write of bytes keeps the canonical form. -/
theorem cellsWf_cellsSet (bs : Bytes) (a : Nat) {t : List Host.Cell} (h : cellsWf t = true) :
    cellsWf (cellsSet a bs t) = true := by
  induction bs generalizing a t with
  | nil => exact h
  | cons v vs ih => exact ih (a + 1) (cellsWf_cellSet a v h)

/- Device memory. -/

@[simp] theorem undefAt_memSet (a b : Nat) (v : Byte) (m : Memory) : undefAt (memSet a v m) b = undefAt m b := rfl

@[simp] theorem unlisted_memSet (a b : Nat) (v : Byte) (m : Memory) : unlisted (memSet a v m) b = unlisted m b := rfl

/-- One byte written: it reads as written, every other as before. -/
theorem memByte_memSet (a b : Nat) (v : Byte) (m : Memory) :
    memByte (memSet a v m) b = if b = a then v else memByte m b := by
  have hu : unlisted (memSet a v m) b = unlisted m b := rfl
  unfold memByte
  rw [hu]
  simp only [memSet]
  by_cases h : b = a
  · subst h
    split
    · rename_i hz
      have : undefAt m b = none := Option.isNone_iff_eq_none.1 hz.1
      simp [cellGet_cellDel_same, unlisted, this, hz.2]
    · simp [cellGet_cellPut_same]
  · split
    · rw [cellGet_cellDel_other _ h]
    · rw [cellGet_cellPut_other _ _ h]

/-- Bytes written: they read as written, every other byte as before. -/
theorem memByte_memWrite (bs : Bytes) (a b : Nat) (m : Memory) :
    memByte (memWrite a bs m) b = if a ≤ b ∧ b < a + bs.length then bs.getD (b - a) 0 else memByte m b := by
  induction bs generalizing a m with
  | nil =>
    have h : ¬ (a ≤ b ∧ b < a + ([] : Bytes).length) := by simp
    rw [if_neg h]; rfl
  | cons v vs ih =>
    rw [memWrite, ih (a + 1) (memSet a v m), memByte_memSet]
    by_cases h1 : b = a
    · subst h1
      rw [if_neg (by omega), if_pos rfl, if_pos (by simp)]
      simp
    · by_cases h2 : a + 1 ≤ b ∧ b < a + 1 + vs.length
      · have h3 : a ≤ b ∧ b < a + (v :: vs).length := by simp only [List.length_cons]; omega
        rw [if_pos h2, if_pos h3]
        have : b - a = (b - (a + 1)) + 1 := by omega
        rw [this, List.getD_cons_succ]
      · have h3 : ¬ (a ≤ b ∧ b < a + (v :: vs).length) := by simp only [List.length_cons]; omega
        rw [if_neg h2, if_neg h3, if_neg h1]

@[simp] theorem memByte_wordsWritten (a n b : Nat) (m : Memory) : memByte (wordsWritten a n m) b = memByte m b := rfl

/-- Bytes stored in device memory. -/
theorem memByte_devStore (bs : Bytes) (a b : Nat) (d : Dev) :
    memByte (devStore a bs d).mem b = if a ≤ b ∧ b < a + bs.length then bs.getD (b - a) 0 else memByte d.mem b :=
  memByte_memWrite bs a b d.mem

theorem memWf_iff (m : Memory) :
    memWf m = true ↔ cellsRise m.cells = true ∧ ∀ c ∈ m.cells, (undefAt m c.1).isSome = true ∨ c.2 ≠ 0 := by
  unfold memWf
  rw [Bool.and_eq_true, List.all_eq_true]
  simp

/-- A write of one byte keeps the canonical form. -/
theorem memWf_memSet (a : Nat) (v : Byte) {m : Memory} (h : memWf m = true) : memWf (memSet a v m) = true := by
  rw [memWf_iff] at h ⊢
  simp only [undefAt_memSet]
  simp only [memSet]
  split
  · exact ⟨cellsRise_filter _ h.1, fun c hc => h.2 c (List.mem_filter.1 hc).1⟩
  · rename_i hz
    refine ⟨cellsRise_cellPut a v h.1, fun c hc => ?_⟩
    rcases mem_cellPut hc with rfl | hc
    · by_cases hu : undefAt m a = none
      · right
        intro hv
        exact hz ⟨by simp [hu], hv⟩
      · left
        exact Option.isSome_iff_ne_none.2 hu
    · exact h.2 c hc

/-- A write of bytes keeps the canonical form. -/
theorem memWf_memWrite (bs : Bytes) (a : Nat) {m : Memory} (h : memWf m = true) : memWf (memWrite a bs m) = true := by
  induction bs generalizing a m with
  | nil => exact h
  | cons v vs ih => exact ih (a + 1) (memWf_memSet a v h)

theorem memWf_wordsWritten (a n : Nat) {m : Memory} (h : memWf m = true) : memWf (wordsWritten a n m) = true := h

/-- A store keeps the canonical form of device memory. -/
theorem memWf_devStore (a : Nat) (bs : Bytes) {d : Dev} (h : memWf d.mem = true) : memWf (devStore a bs d).mem = true :=
  memWf_wordsWritten a bs.length (memWf_memWrite bs a h)

/-- A store keeps the canonical form of host memory. -/
theorem cellsWf_hostStore (a : Nat) (bs : Bytes) {d : Dev} (h : cellsWf d.host.mem = true) :
    cellsWf (hostStore a bs d).host.mem = true := by
  unfold hostStore
  split
  · exact h
  · exact cellsWf_cellsSet bs _ h

theorem regionHas_within {q r : Region} {u : MarchUnit} (h : regionWithin q r = true) (hu : regionHas q u = true) :
    regionHas r u = true := by
  cases q with
  | unit v =>
    have e : v = u := by simpa [regionHas] using hu
    subst e
    cases r <;> exact h
  | lpddr =>
    have e : r = .lpddr := by simpa [regionWithin] using h
    subst e
    exact hu
  | onChip =>
    have e : r = .onChip := by simpa [regionWithin] using h
    subst e
    exact hu
  | hall k =>
    cases r with
    | hall j =>
      have e : k = j := by simpa [regionWithin] using h
      subst e
      exact hu
    | onChip => cases u <;> simp [regionHas] at hu ⊢
    | _ => simp [regionWithin] at h
  | gallery k g =>
    cases r with
    | hall j =>
      have e : k = j := by simpa [regionWithin] using h
      subst e
      cases u with
      | scratch i t =>
        simp only [regionHas, Bool.and_eq_true] at hu ⊢
        exact hu.1
      | _ => simp [regionHas] at hu
    | gallery j f =>
      have e : k = j ∧ g = f := by simpa [regionWithin] using h
      obtain ⟨rfl, rfl⟩ := e
      exact hu
    | onChip => cases u <;> simp [regionHas] at hu ⊢
    | _ => simp [regionWithin] at h
  | span f n => cases u <;> simp [regionHas] at hu

/-- Every region but a span holds an address by the unit that the address lies in. -/
theorem regionAt_unit {r : Region} {m : Memory} {a : Nat} (h : ∀ f n, r ≠ .span f n) :
    regionAt m r a = (unitOf m a).any (regionHas r) := by
  cases r with
  | span f n => exact absurd rfl (h f n)
  | _ => unfold regionAt; cases unitOf m a <;> rfl

/-- What lies in a region lies in a region that holds it. -/
theorem regionAt_within {q r : Region} {m : Memory} {a : Nat} (h : regionWithin q r = true)
    (ha : regionAt m q a = true) : regionAt m r a = true := by
  by_cases hq : ∀ f n, q ≠ .span f n
  · have hr : ∀ f n, r ≠ .span f n := by
      intro f n e
      subst e
      cases q with
      | span f n => exact hq f n rfl
      | _ => simp [regionWithin, regionHas] at h
    rw [regionAt_unit hq] at ha
    rw [regionAt_unit hr]
    cases hu : unitOf m a with
    | none => rw [hu] at ha; cases ha
    | some u => rw [hu] at ha; exact regionHas_within h ha
  · have : ∃ f n, q = .span f n := by
      cases q <;> first | exact ⟨_, _, rfl⟩ | exact absurd (fun _ _ e => by cases e) hq
    obtain ⟨f, n, rfl⟩ := this
    cases r with
    | span b k =>
      simp only [regionWithin, regionAt, Bool.and_eq_true, decide_eq_true_eq] at h ha ⊢
      omega
    | _ => simp [regionWithin] at h

theorem find?_filter_skip {α : Type} (p q : α → Bool) (l : List α) (h : ∀ x ∈ l, p x = true → q x = true) :
    (l.filter q).find? p = l.find? p := by
  induction l with
  | nil => rfl
  | cons x t ih =>
    have ht := ih (fun y hy => h y (List.mem_cons_of_mem _ hy))
    by_cases hp : p x = true
    · have hq := h x (List.mem_cons_self ..) hp
      simp [hq, hp]
    · by_cases hq : q x = true
      · simp [hq, hp, ht]
      · simp [hq, hp, ht]

/-- A region whose content is lost: outside it nothing changes. -/
theorem undefAt_memMark {r : Region} {g : Option Nat} {m : Memory} {a : Nat} (h : regionAt m r a = false) :
    undefAt (memMark r g m) a = undefAt m a := by
  have hreg (k : Region) : regionAt (memMark r g m) k a = regionAt m k a := rfl
  have hf : (memMark r g m).marks.find? (fun x => regionAt m x.1 a) = m.marks.find? (fun x => regionAt m x.1 a) := by
    show ((r, g) :: m.marks.filter (fun k => !regionWithin k.1 r)).find? (fun x => regionAt m x.1 a) = _
    rw [List.find?_cons]
    simp only [h]
    refine find?_filter_skip _ _ _ (fun x _ hx => ?_)
    cases hw : regionWithin x.1 r with
    | false => rfl
    | true => rw [regionAt_within hw hx] at h; cases h
  unfold undefAt
  simp only [hreg, hf]

/-- Losing the content of a region keeps the canonical form. -/
theorem memWf_memMark (r : Region) (g : Option Nat) {m : Memory} (h : memWf m = true) : memWf (memMark r g m) = true := by
  rw [memWf_iff] at h ⊢
  refine ⟨cellsRise_filter _ h.1, fun c hc => ?_⟩
  have hm := List.mem_filter.1 hc
  have hr : regionAt m r c.1 = false := by simpa using hm.2
  rw [undefAt_memMark hr]
  exact h.2 c hm.1

/-- A byte outside a region whose content is lost reads as before. -/
theorem memByte_memMark {r : Region} {g : Option Nat} {m : Memory} {a : Nat} (h : regionAt m r a = false) :
    memByte (memMark r g m) a = memByte m a := by
  have h1 : cellGet a (memMark r g m).cells = cellGet a m.cells := cellGet_filter_in _ _ _ (fun _ => by simp [h])
  simp only [memByte, h1, unlisted, undefAt_memMark h]

theorem memWf_freshMark (r : Region) {d : Dev} (h : memWf d.mem = true) : memWf (freshMark r d).mem = true :=
  memWf_memMark r _ h

theorem memWf_zeroMark (r : Region) {d : Dev} (h : memWf d.mem = true) : memWf (zeroMark r d).mem = true :=
  memWf_memMark r _ h

theorem memWf_zeroFence {d : Dev} (h : memWf d.mem = true) : memWf (zeroFence d).mem = true := by
  rw [memWf_iff] at h ⊢
  exact ⟨cellsRise_filter _ h.1, fun c hc => h.2 c (List.mem_filter.1 hc).1⟩

/-- Both memories are in canonical form after reset. -/
theorem memoriesWf_at_reset : memWf State.reset.dev.mem = true ∧ cellsWf State.reset.dev.host.mem = true :=
  ⟨by decide, by decide⟩

end Sys2Proof.Laws
end

