-- ==== Sys2Proof/Laws/Act.lean ====
section
/-! SUPPORT. The steps of an op's body taken one by one, and what the shared reads and writes answer. -/

namespace Sys2Proof.Laws

open Sys2Proof Sys2Proof.Machine

/- The monad of bodies. -/

theorem act_bind {α β : Type} (f : Act α) (g : α → Act β) (d : Dev) :
    (f >>= g) d = (match f d with | .ok a d' => g a d' | .error e d' => .error e d') := by
  change EStateM.bind f g d = _
  unfold EStateM.bind
  cases f d <;> rfl

theorem bind_ok {α β : Type} {f : Act α} {g : α → Act β} {d d' : Dev} {a : α} (h : f d = .ok a d') :
    (f >>= g) d = g a d' := by
  rw [act_bind, h]

theorem bind_error {α β : Type} {f : Act α} {g : α → Act β} {d d' : Dev} {x : Stop} (h : f d = .error x d') :
    (f >>= g) d = .error x d' := by
  rw [act_bind, h]

/-- A body that answers has answered each of its steps. -/
theorem bind_inv {α β : Type} {f : Act α} {g : α → Act β} {d d' : Dev} {b : β} (h : (f >>= g) d = .ok b d') :
    ∃ a e, f d = .ok a e ∧ g a e = .ok b d' := by
  rw [act_bind] at h
  cases hf : f d with
  | ok a e => rw [hf] at h; exact ⟨a, e, rfl, h⟩
  | error x e => rw [hf] at h; cases h

theorem pure_ok {α : Type} {a : α} {d : Dev} : (pure a : Act α) d = .ok a d := rfl

theorem get_ok {d : Dev} : (get : Act Dev) d = .ok d d := rfl

theorem change_ok {f : Dev → Dev} {d : Dev} : change f d = .ok () (f d) := rfl

theorem fail_error {α : Type} {st detail : Nat} {d : Dev} :
    (failWith st detail : Act α) d = .error (.fail st detail) d := rfl

theorem ite_act {α : Type} {c : Prop} [Decidable c] {a b : Act α} {d : Dev} :
    (if c then a else b) d = if c then a d else b d := by
  split <;> rfl

theorem require_true {b : Bool} {st detail : Nat} {d : Dev} (h : b = true) : require b st detail d = .ok () d := by
  subst h; rfl

theorem require_false {b : Bool} {st detail : Nat} {d : Dev} (h : b = false) :
    require b st detail d = .error (.fail st detail) d := by
  subst h; rfl

theorem requireFmt_true {b : Bool} {item reason : Nat} {d : Dev} (h : b = true) :
    requireFmt b item reason d = .ok () d := by
  subst h; rfl

/- Contexts and addresses. -/

theorem needCtx_ok {d : Dev} {e : Entry} {c : Ctx} {env : OpEnv} (h : ctxIs d e c) (he : env.ctx = e.ctx := by rfl) :
    needCtx env d = .ok c d := by
  unfold needCtx
  rw [bind_ok get_ok, he]
  simp [h.1, h.2]
  rfl

theorem checkAddr_ok {a : Nat} {d : Dev} (h : addrForm a = true) : checkAddr a d = .ok () d := require_true h

theorem checkAddr_error {a : Nat} {d : Dev} (h : addrForm a = false) :
    checkAddr a d = .error (.fail stBadAddress (low 64 a)) d := require_false h

/-- A check of an address leaves the device. -/
theorem checkAddr_inv {a : Nat} {d d' : Dev} (h : checkAddr a d = .ok () d') : addrForm a = true ∧ d' = d := by
  cases hb : addrForm a with
  | false => rw [checkAddr_error hb] at h; cases h
  | true => rw [checkAddr_ok hb] at h; cases h; exact ⟨rfl, rfl⟩

/-- A check of a range leaves the device. -/
theorem checkRange_inv {a n : Nat} {d d' : Dev} (h : checkRange a n d = .ok () d') :
    d' = d ∧ (∀ i < n, mapped d.mem (a + i) = true ∧ reachable d (a + i) = true) := by
  unfold checkRange at h
  rw [bind_ok get_ok] at h
  have none_all {p : Nat → Bool} (hn : firstIn a n p = none) : ∀ i < n, p (a + i) = false := by
    intro i hi
    unfold firstIn at hn
    rw [Option.map_eq_none_iff, List.find?_eq_none] at hn
    simpa using hn i (List.mem_range.2 hi)
  cases h1 : firstIn a n (fun x => !mapped d.mem x) with
  | some x => simp only [h1] at h; cases h
  | none =>
    cases h2 : firstIn a n (fun x => !reachable d x) with
    | some x => simp only [h1, h2] at h; cases h
    | none =>
      cases h3 : firstIn a n (accessWaits d) with
      | some x => simp only [h1, h2, h3] at h; cases h
      | none =>
        simp only [h1, h2, h3] at h
        cases h
        exact ⟨rfl, fun i hi => ⟨by simpa using none_all h1 i hi, by simpa using none_all h2 i hi⟩⟩

/-- A read of device memory that answers: the bytes held, after the words have been checked. -/
theorem devRead_inv {a n : Nat} {d d' : Dev} {bs : Bytes} (h : devRead a n d = .ok bs d') :
    bs = memRead d.mem a n ∧ readWords (wordsOf a n) d = (none, d') := by
  unfold devRead at h
  obtain ⟨⟨x, bad⟩, e, h1, h2⟩ := bind_inv h
  unfold readPart at h1
  obtain ⟨⟨⟩, e1, hr, k⟩ := bind_inv h1
  obtain ⟨rfl, -⟩ := checkRange_inv hr
  rw [bind_ok get_ok] at k
  cases hw : readWords (wordsOf a n) e1 with
  | mk b d2 =>
    simp only [hw] at k
    cases b with
    | some w => cases k; cases h2
    | none => cases k; cases h2; exact ⟨rfl, rfl⟩

/-- A write of device memory that succeeds stores its bytes, after the words it covers in part have been read. -/
theorem devWrite_inv {a : Nat} {bs : Bytes} {d d' : Dev} (h : devWrite a bs d = .ok () d') :
    ∃ e, readWords (partWords a bs.length) d = (none, e) ∧ d' = devStore a bs e := by
  unfold devWrite at h
  obtain ⟨⟨⟩, e1, hr, k⟩ := bind_inv h
  obtain ⟨rfl, -⟩ := checkRange_inv hr
  rw [bind_ok get_ok] at k
  cases hw : readWords (partWords a bs.length) e1 with
  | mk b d2 =>
    simp only [hw] at k
    cases b with
    | some w => cases k
    | none => cases k; exact ⟨d2, rfl, rfl⟩

/-- Words without a pending injection or write-back that read well leave the device. -/
theorem readWords_quiet {l : List Nat} {d d' : Dev} (hi : d.fc.injected = []) (hb : d.mem.writeback = [])
    (h : readWords l d = (none, d')) : d' = d := by
  induction l generalizing d with
  | nil => cases h; rfl
  | cons w t ih =>
    have hn : injectionAt d w = none := by
      unfold injectionAt
      cases memSources d.mem w <;> simp [hi]
    unfold readWords at h
    cases hu : d.mem.ue.contains w with
    | true =>
      have hr : readWord w d = (false, reportUe w false d) := by simp only [readWord, hn, hu, if_true]
      simp only [hr] at h
      cases h
    | false =>
      have hr : readWord w d = (true, d) := by
        simp only [readWord, hn, hu, hb, List.contains_nil, Bool.false_eq_true, if_false]
      simp only [hr] at h
      exact ih hi hb h

theorem rd_device {e : OpEnv} {a n : Nat} {d : Dev} (hf : addrForm a = true) (hd : isHost a = false) :
    rd e a n d = devRead a n d := by
  unfold rd
  rw [bind_ok (checkAddr_ok hf)]
  simp [hd]

theorem wr_device {a : Nat} {bs : Bytes} {d : Dev} (hf : addrForm a = true) (hd : isHost a = false) :
    wr a bs d = devWrite a bs d := by
  unfold wr
  rw [bind_ok (checkAddr_ok hf)]
  simp [hd]

theorem wr_host {a : Nat} {bs : Bytes} {d : Dev} (hd : isHost a = true) (hw : hostHolds d = false) :
    wr a bs d = .ok () (hostStore a bs d) := by
  have hf : addrForm a = true := by simp [addrForm, hd]
  unfold wr
  rw [bind_ok (checkAddr_ok hf)]
  simp only [hd, if_true]
  unfold hostWrite
  rw [bind_ok get_ok]
  simp [hw]
  rfl

/- What the bookkeeping of queues changes: the curator's queues and the progress of contexts, and nothing else. -/

/-- Only the curator's state and the contexts differ. -/
def OnlyWork (d e : Dev) : Prop := ∃ c x, e = { d with cur := c, ctxs := x }

theorem OnlyWork.refl (d : Dev) : OnlyWork d d := ⟨d.cur, d.ctxs, rfl⟩

theorem OnlyWork.trans {d e f : Dev} (h : OnlyWork d e) (g : OnlyWork e f) : OnlyWork d f := by
  obtain ⟨_, _, rfl⟩ := h
  obtain ⟨_, _, rfl⟩ := g
  exact ⟨_, _, rfl⟩

theorem OnlyWork.fields {d e : Dev} (h : OnlyWork d e) :
    e.mem = d.mem ∧ e.host = d.host ∧ e.chain = d.chain ∧ e.fc = d.fc ∧ e.actor = d.actor ∧ e.cat = d.cat ∧
      e.trust = d.trust ∧ e.own = d.own ∧ e.ent = d.ent ∧ e.free = d.free := by
  obtain ⟨_, _, rfl⟩ := h
  exact ⟨rfl, rfl, rfl, rfl, rfl, rfl, rfl, rfl, rfl, rfl⟩

theorem OnlyWork.foldl {α : Type} (f : Dev → α → Dev) (l : List α) (h : ∀ d x, OnlyWork d (f d x)) (d : Dev) :
    OnlyWork d (l.foldl f d) := by
  induction l generalizing d with
  | nil => exact .refl d
  | cons x t ih => exact (h d x).trans (ih (f d x))

theorem setQueue_only (q : QRef) (x : Queue) (d : Dev) : OnlyWork d (setQueue q x d) := by
  cases q <;> exact ⟨_, d.ctxs, rfl⟩

theorem setCtx_only (c : Nat) (x : Ctx) (d : Dev) : OnlyWork d (setCtx c x d) := ⟨d.cur, _, rfl⟩

theorem modCtx_only (c : Nat) (f : Ctx → Ctx) (d : Dev) : OnlyWork d (modCtx c f d) := by
  unfold modCtx
  split
  · exact setCtx_only ..
  · exact .refl d

theorem setEntry_only (q : QRef) (e : Option Entry) (d : Dev) : OnlyWork d (setEntry q e d) := setQueue_only ..

theorem modIssue_only (q : QRef) (i : Nat) (f : OpIssue → OpIssue) (d : Dev) : OnlyWork d (modIssue q i f d) := by
  unfold modIssue
  split
  · exact setEntry_only ..
  · exact .refl d

theorem opOutcome_only (q : QRef) (i : Nat) (o : OpOut) (d : Dev) : OnlyWork d (opOutcome q i o d) := modIssue_only ..

theorem addIssue_only (q : QRef) (i : OpIssue) (n : Nat) (d : Dev) : OnlyWork d (addIssue q i n d) := by
  unfold addIssue
  split
  · exact setEntry_only ..
  · exact .refl d

theorem opSteps_only (q : QRef) (n : Nat) (d : Dev) : OnlyWork d (opSteps q n d) := by
  unfold opSteps
  split
  · exact .refl d
  · dsimp only
    split
    · exact (setQueue_only ..).trans (modCtx_only ..)
    · exact setQueue_only ..

theorem wakeQueue_only (q : QRef) (d : Dev) : OnlyWork d (wakeQueue q d) := by
  unfold wakeQueue
  split
  · exact .refl d
  · refine OnlyWork.foldl _ _ (fun d i => ?_) d
    split
    · exact (opOutcome_only ..).trans (opSteps_only ..)
    · exact .refl d

/-- Looking at the fences again changes queues and progress only (R325). -/
theorem wakeFences_only (d : Dev) : OnlyWork d (wakeFences d) :=
  OnlyWork.foldl _ _ (fun d q => wakeQueue_only q d) d

theorem wakeFences_mem (d : Dev) : (wakeFences d).mem = d.mem := (wakeFences_only d).fields.1

theorem wakeFences_host (d : Dev) : (wakeFences d).host = d.host := (wakeFences_only d).fields.2.1

end Sys2Proof.Laws
end

