-- ==== Sys2Proof/Laws/Links.lean ====
section
/-! SUPPORT. What sending on a link can change, and host accesses that wait (R223 to R230, R268, R339). -/

namespace Sys2Proof.Laws

open Sys2Proof Sys2Proof.Machine

/-- Two devices that differ at most in the chain and in telemetry. -/
def OnlyChain (d e : Dev) : Prop := ∃ c t, e = { d with chain := c, tele := t }

theorem OnlyChain.refl (d : Dev) : OnlyChain d d := ⟨d.chain, d.tele, rfl⟩

theorem OnlyChain.trans {d e f : Dev} (h : OnlyChain d e) (g : OnlyChain e f) : OnlyChain d f := by
  obtain ⟨_, _, rfl⟩ := h
  obtain ⟨c, t, rfl⟩ := g
  exact ⟨c, t, rfl⟩

theorem OnlyChain.fields {d e : Dev} (h : OnlyChain d e) :
    e.mem = d.mem ∧ e.host = d.host ∧ e.cur = d.cur ∧ e.ctxs = d.ctxs ∧ e.avail = d.avail ∧ e.fc = d.fc ∧ e.cat = d.cat := by
  obtain ⟨_, _, rfl⟩ := h
  exact ⟨rfl, rfl, rfl, rfl, rfl, rfl, rfl⟩

theorem OnlyChain.foldl {α : Type} (f : Dev → α → Dev) (l : List α) (h : ∀ d x, OnlyChain d (f d x)) (d : Dev) :
    OnlyChain d (l.foldl f d) := by
  induction l generalizing d with
  | nil => exact .refl d
  | cons x t ih => exact (h d x).trans (ih _)

theorem setLink_only (n : Nat) (l : Link) (d : Dev) : OnlyChain d (setLink n l d) := ⟨_, d.tele, rfl⟩

theorem freePlace_only (f : TxFlit) (d : Dev) : OnlyChain d (freePlace f d) := by
  unfold freePlace
  split
  · exact .refl d
  · exact (setLink_only ..).trans (setLink_only ..)

/-- A link that sends what it can changes links and counters only (R225, R226). -/
theorem runLink_only (n : Nat) (d : Dev) : OnlyChain d (runLink n d) := by
  unfold runLink
  split
  · exact .refl d
  · refine OnlyChain.trans ?_ (OnlyChain.foldl _ _ (fun d f => freePlace_only f d) _)
    exact ⟨_, _, rfl⟩

theorem queueFlits_only (n : Nat) (l : List TxFlit) (d : Dev) : OnlyChain d (queueFlits n l d) :=
  (setLink_only ..).trans (runLink_only ..)

/-- A message of a partitioned run leaves, or is discarded: links and counters change at most (R230, R233). -/
theorem sendTo_only (dest : Nat) (m : Msg) (d : Dev) : OnlyChain d (sendTo dest m d) := by
  unfold sendTo
  split
  · exact .refl d
  · split
    · exact queueFlits_only ..
    · exact .refl d

/-- Forwarding to the mirror's partner changes links and counters only (R236). -/
theorem forwardLog_only (c : Nat) (e : MirrorEntry) (d : Dev) : OnlyChain d (forwardLog c e d) := by
  unfold forwardLog sendMirror
  split
  · split
    · exact queueFlits_only ..
    · exact .refl d
  · exact .refl d

/-- A safe state sends nothing (R403). -/
theorem runLink_safe {n : Nat} {d : Dev} (h : d.fc.safeState = true) : runLink n d = d := by simp [runLink, h]

end Sys2Proof.Laws
end

