-- ==== Sys2Proof/WellFormed.lean ====
section
/-! DEFINITION. Well-formed commands: the operand ranges that the types of Syntax.lean do not hold by themselves. -/

namespace Sys2Proof

/-- A read of at least one byte, or a write of at least one. -/
def Bar4Op.wf : Bar4Op → Bool
  | .read n => decide (1 ≤ n)
  | .write data => !data.isEmpty

/-- The bank of an LPDDR5X refresh: JESD209-5C parts have at most 16 banks in each of 2 ranks (R256, R260). -/
def bankWf (bank : Nat) : Bool := decide (bank < 32)

/-- One credit count for each virtual channel (R226). -/
def creditsWf (l : List Nat) : Bool := l.length == 4

/-- The operands stand in the ranges that the command's rule gives. -/
def Instr.wf : Instr → Bool
  | .bar4Access _ access => access.wf
  | .lpddrRefresh _ bank => bankWf bank
  | .flitAck _ _ trailer => creditsWf trailer.credits
  | .entropyBlockDone _ raw => raw.length == 128
  | .calWriteSetting _ (some b) => b.length == 64
  | .raiseFloor _ (some b) => b.length == 64
  | .pcieRetrain gen width => decide (1 ≤ gen.val) && decide (gen.val ≤ 6) && decide (1 ≤ width.val)
  | .i3cPrivateWrite data => decide (4 ≤ data.length)
  | _ => true

end Sys2Proof
end

