-- ==== Sys2Proof/Laws/PerInstr.lean ====
section
/-! SUPPORT. Statements about every command as syntax, command by command. The family Operands: a command is well formed
exactly when its operands stand in the ranges that its rule gives, said here in words of arithmetic. -/

namespace Sys2Proof.Laws.Operands

open Sys2Proof

/-- The ranges of a command's operands: a BAR4 access moves at least one byte; a refresh names one of 32 banks; an
acknowledgement returns credits of 4 virtual channels; 1,024 raw bits are 128 bytes; a generation read back is 64 bytes;
a PCI Express link trains at generation 1 to 6 and at least one lane; an I3C write begins with 4 bytes of offset. -/
def ranges : Instr → Prop
  | .bar4Access _ (.read n) => 1 ≤ n
  | .bar4Access _ (.write data) => data ≠ []
  | .lpddrRefresh _ bank => bank < 32
  | .flitAck _ _ trailer => trailer.credits.length = 4
  | .entropyBlockDone _ raw => raw.length = 128
  | .calWriteSetting _ (some b) => b.length = 64
  | .raiseFloor _ (some b) => b.length = 64
  | .pcieRetrain gen width => 1 ≤ gen.val ∧ gen.val ≤ 6 ∧ 1 ≤ width.val
  | .i3cPrivateWrite data => 4 ≤ data.length
  | _ => True

def Statement (i : Instr) : Prop := i.wf = true ↔ ranges i

theorem sqTailDoorbell (q : QRef) (value : BitVec 32) : Statement (.sqTailDoorbell q value) :=
  ⟨fun _ => trivial, fun _ => rfl⟩
theorem cqHeadDoorbell (q : QRef) (value : BitVec 32) : Statement (.cqHeadDoorbell q value) :=
  ⟨fun _ => trivial, fun _ => rfl⟩
theorem kernelQueueEnable (k : Fin 16) (config : BitVec 32) : Statement (.kernelQueueEnable k config) :=
  ⟨fun _ => trivial, fun _ => rfl⟩
theorem kernelQueueDisable (k : Fin 16) (config : BitVec 32) : Statement (.kernelQueueDisable k config) :=
  ⟨fun _ => trivial, fun _ => rfl⟩
theorem kernelQueueAbort (k : Fin 16) : Statement (.kernelQueueAbort k) := ⟨fun _ => trivial, fun _ => rfl⟩
theorem msixUnmask (vector : Fin 2048) : Statement (.msixUnmask vector) := ⟨fun _ => trivial, fun _ => rfl⟩
theorem registerWrite (offset : BitVec 26) (size : WSize) (value : BitVec 64) : Statement (.registerWrite offset size value) :=
  ⟨fun _ => trivial, fun _ => rfl⟩
theorem entryDispatch : Statement .entryDispatch := ⟨fun _ => trivial, fun _ => rfl⟩
theorem entryTerminalCompletion (q : QRef) : Statement (.entryTerminalCompletion q) := ⟨fun _ => trivial, fun _ => rfl⟩
theorem stallWatchSample : Statement .stallWatchSample := ⟨fun _ => trivial, fun _ => rfl⟩
theorem nop (q : QRef) : Statement (.nop q) := ⟨fun _ => trivial, fun _ => rfl⟩
theorem waitFence (q : QRef) : Statement (.waitFence q) := ⟨fun _ => trivial, fun _ => rfl⟩
theorem waitFencePoll (q : QRef) : Statement (.waitFencePoll q) := ⟨fun _ => trivial, fun _ => rfl⟩
theorem signalFence (q : QRef) : Statement (.signalFence q) := ⟨fun _ => trivial, fun _ => rfl⟩
theorem cond (q : QRef) : Statement (.cond q) := ⟨fun _ => trivial, fun _ => rfl⟩
theorem loop (q : QRef) : Statement (.loop q) := ⟨fun _ => trivial, fun _ => rfl⟩
theorem copy (q : QRef) : Statement (.copy q) := ⟨fun _ => trivial, fun _ => rfl⟩
theorem fill (q : QRef) : Statement (.fill q) := ⟨fun _ => trivial, fun _ => rfl⟩
theorem rngFill (q : QRef) : Statement (.rngFill q) := ⟨fun _ => trivial, fun _ => rfl⟩
theorem loadProblem (q : QRef) : Statement (.loadProblem q) := ⟨fun _ => trivial, fun _ => rfl⟩
theorem updateCoeffs (q : QRef) : Statement (.updateCoeffs q) := ⟨fun _ => trivial, fun _ => rfl⟩
theorem setSchedule (q : QRef) : Statement (.setSchedule q) := ⟨fun _ => trivial, fun _ => rfl⟩
theorem anneal (q : QRef) : Statement (.anneal q) := ⟨fun _ => trivial, fun _ => rfl⟩
theorem stand (q : QRef) : Statement (.stand q) := ⟨fun _ => trivial, fun _ => rfl⟩
theorem readState (q : QRef) : Statement (.readState q) := ⟨fun _ => trivial, fun _ => rfl⟩
theorem readTrace (q : QRef) (ringAddr ringEntries first count destAddr : BitVec 64) : Statement (.readTrace q ringAddr ringEntries first count destAddr) :=
  ⟨fun _ => trivial, fun _ => rfl⟩
theorem boundaryLoad (q : QRef) : Statement (.boundaryLoad q) := ⟨fun _ => trivial, fun _ => rfl⟩
theorem matmul (q : QRef) : Statement (.matmul q) := ⟨fun _ => trivial, fun _ => rfl⟩
theorem batchedMatmul (q : QRef) : Statement (.batchedMatmul q) := ⟨fun _ => trivial, fun _ => rfl⟩
theorem reduce (q : QRef) : Statement (.reduce q) := ⟨fun _ => trivial, fun _ => rfl⟩
theorem elementwise (q : QRef) : Statement (.elementwise q) := ⟨fun _ => trivial, fun _ => rfl⟩
theorem gather (q : QRef) : Statement (.gather q) := ⟨fun _ => trivial, fun _ => rfl⟩
theorem scatter (q : QRef) : Statement (.scatter q) := ⟨fun _ => trivial, fun _ => rfl⟩
theorem convert (q : QRef) : Statement (.convert q) := ⟨fun _ => trivial, fun _ => rfl⟩
theorem drain (q : QRef) : Statement (.drain q) := ⟨fun _ => trivial, fun _ => rfl⟩
theorem tileSwap (c : CtxId) (h : Hall) (t : HTread) (granule : Fin 32) : Statement (.tileSwap c h t granule) :=
  ⟨fun _ => trivial, fun _ => rfl⟩
theorem tileDrainEnd (c : CtxId) (h : Hall) (t : HTread) : Statement (.tileDrainEnd c h t) :=
  ⟨fun _ => trivial, fun _ => rfl⟩
theorem contextSwitch (h : Hall) (t : HTread) (c : CtxId) : Statement (.contextSwitch h t c) :=
  ⟨fun _ => trivial, fun _ => rfl⟩
theorem flightBuild (q : QRef) : Statement (.flightBuild q) := ⟨fun _ => trivial, fun _ => rfl⟩
theorem flightRun (q : QRef) : Statement (.flightRun q) := ⟨fun _ => trivial, fun _ => rfl⟩
theorem flightTear (q : QRef) : Statement (.flightTear q) := ⟨fun _ => trivial, fun _ => rfl⟩
theorem contextCreate (q : QRef) : Statement (.contextCreate q) := ⟨fun _ => trivial, fun _ => rfl⟩
theorem contextDestroy (q : QRef) : Statement (.contextDestroy q) := ⟨fun _ => trivial, fun _ => rfl⟩
theorem place (q : QRef) : Statement (.place q) := ⟨fun _ => trivial, fun _ => rfl⟩
theorem preset (q : QRef) : Statement (.preset q) := ⟨fun _ => trivial, fun _ => rfl⟩
theorem hallCeiling (q : QRef) : Statement (.hallCeiling q) := ⟨fun _ => trivial, fun _ => rfl⟩
theorem hallOff (q : QRef) : Statement (.hallOff q) := ⟨fun _ => trivial, fun _ => rfl⟩
theorem hallOn (q : QRef) (findings : List MarchFinding) : Statement (.hallOn q findings) :=
  ⟨fun _ => trivial, fun _ => rfl⟩
theorem setVf (q : QRef) : Statement (.setVf q) := ⟨fun _ => trivial, fun _ => rfl⟩
theorem clearVf (q : QRef) : Statement (.clearVf q) := ⟨fun _ => trivial, fun _ => rfl⟩
theorem selftest (q : QRef) : Statement (.selftest q) := ⟨fun _ => trivial, fun _ => rfl⟩
theorem calibrate (q : QRef) (failedChannels : BitVec 32) : Statement (.calibrate q failedChannels) :=
  ⟨fun _ => trivial, fun _ => rfl⟩
theorem limits (q : QRef) : Statement (.limits q) := ⟨fun _ => trivial, fun _ => rfl⟩
theorem linkEnable (q : QRef) : Statement (.linkEnable q) := ⟨fun _ => trivial, fun _ => rfl⟩
theorem linkDisable (q : QRef) : Statement (.linkDisable q) := ⟨fun _ => trivial, fun _ => rfl⟩
theorem retrain (q : QRef) : Statement (.retrain q) := ⟨fun _ => trivial, fun _ => rfl⟩
theorem routes (q : QRef) : Statement (.routes q) := ⟨fun _ => trivial, fun _ => rfl⟩
theorem linkStatus (q : QRef) : Statement (.linkStatus q) := ⟨fun _ => trivial, fun _ => rfl⟩
theorem pair (q : QRef) : Statement (.pair q) := ⟨fun _ => trivial, fun _ => rfl⟩
theorem unpair (q : QRef) : Statement (.unpair q) := ⟨fun _ => trivial, fun _ => rfl⟩
theorem attach (q : QRef) : Statement (.attach q) := ⟨fun _ => trivial, fun _ => rfl⟩
theorem detach (q : QRef) : Statement (.detach q) := ⟨fun _ => trivial, fun _ => rfl⟩
theorem queueCreate (q : QRef) : Statement (.queueCreate q) := ⟨fun _ => trivial, fun _ => rfl⟩
theorem queueDestroy (q : QRef) : Statement (.queueDestroy q) := ⟨fun _ => trivial, fun _ => rfl⟩
theorem queueEnable (q : QRef) : Statement (.queueEnable q) := ⟨fun _ => trivial, fun _ => rfl⟩
theorem queueDisable (q : QRef) : Statement (.queueDisable q) := ⟨fun _ => trivial, fun _ => rfl⟩
theorem queueAbort (q : QRef) : Statement (.queueAbort q) := ⟨fun _ => trivial, fun _ => rfl⟩
theorem contextDisable (q : QRef) : Statement (.contextDisable q) := ⟨fun _ => trivial, fun _ => rfl⟩
theorem contextEnable (q : QRef) : Statement (.contextEnable q) := ⟨fun _ => trivial, fun _ => rfl⟩
theorem watch (q : QRef) : Statement (.watch q) := ⟨fun _ => trivial, fun _ => rfl⟩
theorem phaseStart (c : CtxId) (h : Hall) (g : Gallery) : Statement (.phaseStart c h g) :=
  ⟨fun _ => trivial, fun _ => rfl⟩
theorem scanRound (c : CtxId) (block : Fin 2560) (replica : Fin 64) : Statement (.scanRound c block replica) :=
  ⟨fun _ => trivial, fun _ => rfl⟩
theorem tournamentRound (c : CtxId) (block : Fin 2560) (replica : Fin 64) : Statement (.tournamentRound c block replica) :=
  ⟨fun _ => trivial, fun _ => rfl⟩
theorem clusterDecision (c : CtxId) (block : Fin 2560) : Statement (.clusterDecision c block) :=
  ⟨fun _ => trivial, fun _ => rfl⟩
theorem flipSlotGrant (h : Hall) : Statement (.flipSlotGrant h) := ⟨fun _ => trivial, fun _ => rfl⟩
theorem sweepEnd (c : CtxId) : Statement (.sweepEnd c) := ⟨fun _ => trivial, fun _ => rfl⟩
theorem traceStagingDrain (c : CtxId) : Statement (.traceStagingDrain c) := ⟨fun _ => trivial, fun _ => rfl⟩
theorem decisionRingSpace (channel : Fin 64) : Statement (.decisionRingSpace channel) :=
  ⟨fun _ => trivial, fun _ => rfl⟩
theorem paceRelease (c : CtxId) : Statement (.paceRelease c) := ⟨fun _ => trivial, fun _ => rfl⟩
theorem computeFiring (c : CtxId) (f : Fin 4) (step : Fin 16) : Statement (.computeFiring c f step) :=
  ⟨fun _ => trivial, fun _ => rfl⟩
theorem bodyOpIssue (c : CtxId) (f : Fin 4) (step : Fin 16) : Statement (.bodyOpIssue c f step) :=
  ⟨fun _ => trivial, fun _ => rfl⟩
theorem firingEnd (c : CtxId) (f : Fin 4) (step : Fin 16) : Statement (.firingEnd c f step) :=
  ⟨fun _ => trivial, fun _ => rfl⟩
theorem streamSlotNotice (c : CtxId) (f : Fin 4) (stream : Fin 96) : Statement (.streamSlotNotice c f stream) :=
  ⟨fun _ => trivial, fun _ => rfl⟩
theorem streamCredit (c : CtxId) (f : Fin 4) (stream : Fin 96) : Statement (.streamCredit c f stream) :=
  ⟨fun _ => trivial, fun _ => rfl⟩
theorem deltaRecordArrive (c : CtxId) (f : Fin 4) (stream : Fin 96) : Statement (.deltaRecordArrive c f stream) :=
  ⟨fun _ => trivial, fun _ => rfl⟩
theorem ingestRecord (c : CtxId) (f : Fin 4) (step : Fin 16) : Statement (.ingestRecord c f step) :=
  ⟨fun _ => trivial, fun _ => rfl⟩
theorem tailPoll (c : CtxId) (f : Fin 4) (step : Fin 16) : Statement (.tailPoll c f step) :=
  ⟨fun _ => trivial, fun _ => rfl⟩
theorem hello (c : CtxId) (message : HelloMsg) : Statement (.hello c message) := ⟨fun _ => trivial, fun _ => rfl⟩
theorem newel (c : CtxId) (part : Fin 2048) (epoch bitCount : Nat) (crc : BitVec 32) : Statement (.newel c part epoch bitCount crc) :=
  ⟨fun _ => trivial, fun _ => rfl⟩
theorem frame (c : CtxId) (part : Fin 2048) (epoch : Nat) (values : List Bool) : Statement (.frame c part epoch values) :=
  ⟨fun _ => trivial, fun _ => rfl⟩
theorem resend (c : CtxId) (part : Fin 2048) (epoch : Nat) : Statement (.resend c part epoch) :=
  ⟨fun _ => trivial, fun _ => rfl⟩
theorem checkUp (c : CtxId) (part : Fin 2048) (epoch : Nat) (sumA sumB : Int) (parts : Nat) : Statement (.checkUp c part epoch sumA sumB parts) :=
  ⟨fun _ => trivial, fun _ => rfl⟩
theorem verdict (c : CtxId) (message : VerdictMsg) : Statement (.verdict c message) := ⟨fun _ => trivial, fun _ => rfl⟩
theorem endNotice (c : CtxId) (part : Fin 2048) (kind : EndKind) : Statement (.endNotice c part kind) :=
  ⟨fun _ => trivial, fun _ => rfl⟩
theorem ingest (tag : BitVec 16) (link : LinkId) (data : Bytes) : Statement (.ingest tag link data) :=
  ⟨fun _ => trivial, fun _ => rfl⟩
theorem linkMgmt (link : LinkId) (message : LinkMgmtMsg) : Statement (.linkMgmt link message) :=
  ⟨fun _ => trivial, fun _ => rfl⟩
theorem nak (link : LinkId) (ackSeq : Fin 4096) : Statement (.nak link ackSeq) := ⟨fun _ => trivial, fun _ => rfl⟩
theorem linkTrained (mode : TrainedLink) : Statement (.linkTrained mode) := ⟨fun _ => trivial, fun _ => rfl⟩
theorem linkCandidateTimeout (link : LinkId) : Statement (.linkCandidateTimeout link) :=
  ⟨fun _ => trivial, fun _ => rfl⟩
theorem linkSilent (link : LinkId) : Statement (.linkSilent link) := ⟨fun _ => trivial, fun _ => rfl⟩
theorem linkRetryTimer (link : LinkId) : Statement (.linkRetryTimer link) := ⟨fun _ => trivial, fun _ => rfl⟩
theorem mirrorBeatSend : Statement .mirrorBeatSend := ⟨fun _ => trivial, fun _ => rfl⟩
theorem mirrorLog (c : CtxId) (entry : MirrorEntry) : Statement (.mirrorLog c entry) := ⟨fun _ => trivial, fun _ => rfl⟩
theorem mirrorState (c : CtxId) (point : MirrorPoint) : Statement (.mirrorState c point) :=
  ⟨fun _ => trivial, fun _ => rfl⟩
theorem mirrorPointReached (c : CtxId) : Statement (.mirrorPointReached c) := ⟨fun _ => trivial, fun _ => rfl⟩
theorem aliveInEdge (level : Bool) : Statement (.aliveInEdge level) := ⟨fun _ => trivial, fun _ => rfl⟩
theorem aliveInTimeout : Statement .aliveInTimeout := ⟨fun _ => trivial, fun _ => rfl⟩
theorem secondaryLinksSilent : Statement .secondaryLinksSilent := ⟨fun _ => trivial, fun _ => rfl⟩
theorem primaryLinksSilent : Statement .primaryLinksSilent := ⟨fun _ => trivial, fun _ => rfl⟩
theorem bar4Access (offset : BitVec 39) (access : Bar4Op) : Statement (.bar4Access offset access) := by
  cases access with
  | read n => simp [Statement, ranges, Instr.wf, Bar4Op.wf]
  | write data => cases data <;> simp [Statement, ranges, Instr.wf, Bar4Op.wf]
theorem configRequest (request : CfgReq) : Statement (.configRequest request) := ⟨fun _ => trivial, fun _ => rfl⟩
theorem hostCompletion (q : QRef) (op : Fin 32768) (addr : BitVec 63) (outcome : HostOutcome) (data : Bytes) : Statement (.hostCompletion q op addr outcome data) :=
  ⟨fun _ => trivial, fun _ => rfl⟩
theorem pcieRetrain (gen width : Fin 17) : Statement (.pcieRetrain gen width) := by
  simp [Statement, ranges, Instr.wf, and_assoc]
theorem d3hotEnter : Statement .d3hotEnter := ⟨fun _ => trivial, fun _ => rfl⟩
theorem d0Return : Statement .d0Return := ⟨fun _ => trivial, fun _ => rfl⟩
theorem getCaps (ch : Chan) : Statement (.getCaps ch) := ⟨fun _ => trivial, fun _ => rfl⟩
theorem ownClaim (ch : Chan) : Statement (.ownClaim ch) := ⟨fun _ => trivial, fun _ => rfl⟩
theorem ownRelease (ch : Chan) : Statement (.ownRelease ch) := ⟨fun _ => trivial, fun _ => rfl⟩
theorem ownHandover (ch : Chan) : Statement (.ownHandover ch) := ⟨fun _ => trivial, fun _ => rfl⟩
theorem handoverLapse : Statement .handoverLapse := ⟨fun _ => trivial, fun _ => rfl⟩
theorem ownerSilent : Statement .ownerSilent := ⟨fun _ => trivial, fun _ => rfl⟩
theorem heartbeat (value : BitVec 32) : Statement (.heartbeat value) := ⟨fun _ => trivial, fun _ => rfl⟩
theorem expertEnable (ch : Chan) : Statement (.expertEnable ch) := ⟨fun _ => trivial, fun _ => rfl⟩
theorem calRead (ch : Chan) : Statement (.calRead ch) := ⟨fun _ => trivial, fun _ => rfl⟩
theorem calWriteSetting (ch : Chan) (readBack : Option Bytes) : Statement (.calWriteSetting ch readBack) := by
  cases readBack <;> simp [Statement, ranges, Instr.wf]
theorem calWriteBegin (ch : Chan) : Statement (.calWriteBegin ch) := ⟨fun _ => trivial, fun _ => rfl⟩
theorem calWriteData (ch : Chan) : Statement (.calWriteData ch) := ⟨fun _ => trivial, fun _ => rfl⟩
theorem calWriteCommit (ch : Chan) : Statement (.calWriteCommit ch) := ⟨fun _ => trivial, fun _ => rfl⟩
theorem logRead (ch : Chan) : Statement (.logRead ch) := ⟨fun _ => trivial, fun _ => rfl⟩
theorem logClear (ch : Chan) : Statement (.logClear ch) := ⟨fun _ => trivial, fun _ => rfl⟩
theorem fwUpdateBegin (ch : Chan) : Statement (.fwUpdateBegin ch) := ⟨fun _ => trivial, fun _ => rfl⟩
theorem fwUpdateWrite (ch : Chan) : Statement (.fwUpdateWrite ch) := ⟨fun _ => trivial, fun _ => rfl⟩
theorem fwUpdateCommit (ch : Chan) : Statement (.fwUpdateCommit ch) := ⟨fun _ => trivial, fun _ => rfl⟩
theorem fwUpdateAbort (ch : Chan) : Statement (.fwUpdateAbort ch) := ⟨fun _ => trivial, fun _ => rfl⟩
theorem raiseFloor (ch : Chan) (readBack : Option Bytes) : Statement (.raiseFloor ch readBack) := by
  cases readBack <;> simp [Statement, ranges, Instr.wf]
theorem lifecycleAdvance (ch : Chan) : Statement (.lifecycleAdvance ch) := ⟨fun _ => trivial, fun _ => rfl⟩
theorem quote (ch : Chan) : Statement (.quote ch) := ⟨fun _ => trivial, fun _ => rfl⟩
theorem publicKey (ch : Chan) : Statement (.publicKey ch) := ⟨fun _ => trivial, fun _ => rfl⟩
theorem certRead (ch : Chan) : Statement (.certRead ch) := ⟨fun _ => trivial, fun _ => rfl⟩
theorem nonce (ch : Chan) : Statement (.nonce ch) := ⟨fun _ => trivial, fun _ => rfl⟩
theorem keygen (ch : Chan) : Statement (.keygen ch) := ⟨fun _ => trivial, fun _ => rfl⟩
theorem rngBytes (ch : Chan) : Statement (.rngBytes ch) := ⟨fun _ => trivial, fun _ => rfl⟩
theorem faultConfigRead (ch : Chan) : Statement (.faultConfigRead ch) := ⟨fun _ => trivial, fun _ => rfl⟩
theorem faultConfigSet (ch : Chan) : Statement (.faultConfigSet ch) := ⟨fun _ => trivial, fun _ => rfl⟩
theorem faultConfigAck (ch : Chan) : Statement (.faultConfigAck ch) := ⟨fun _ => trivial, fun _ => rfl⟩
theorem faultConfigClear (ch : Chan) : Statement (.faultConfigClear ch) := ⟨fun _ => trivial, fun _ => rfl⟩
theorem faultConfigWindow (ch : Chan) : Statement (.faultConfigWindow ch) := ⟨fun _ => trivial, fun _ => rfl⟩
theorem faultConfigInject (ch : Chan) : Statement (.faultConfigInject ch) := ⟨fun _ => trivial, fun _ => rfl⟩
theorem powerCap (ch : Chan) : Statement (.powerCap ch) := ⟨fun _ => trivial, fun _ => rfl⟩
theorem selftestReq (ch : Chan) : Statement (.selftestReq ch) := ⟨fun _ => trivial, fun _ => rfl⟩
theorem chainIdSet (ch : Chan) : Statement (.chainIdSet ch) := ⟨fun _ => trivial, fun _ => rfl⟩
theorem i3cDynamicAddress (address : BitVec 7) : Statement (.i3cDynamicAddress address) :=
  ⟨fun _ => trivial, fun _ => rfl⟩
theorem i3cPrivateWrite (data : Bytes) : Statement (.i3cPrivateWrite data) := by
  simp [Statement, ranges, Instr.wf]
theorem mboxAccess (dr : BitVec 64) : Statement (.mboxAccess dr) := ⟨fun _ => trivial, fun _ => rfl⟩
theorem rawDataRead : Statement .rawDataRead := ⟨fun _ => trivial, fun _ => rfl⟩
theorem entropyBlockDone (src : Fin 8) (raw : Bytes) : Statement (.entropyBlockDone src raw) := by
  simp [Statement, ranges, Instr.wf]
theorem healthTestFailure (src : Fin 8) (proportion : Bool) : Statement (.healthTestFailure src proportion) :=
  ⟨fun _ => trivial, fun _ => rfl⟩
theorem entropyStartupTestEnd (src : Fin 8) (pass : Bool) : Statement (.entropyStartupTestEnd src pass) :=
  ⟨fun _ => trivial, fun _ => rfl⟩
theorem entropyRequest : Statement .entropyRequest := ⟨fun _ => trivial, fun _ => rfl⟩
theorem faultAssert (src : Source) (rail : Bool) (detail : BitVec 64) : Statement (.faultAssert src rail detail) :=
  ⟨fun _ => trivial, fun _ => rfl⟩
theorem blockResetEnd (ended : ResetEnd) : Statement (.blockResetEnd ended) := ⟨fun _ => trivial, fun _ => rfl⟩
theorem curatorTrapEnd (src : Source) : Statement (.curatorTrapEnd src) := ⟨fun _ => trivial, fun _ => rfl⟩
theorem fallbackExpiry (src : Source) : Statement (.fallbackExpiry src) := ⟨fun _ => trivial, fun _ => rfl⟩
theorem fcAck (value : BitVec 32) : Statement (.fcAck value) := ⟨fun _ => trivial, fun _ => rfl⟩
theorem fcInject (value : BitVec 32) : Statement (.fcInject value) := ⟨fun _ => trivial, fun _ => rfl⟩
theorem injectedConditionClear (src : Source) : Statement (.injectedConditionClear src) :=
  ⟨fun _ => trivial, fun _ => rfl⟩
theorem fcStatusClear (word : Fin 16) (value : BitVec 32) : Statement (.fcStatusClear word value) :=
  ⟨fun _ => trivial, fun _ => rfl⟩
theorem fcFallbackWrite (value : BitVec 32) : Statement (.fcFallbackWrite value) := ⟨fun _ => trivial, fun _ => rfl⟩
theorem fcConfigWrite (src : Source) (value : BitVec 32) : Statement (.fcConfigWrite src value) :=
  ⟨fun _ => trivial, fun _ => rfl⟩
theorem catalogueTake : Statement .catalogueTake := ⟨fun _ => trivial, fun _ => rfl⟩
theorem catalogueRecordValid : Statement .catalogueRecordValid := ⟨fun _ => trivial, fun _ => rfl⟩
theorem catalogueDrain (ok : Bool) : Statement (.catalogueDrain ok) := ⟨fun _ => trivial, fun _ => rfl⟩
theorem advance : Statement .advance := ⟨fun _ => trivial, fun _ => rfl⟩
theorem controlPeriodEnd (sample : PeriodSample) : Statement (.controlPeriodEnd sample) :=
  ⟨fun _ => trivial, fun _ => rfl⟩
theorem avsSettled (wing : Fin 4) : Statement (.avsSettled wing) := ⟨fun _ => trivial, fun _ => rfl⟩
theorem pllRelockDone (island : Fin 640) : Statement (.pllRelockDone island) := ⟨fun _ => trivial, fun _ => rfl⟩
theorem islandWake (island : Fin 640) : Statement (.islandWake island) := ⟨fun _ => trivial, fun _ => rfl⟩
theorem canaryFail (island : Fin 640) : Statement (.canaryFail island) := ⟨fun _ => trivial, fun _ => rfl⟩
theorem canarySweep (island : Fin 640) (pass : Bool) : Statement (.canarySweep island pass) :=
  ⟨fun _ => trivial, fun _ => rfl⟩
theorem sensorTrimRefresh : Statement .sensorTrimRefresh := ⟨fun _ => trivial, fun _ => rfl⟩
theorem lpddrRefresh (channel : Fin 32) (bank : Nat) : Statement (.lpddrRefresh channel bank) := by
  simp [Statement, ranges, Instr.wf, bankWf]
theorem lpddrZqLatch (channel : Fin 32) : Statement (.lpddrZqLatch channel) := ⟨fun _ => trivial, fun _ => rfl⟩
theorem lpddrPeriodicRetrain (channel : Fin 32) : Statement (.lpddrPeriodicRetrain channel) :=
  ⟨fun _ => trivial, fun _ => rfl⟩
theorem eccWriteback (word : BitVec 48) : Statement (.eccWriteback word) := ⟨fun _ => trivial, fun _ => rfl⟩
theorem scrubRead (word : BitVec 48) (found : Syndrome) : Statement (.scrubRead word found) :=
  ⟨fun _ => trivial, fun _ => rfl⟩
theorem marchQuietPoint (unit : MarchUnit) : Statement (.marchQuietPoint unit) := ⟨fun _ => trivial, fun _ => rfl⟩
theorem marchUnitEnd (unit : MarchUnit) (found lost : List Nat) : Statement (.marchUnitEnd unit found lost) :=
  ⟨fun _ => trivial, fun _ => rfl⟩
theorem thermtrip (sensor : Fin 80) (reading : Int) : Statement (.thermtrip sensor reading) :=
  ⟨fun _ => trivial, fun _ => rfl⟩
theorem avsbusNoAnswer (wing : Fin 4) : Statement (.avsbusNoAnswer wing) := ⟨fun _ => trivial, fun _ => rfl⟩
theorem powerOnReset (mgmtAddr : BitVec 3) (testEn : Bool) : Statement (.powerOnReset mgmtAddr testEn) :=
  ⟨fun _ => trivial, fun _ => rfl⟩
theorem perstN (level : Bool) : Statement (.perstN level) := ⟨fun _ => trivial, fun _ => rfl⟩
theorem functionLevelReset : Statement .functionLevelReset := ⟨fun _ => trivial, fun _ => rfl⟩
theorem hotReset : Statement .hotReset := ⟨fun _ => trivial, fun _ => rfl⟩
theorem dlDown : Statement .dlDown := ⟨fun _ => trivial, fun _ => rfl⟩
theorem startupStageEnd (report : StageReport) : Statement (.startupStageEnd report) := ⟨fun _ => trivial, fun _ => rfl⟩
theorem pcieTrainingTimeout : Statement .pcieTrainingTimeout := ⟨fun _ => trivial, fun _ => rfl⟩
theorem opEnd (q : QRef) (op : Fin 32768) : Statement (.opEnd q op) := ⟨fun _ => trivial, fun _ => rfl⟩
theorem endRequest (c : CtxId) (h : Hall) (t : HTread) (granule : Fin 32) : Statement (.endRequest c h t granule) :=
  ⟨fun _ => trivial, fun _ => rfl⟩
theorem faultCauseClear (src : Source) : Statement (.faultCauseClear src) := ⟨fun _ => trivial, fun _ => rfl⟩
theorem flitAck (link : LinkId) (header : FlitHeader) (trailer : FlitTrailer) : Statement (.flitAck link header trailer) :=
  by
  simp [Statement, ranges, Instr.wf, creditsWf]
theorem flitCrcFail (link : LinkId) (uncorrectable : Bool) : Statement (.flitCrcFail link uncorrectable) :=
  ⟨fun _ => trivial, fun _ => rfl⟩
theorem flitFormatDrop (link : LinkId) (header : FlitHeader) : Statement (.flitFormatDrop link header) :=
  ⟨fun _ => trivial, fun _ => rfl⟩
theorem flitForward (link : LinkId) (header : FlitHeader) : Statement (.flitForward link header) :=
  ⟨fun _ => trivial, fun _ => rfl⟩
theorem mirrorBeat (link : LinkId) : Statement (.mirrorBeat link) := ⟨fun _ => trivial, fun _ => rfl⟩
theorem completionTimeout (q : QRef) (op : Fin 32768) : Statement (.completionTimeout q op) :=
  ⟨fun _ => trivial, fun _ => rfl⟩
theorem entropyRawBit (value : Bool) : Statement (.entropyRawBit value) := ⟨fun _ => trivial, fun _ => rfl⟩
theorem clockGating (island : Fin 640) : Statement (.clockGating island) := ⟨fun _ => trivial, fun _ => rfl⟩

end Sys2Proof.Laws.Operands
end

