-- ==== Sys2Proof/Laws/Rows.lean ====
section
/-! SUPPORT. What a row of the command table does once its op may issue or its message is served: one lemma for each
outcome of a body. -/

namespace Sys2Proof.Laws

open Sys2Proof Sys2Proof.Machine

theorem runBody_runs {s : State} {q : QRef} {code : Nat} {e : Entry} {o : Nat} {r x : Bytes} {d : Dev} (body : Body)
    (h : OpRuns s q code e o r x d) :
    runBody body (opEnv q e o) e o r (acting e s.dev) = body (opEnv q e o) x d := by
  obtain ⟨y, hy, rfl⟩ := h.operands
  have hv := h.values
  unfold runBody
  have hr : readOperands (opEnv q e o) e o r (acting e s.dev) = .ok (directRec y) d := by
    unfold readOperands
    rw [bind_ok hy]
    have hn : (opEnv q e o).idx = e.next := rfl
    simp only [hn, hv]
    rfl
  rw [bind_ok hr]

theorem issueOp_runs {s : State} {q : QRef} {code : Nat} {e : Entry} {o : Nat} {r x : Bytes} {d : Dev} {body : Body}
    {mine : Dev → Entry → Bytes → Bool} (h : OpRuns s q code e o r x d) (hm : mine s.dev e r = true) :
    issueOp q mine body s.dev =
      settleBody q e.next r (opEnv q e o) s.dev (e.next + 1) (body (opEnv q e o) x d) := by
  have hb := runBody_runs body h
  obtain ⟨hd, -, -, -⟩ := h
  obtain ⟨bs, hbs⟩ := hd.reread
  unfold issueOp
  simp only [hd.entry, hd.goes, hd.turn, Bool.and_self, if_true, hd.found, hd.waits, hbs, hd.form, hd.privilege, hm,
    Bool.false_eq_true, if_false]
  simp only [opEnv, acting] at hb ⊢
  rw [hb]

theorem settle_done {q : QRef} {e : Entry} {o : Nat} {r : Bytes} {d d' : Dev} {out : OpOut} {n : Nat} {s : State} :
    { s with dev := wakeFences (serveHeld (settleBody q e.next r (opEnv q e o) d (e.next + 1) (.ok (.done out n) d'))) } =
      opEnds q e o r out n (e.next + 1) d' s := rfl

theorem settle_jump {q : QRef} {e : Entry} {o : Nat} {r : Bytes} {d d' : Dev} {out : OpOut} {k : Nat} {s : State} :
    { s with dev := wakeFences (serveHeld (settleBody q e.next r (opEnv q e o) d (e.next + 1) (.ok (.jump out k) d'))) } =
      opEnds q e o r out 1 k d' s := rfl

theorem settle_running {q : QRef} {e : Entry} {o : Nat} {r : Bytes} {d d' : Dev} {w : OpWait} {n : Nat} {s : State} :
    { s with dev := wakeFences (serveHeld (settleBody q e.next r (opEnv q e o) d (e.next + 1) (.ok (.running w n) d'))) } =
      opWaits q e o r w n d' s := rfl

/-- An op row whose body ends its op. -/
theorem opRow_done {s : State} {q : QRef} {code : Nat} {e : Entry} {o : Nat} {r x : Bytes} {d d' : Dev} {body : Body}
    {out : OpOut} {n : Nat} (h : OpRuns s q code e o r x d)
    (hb : body (opEnv q e o) x d = .ok (.done out n) d') :
    opRow q code body s = .next (opEnds q e o r out n (e.next + 1) d' s) := by
  have hm : isOpcode code s.dev e r = true := by simp [isOpcode, h.opcode]
  rw [opRow, onMem, onDev, issueOp_runs h hm, hb]; rfl

/-- An op row whose body jumps. -/
theorem opRow_jump {s : State} {q : QRef} {code : Nat} {e : Entry} {o : Nat} {r x : Bytes} {d d' : Dev} {body : Body}
    {out : OpOut} {k : Nat} (h : OpRuns s q code e o r x d)
    (hb : body (opEnv q e o) x d = .ok (.jump out k) d') :
    opRow q code body s = .next (opEnds q e o r out 1 k d' s) := by
  have hm : isOpcode code s.dev e r = true := by simp [isOpcode, h.opcode]
  rw [opRow, onMem, onDev, issueOp_runs h hm, hb]; rfl

/-- An op row whose body starts its op and waits. -/
theorem opRow_running {s : State} {q : QRef} {code : Nat} {e : Entry} {o : Nat} {r x : Bytes} {d d' : Dev}
    {body : Body} {w : OpWait} {n : Nat} (h : OpRuns s q code e o r x d)
    (hb : body (opEnv q e o) x d = .ok (.running w n) d') :
    opRow q code body s = .next (opWaits q e o r w n d' s) := by
  have hm : isOpcode code s.dev e r = true := by simp [isOpcode, h.opcode]
  rw [opRow, onMem, onDev, issueOp_runs h hm, hb]; rfl

/-- An action row whose body ends its op. -/
theorem actionRow_done {s : State} {q : QRef} {code : Nat} {e : Entry} {o : Nat} {r x : Bytes} {d d' : Dev}
    {body : Body} {out : OpOut} {n action : Nat} {actions : List Nat} {read : Dev → Bytes → Nat}
    (h : OpRuns s q code e o r x d) (ha : read s.dev (operandsNow s.dev e r) = action)
    (hb : body (opEnv q e o) x d = .ok (.done out n) d') :
    actionRow q code read action actions body s = .next (opEnds q e o r out n (e.next + 1) d' s) := by
  have hm : isAction code read action actions s.dev e r = true := by simp [isAction, h.opcode, ha]
  rw [actionRow, onMem, onDev, issueOp_runs h hm, hb]; rfl

/-- An action row whose body starts its op and waits. -/
theorem actionRow_running {s : State} {q : QRef} {code : Nat} {e : Entry} {o : Nat} {r x : Bytes} {d d' : Dev}
    {body : Body} {w : OpWait} {n action : Nat} {actions : List Nat} {read : Dev → Bytes → Nat}
    (h : OpRuns s q code e o r x d) (ha : read s.dev (operandsNow s.dev e r) = action)
    (hb : body (opEnv q e o) x d = .ok (.running w n) d') :
    actionRow q code read action actions body s = .next (opWaits q e o r w n d' s) := by
  have hm : isAction code read action actions s.dev e r = true := by simp [isAction, h.opcode, ha]
  rw [actionRow, onMem, onDev, issueOp_runs h hm, hb]; rfl

/-- The message that waits is due. -/
theorem mailDue_waits {s : State} {ch : Chan} {code : Nat} {owner early : Bool} {p : Bytes}
    (h : MailWaits s ch code owner early p) :
    ∃ tag, mailDue s.dev ch code = some { command := code, tag := tag, payload := p } := by
  obtain ⟨⟨tag, ht⟩, ⟨he, hm⟩, hc, -, -⟩ := h
  exact ⟨tag, by simp [mailDue, ht, he, hm, hc]⟩

/-- The checks before a command's own pass. -/
theorem mailChecks_waits {s : State} {ch : Chan} {c : MailCmd} {p : Bytes}
    (h : MailWaits s ch c.code c.owner c.early p) (hl : lenOk c p.length = true) :
    mailChecks c s.dev ch p = none := by
  obtain ⟨-, -, -, ho, hr⟩ := h
  unfold mailChecks
  simp only [hl, Bool.not_true, Bool.false_eq_true, if_false]
  rcases hr with hr | hr <;> cases hco : c.owner <;> simp_all

/-- A mailbox row whose body answers. -/
theorem mailRow_ok {s : State} {ch : Chan} {c : MailCmd} {p a : Bytes} {d' : Dev} {mine : Bytes → Bool}
    {body : MailBody} (h : MailWaits s ch c.code c.owner c.early p) (hl : lenOk c p.length = true)
    (hm : mine p = true) (hb : body { ch := ch, drawn := none } p s.dev = .ok (some a) d') :
    mailRow ch c mine body s = .next (answers ch a d' s) := by
  obtain ⟨tag, ht⟩ := mailDue_waits h
  have hk := mailChecks_waits h hl
  rw [mailRow, onMem, onDev, serveMail, ht]
  simp only [hm, if_true, hk, hb]
  rfl

/-- A mailbox row whose body asks the entropy source. -/
theorem mailRow_entropy {s : State} {ch : Chan} {c : MailCmd} {p : Bytes} {d' : Dev} {mine : Bytes → Bool} {n : Nat}
    {body : MailBody} (h : MailWaits s ch c.code c.owner c.early p) (hl : lenOk c p.length = true)
    (hm : mine p = true) (hf : s.dev.ent.failed = false)
    (hb : body { ch := ch, drawn := none } p s.dev = .error (.entropy n) d') :
    mailRow ch c mine body s = .next (withMem s (setMbox ch { mbox s.dev ch with entropy := true }
      { s.dev with ent := { s.dev.ent with waiting := s.dev.ent.waiting ++ [.mail ch n] } })) := by
  obtain ⟨tag, ht⟩ := mailDue_waits h
  have hk := mailChecks_waits h hl
  rw [mailRow, onMem, onDev, serveMail, ht]
  simp only [hm, if_true, hk, hb, settleMail, hf]
  rfl

end Sys2Proof.Laws
end

