-- ==== Sys2Proof/Laws/State.lean ====
section
/-! SUPPORT. What the named updates of the state leave, field by field, and what they write. -/

namespace Sys2Proof.Laws

open Sys2Proof Sys2Proof.Machine

/- `setQueue`. -/

@[simp] theorem setQueue_clock (q : QRef) (x : Queue) (d : Dev) : (setQueue q x d).clock = d.clock := by cases q <;> rfl
@[simp] theorem setQueue_free (q : QRef) (x : Queue) (d : Dev) : (setQueue q x d).free = d.free := by cases q <;> rfl
@[simp] theorem setQueue_ctxs (q : QRef) (x : Queue) (d : Dev) : (setQueue q x d).ctxs = d.ctxs := by cases q <;> rfl
@[simp] theorem setQueue_mem (q : QRef) (x : Queue) (d : Dev) : (setQueue q x d).mem = d.mem := by cases q <;> rfl
@[simp] theorem setQueue_march (q : QRef) (x : Queue) (d : Dev) : (setQueue q x d).march = d.march := by cases q <;> rfl
@[simp] theorem setQueue_fc (q : QRef) (x : Queue) (d : Dev) : (setQueue q x d).fc = d.fc := by cases q <;> rfl
@[simp] theorem setQueue_cat (q : QRef) (x : Queue) (d : Dev) : (setQueue q x d).cat = d.cat := by cases q <;> rfl
@[simp] theorem setQueue_host (q : QRef) (x : Queue) (d : Dev) : (setQueue q x d).host = d.host := by cases q <;> rfl
@[simp] theorem setQueue_mbHost (q : QRef) (x : Queue) (d : Dev) : (setQueue q x d).mbHost = d.mbHost := by cases q <;> rfl
@[simp] theorem setQueue_mbBmc (q : QRef) (x : Queue) (d : Dev) : (setQueue q x d).mbBmc = d.mbBmc := by cases q <;> rfl
@[simp] theorem setQueue_mbJtag (q : QRef) (x : Queue) (d : Dev) : (setQueue q x d).mbJtag = d.mbJtag := by cases q <;> rfl
@[simp] theorem setQueue_mbMirror (q : QRef) (x : Queue) (d : Dev) : (setQueue q x d).mbMirror = d.mbMirror := by cases q <;> rfl
@[simp] theorem setQueue_own (q : QRef) (x : Queue) (d : Dev) : (setQueue q x d).own = d.own := by cases q <;> rfl
@[simp] theorem setQueue_avail (q : QRef) (x : Queue) (d : Dev) : (setQueue q x d).avail = d.avail := by cases q <;> rfl
@[simp] theorem setQueue_boot (q : QRef) (x : Queue) (d : Dev) : (setQueue q x d).boot = d.boot := by cases q <;> rfl
@[simp] theorem setQueue_flash (q : QRef) (x : Queue) (d : Dev) : (setQueue q x d).flash = d.flash := by cases q <;> rfl
@[simp] theorem setQueue_trust (q : QRef) (x : Queue) (d : Dev) : (setQueue q x d).trust = d.trust := by cases q <;> rfl
@[simp] theorem setQueue_ent (q : QRef) (x : Queue) (d : Dev) : (setQueue q x d).ent = d.ent := by cases q <;> rfl
@[simp] theorem setQueue_ports (q : QRef) (x : Queue) (d : Dev) : (setQueue q x d).ports = d.ports := by cases q <;> rfl
@[simp] theorem setQueue_power (q : QRef) (x : Queue) (d : Dev) : (setQueue q x d).power = d.power := by cases q <;> rfl
@[simp] theorem setQueue_tele (q : QRef) (x : Queue) (d : Dev) : (setQueue q x d).tele = d.tele := by cases q <;> rfl
@[simp] theorem setQueue_chain (q : QRef) (x : Queue) (d : Dev) : (setQueue q x d).chain = d.chain := by cases q <;> rfl
@[simp] theorem setQueue_flipTurn (q : QRef) (x : Queue) (d : Dev) : (setQueue q x d).flipTurn = d.flipTurn := by cases q <;> rfl
@[simp] theorem setQueue_busSlots (q : QRef) (x : Queue) (d : Dev) : (setQueue q x d).busSlots = d.busSlots := by cases q <;> rfl
@[simp] theorem setQueue_flipSerial (q : QRef) (x : Queue) (d : Dev) : (setQueue q x d).flipSerial = d.flipSerial := by cases q <;> rfl
@[simp] theorem setQueue_treadCtx (q : QRef) (x : Queue) (d : Dev) : (setQueue q x d).treadCtx = d.treadCtx := by cases q <;> rfl
@[simp] theorem setQueue_switches (q : QRef) (x : Queue) (d : Dev) : (setQueue q x d).switches = d.switches := by cases q <;> rfl
@[simp] theorem setQueue_channels (q : QRef) (x : Queue) (d : Dev) : (setQueue q x d).channels = d.channels := by cases q <;> rfl
@[simp] theorem setQueue_heldOut (q : QRef) (x : Queue) (d : Dev) : (setQueue q x d).heldOut = d.heldOut := by cases q <;> rfl
@[simp] theorem setQueue_actor (q : QRef) (x : Queue) (d : Dev) : (setQueue q x d).actor = d.actor := by cases q <;> rfl

/- `setCtx`. -/

@[simp] theorem setCtx_clock (c : Nat) (x : Ctx) (d : Dev) : (setCtx c x d).clock = d.clock := rfl
@[simp] theorem setCtx_free (c : Nat) (x : Ctx) (d : Dev) : (setCtx c x d).free = d.free := rfl
@[simp] theorem setCtx_cur (c : Nat) (x : Ctx) (d : Dev) : (setCtx c x d).cur = d.cur := rfl
@[simp] theorem setCtx_mem (c : Nat) (x : Ctx) (d : Dev) : (setCtx c x d).mem = d.mem := rfl
@[simp] theorem setCtx_march (c : Nat) (x : Ctx) (d : Dev) : (setCtx c x d).march = d.march := rfl
@[simp] theorem setCtx_fc (c : Nat) (x : Ctx) (d : Dev) : (setCtx c x d).fc = d.fc := rfl
@[simp] theorem setCtx_cat (c : Nat) (x : Ctx) (d : Dev) : (setCtx c x d).cat = d.cat := rfl
@[simp] theorem setCtx_host (c : Nat) (x : Ctx) (d : Dev) : (setCtx c x d).host = d.host := rfl
@[simp] theorem setCtx_mbHost (c : Nat) (x : Ctx) (d : Dev) : (setCtx c x d).mbHost = d.mbHost := rfl
@[simp] theorem setCtx_mbBmc (c : Nat) (x : Ctx) (d : Dev) : (setCtx c x d).mbBmc = d.mbBmc := rfl
@[simp] theorem setCtx_mbJtag (c : Nat) (x : Ctx) (d : Dev) : (setCtx c x d).mbJtag = d.mbJtag := rfl
@[simp] theorem setCtx_mbMirror (c : Nat) (x : Ctx) (d : Dev) : (setCtx c x d).mbMirror = d.mbMirror := rfl
@[simp] theorem setCtx_own (c : Nat) (x : Ctx) (d : Dev) : (setCtx c x d).own = d.own := rfl
@[simp] theorem setCtx_avail (c : Nat) (x : Ctx) (d : Dev) : (setCtx c x d).avail = d.avail := rfl
@[simp] theorem setCtx_boot (c : Nat) (x : Ctx) (d : Dev) : (setCtx c x d).boot = d.boot := rfl
@[simp] theorem setCtx_flash (c : Nat) (x : Ctx) (d : Dev) : (setCtx c x d).flash = d.flash := rfl
@[simp] theorem setCtx_trust (c : Nat) (x : Ctx) (d : Dev) : (setCtx c x d).trust = d.trust := rfl
@[simp] theorem setCtx_ent (c : Nat) (x : Ctx) (d : Dev) : (setCtx c x d).ent = d.ent := rfl
@[simp] theorem setCtx_ports (c : Nat) (x : Ctx) (d : Dev) : (setCtx c x d).ports = d.ports := rfl
@[simp] theorem setCtx_power (c : Nat) (x : Ctx) (d : Dev) : (setCtx c x d).power = d.power := rfl
@[simp] theorem setCtx_tele (c : Nat) (x : Ctx) (d : Dev) : (setCtx c x d).tele = d.tele := rfl
@[simp] theorem setCtx_chain (c : Nat) (x : Ctx) (d : Dev) : (setCtx c x d).chain = d.chain := rfl
@[simp] theorem setCtx_flipTurn (c : Nat) (x : Ctx) (d : Dev) : (setCtx c x d).flipTurn = d.flipTurn := rfl
@[simp] theorem setCtx_busSlots (c : Nat) (x : Ctx) (d : Dev) : (setCtx c x d).busSlots = d.busSlots := rfl
@[simp] theorem setCtx_flipSerial (c : Nat) (x : Ctx) (d : Dev) : (setCtx c x d).flipSerial = d.flipSerial := rfl
@[simp] theorem setCtx_treadCtx (c : Nat) (x : Ctx) (d : Dev) : (setCtx c x d).treadCtx = d.treadCtx := rfl
@[simp] theorem setCtx_switches (c : Nat) (x : Ctx) (d : Dev) : (setCtx c x d).switches = d.switches := rfl
@[simp] theorem setCtx_channels (c : Nat) (x : Ctx) (d : Dev) : (setCtx c x d).channels = d.channels := rfl
@[simp] theorem setCtx_heldOut (c : Nat) (x : Ctx) (d : Dev) : (setCtx c x d).heldOut = d.heldOut := rfl
@[simp] theorem setCtx_actor (c : Nat) (x : Ctx) (d : Dev) : (setCtx c x d).actor = d.actor := rfl

/- `setMsix`. -/

@[simp] theorem setMsix_clock (v : Nat) (m : MsixVec) (d : Dev) : (setMsix v m d).clock = d.clock := rfl
@[simp] theorem setMsix_free (v : Nat) (m : MsixVec) (d : Dev) : (setMsix v m d).free = d.free := rfl
@[simp] theorem setMsix_cur (v : Nat) (m : MsixVec) (d : Dev) : (setMsix v m d).cur = d.cur := rfl
@[simp] theorem setMsix_ctxs (v : Nat) (m : MsixVec) (d : Dev) : (setMsix v m d).ctxs = d.ctxs := rfl
@[simp] theorem setMsix_mem (v : Nat) (m : MsixVec) (d : Dev) : (setMsix v m d).mem = d.mem := rfl
@[simp] theorem setMsix_march (v : Nat) (m : MsixVec) (d : Dev) : (setMsix v m d).march = d.march := rfl
@[simp] theorem setMsix_fc (v : Nat) (m : MsixVec) (d : Dev) : (setMsix v m d).fc = d.fc := rfl
@[simp] theorem setMsix_cat (v : Nat) (m : MsixVec) (d : Dev) : (setMsix v m d).cat = d.cat := rfl
@[simp] theorem setMsix_mbHost (v : Nat) (m : MsixVec) (d : Dev) : (setMsix v m d).mbHost = d.mbHost := rfl
@[simp] theorem setMsix_mbBmc (v : Nat) (m : MsixVec) (d : Dev) : (setMsix v m d).mbBmc = d.mbBmc := rfl
@[simp] theorem setMsix_mbJtag (v : Nat) (m : MsixVec) (d : Dev) : (setMsix v m d).mbJtag = d.mbJtag := rfl
@[simp] theorem setMsix_mbMirror (v : Nat) (m : MsixVec) (d : Dev) : (setMsix v m d).mbMirror = d.mbMirror := rfl
@[simp] theorem setMsix_own (v : Nat) (m : MsixVec) (d : Dev) : (setMsix v m d).own = d.own := rfl
@[simp] theorem setMsix_avail (v : Nat) (m : MsixVec) (d : Dev) : (setMsix v m d).avail = d.avail := rfl
@[simp] theorem setMsix_boot (v : Nat) (m : MsixVec) (d : Dev) : (setMsix v m d).boot = d.boot := rfl
@[simp] theorem setMsix_flash (v : Nat) (m : MsixVec) (d : Dev) : (setMsix v m d).flash = d.flash := rfl
@[simp] theorem setMsix_trust (v : Nat) (m : MsixVec) (d : Dev) : (setMsix v m d).trust = d.trust := rfl
@[simp] theorem setMsix_ent (v : Nat) (m : MsixVec) (d : Dev) : (setMsix v m d).ent = d.ent := rfl
@[simp] theorem setMsix_ports (v : Nat) (m : MsixVec) (d : Dev) : (setMsix v m d).ports = d.ports := rfl
@[simp] theorem setMsix_power (v : Nat) (m : MsixVec) (d : Dev) : (setMsix v m d).power = d.power := rfl
@[simp] theorem setMsix_tele (v : Nat) (m : MsixVec) (d : Dev) : (setMsix v m d).tele = d.tele := rfl
@[simp] theorem setMsix_chain (v : Nat) (m : MsixVec) (d : Dev) : (setMsix v m d).chain = d.chain := rfl
@[simp] theorem setMsix_flipTurn (v : Nat) (m : MsixVec) (d : Dev) : (setMsix v m d).flipTurn = d.flipTurn := rfl
@[simp] theorem setMsix_busSlots (v : Nat) (m : MsixVec) (d : Dev) : (setMsix v m d).busSlots = d.busSlots := rfl
@[simp] theorem setMsix_flipSerial (v : Nat) (m : MsixVec) (d : Dev) : (setMsix v m d).flipSerial = d.flipSerial := rfl
@[simp] theorem setMsix_treadCtx (v : Nat) (m : MsixVec) (d : Dev) : (setMsix v m d).treadCtx = d.treadCtx := rfl
@[simp] theorem setMsix_switches (v : Nat) (m : MsixVec) (d : Dev) : (setMsix v m d).switches = d.switches := rfl
@[simp] theorem setMsix_channels (v : Nat) (m : MsixVec) (d : Dev) : (setMsix v m d).channels = d.channels := rfl
@[simp] theorem setMsix_heldOut (v : Nat) (m : MsixVec) (d : Dev) : (setMsix v m d).heldOut = d.heldOut := rfl
@[simp] theorem setMsix_actor (v : Nat) (m : MsixVec) (d : Dev) : (setMsix v m d).actor = d.actor := rfl

/- `setMbox`. -/

@[simp] theorem setMbox_clock (ch : Chan) (m : Mailbox) (d : Dev) : (setMbox ch m d).clock = d.clock := by cases ch <;> rfl
@[simp] theorem setMbox_free (ch : Chan) (m : Mailbox) (d : Dev) : (setMbox ch m d).free = d.free := by cases ch <;> rfl
@[simp] theorem setMbox_cur (ch : Chan) (m : Mailbox) (d : Dev) : (setMbox ch m d).cur = d.cur := by cases ch <;> rfl
@[simp] theorem setMbox_ctxs (ch : Chan) (m : Mailbox) (d : Dev) : (setMbox ch m d).ctxs = d.ctxs := by cases ch <;> rfl
@[simp] theorem setMbox_mem (ch : Chan) (m : Mailbox) (d : Dev) : (setMbox ch m d).mem = d.mem := by cases ch <;> rfl
@[simp] theorem setMbox_march (ch : Chan) (m : Mailbox) (d : Dev) : (setMbox ch m d).march = d.march := by cases ch <;> rfl
@[simp] theorem setMbox_fc (ch : Chan) (m : Mailbox) (d : Dev) : (setMbox ch m d).fc = d.fc := by cases ch <;> rfl
@[simp] theorem setMbox_cat (ch : Chan) (m : Mailbox) (d : Dev) : (setMbox ch m d).cat = d.cat := by cases ch <;> rfl
@[simp] theorem setMbox_host (ch : Chan) (m : Mailbox) (d : Dev) : (setMbox ch m d).host = d.host := by cases ch <;> rfl
@[simp] theorem setMbox_own (ch : Chan) (m : Mailbox) (d : Dev) : (setMbox ch m d).own = d.own := by cases ch <;> rfl
@[simp] theorem setMbox_avail (ch : Chan) (m : Mailbox) (d : Dev) : (setMbox ch m d).avail = d.avail := by cases ch <;> rfl
@[simp] theorem setMbox_boot (ch : Chan) (m : Mailbox) (d : Dev) : (setMbox ch m d).boot = d.boot := by cases ch <;> rfl
@[simp] theorem setMbox_flash (ch : Chan) (m : Mailbox) (d : Dev) : (setMbox ch m d).flash = d.flash := by cases ch <;> rfl
@[simp] theorem setMbox_trust (ch : Chan) (m : Mailbox) (d : Dev) : (setMbox ch m d).trust = d.trust := by cases ch <;> rfl
@[simp] theorem setMbox_ent (ch : Chan) (m : Mailbox) (d : Dev) : (setMbox ch m d).ent = d.ent := by cases ch <;> rfl
@[simp] theorem setMbox_ports (ch : Chan) (m : Mailbox) (d : Dev) : (setMbox ch m d).ports = d.ports := by cases ch <;> rfl
@[simp] theorem setMbox_power (ch : Chan) (m : Mailbox) (d : Dev) : (setMbox ch m d).power = d.power := by cases ch <;> rfl
@[simp] theorem setMbox_tele (ch : Chan) (m : Mailbox) (d : Dev) : (setMbox ch m d).tele = d.tele := by cases ch <;> rfl
@[simp] theorem setMbox_chain (ch : Chan) (m : Mailbox) (d : Dev) : (setMbox ch m d).chain = d.chain := by cases ch <;> rfl
@[simp] theorem setMbox_flipTurn (ch : Chan) (m : Mailbox) (d : Dev) : (setMbox ch m d).flipTurn = d.flipTurn := by cases ch <;> rfl
@[simp] theorem setMbox_busSlots (ch : Chan) (m : Mailbox) (d : Dev) : (setMbox ch m d).busSlots = d.busSlots := by cases ch <;> rfl
@[simp] theorem setMbox_flipSerial (ch : Chan) (m : Mailbox) (d : Dev) : (setMbox ch m d).flipSerial = d.flipSerial := by cases ch <;> rfl
@[simp] theorem setMbox_treadCtx (ch : Chan) (m : Mailbox) (d : Dev) : (setMbox ch m d).treadCtx = d.treadCtx := by cases ch <;> rfl
@[simp] theorem setMbox_switches (ch : Chan) (m : Mailbox) (d : Dev) : (setMbox ch m d).switches = d.switches := by cases ch <;> rfl
@[simp] theorem setMbox_channels (ch : Chan) (m : Mailbox) (d : Dev) : (setMbox ch m d).channels = d.channels := by cases ch <;> rfl
@[simp] theorem setMbox_heldOut (ch : Chan) (m : Mailbox) (d : Dev) : (setMbox ch m d).heldOut = d.heldOut := by cases ch <;> rfl
@[simp] theorem setMbox_actor (ch : Chan) (m : Mailbox) (d : Dev) : (setMbox ch m d).actor = d.actor := by cases ch <;> rfl

/- `setLink`. -/

@[simp] theorem setLink_clock (n : Nat) (l : Link) (d : Dev) : (setLink n l d).clock = d.clock := rfl
@[simp] theorem setLink_free (n : Nat) (l : Link) (d : Dev) : (setLink n l d).free = d.free := rfl
@[simp] theorem setLink_cur (n : Nat) (l : Link) (d : Dev) : (setLink n l d).cur = d.cur := rfl
@[simp] theorem setLink_ctxs (n : Nat) (l : Link) (d : Dev) : (setLink n l d).ctxs = d.ctxs := rfl
@[simp] theorem setLink_mem (n : Nat) (l : Link) (d : Dev) : (setLink n l d).mem = d.mem := rfl
@[simp] theorem setLink_march (n : Nat) (l : Link) (d : Dev) : (setLink n l d).march = d.march := rfl
@[simp] theorem setLink_fc (n : Nat) (l : Link) (d : Dev) : (setLink n l d).fc = d.fc := rfl
@[simp] theorem setLink_cat (n : Nat) (l : Link) (d : Dev) : (setLink n l d).cat = d.cat := rfl
@[simp] theorem setLink_host (n : Nat) (l : Link) (d : Dev) : (setLink n l d).host = d.host := rfl
@[simp] theorem setLink_mbHost (n : Nat) (l : Link) (d : Dev) : (setLink n l d).mbHost = d.mbHost := rfl
@[simp] theorem setLink_mbBmc (n : Nat) (l : Link) (d : Dev) : (setLink n l d).mbBmc = d.mbBmc := rfl
@[simp] theorem setLink_mbJtag (n : Nat) (l : Link) (d : Dev) : (setLink n l d).mbJtag = d.mbJtag := rfl
@[simp] theorem setLink_mbMirror (n : Nat) (l : Link) (d : Dev) : (setLink n l d).mbMirror = d.mbMirror := rfl
@[simp] theorem setLink_own (n : Nat) (l : Link) (d : Dev) : (setLink n l d).own = d.own := rfl
@[simp] theorem setLink_avail (n : Nat) (l : Link) (d : Dev) : (setLink n l d).avail = d.avail := rfl
@[simp] theorem setLink_boot (n : Nat) (l : Link) (d : Dev) : (setLink n l d).boot = d.boot := rfl
@[simp] theorem setLink_flash (n : Nat) (l : Link) (d : Dev) : (setLink n l d).flash = d.flash := rfl
@[simp] theorem setLink_trust (n : Nat) (l : Link) (d : Dev) : (setLink n l d).trust = d.trust := rfl
@[simp] theorem setLink_ent (n : Nat) (l : Link) (d : Dev) : (setLink n l d).ent = d.ent := rfl
@[simp] theorem setLink_ports (n : Nat) (l : Link) (d : Dev) : (setLink n l d).ports = d.ports := rfl
@[simp] theorem setLink_power (n : Nat) (l : Link) (d : Dev) : (setLink n l d).power = d.power := rfl
@[simp] theorem setLink_tele (n : Nat) (l : Link) (d : Dev) : (setLink n l d).tele = d.tele := rfl
@[simp] theorem setLink_flipTurn (n : Nat) (l : Link) (d : Dev) : (setLink n l d).flipTurn = d.flipTurn := rfl
@[simp] theorem setLink_busSlots (n : Nat) (l : Link) (d : Dev) : (setLink n l d).busSlots = d.busSlots := rfl
@[simp] theorem setLink_flipSerial (n : Nat) (l : Link) (d : Dev) : (setLink n l d).flipSerial = d.flipSerial := rfl
@[simp] theorem setLink_treadCtx (n : Nat) (l : Link) (d : Dev) : (setLink n l d).treadCtx = d.treadCtx := rfl
@[simp] theorem setLink_switches (n : Nat) (l : Link) (d : Dev) : (setLink n l d).switches = d.switches := rfl
@[simp] theorem setLink_channels (n : Nat) (l : Link) (d : Dev) : (setLink n l d).channels = d.channels := rfl
@[simp] theorem setLink_heldOut (n : Nat) (l : Link) (d : Dev) : (setLink n l d).heldOut = d.heldOut := rfl
@[simp] theorem setLink_actor (n : Nat) (l : Link) (d : Dev) : (setLink n l d).actor = d.actor := rfl

/- `modMirror`. -/

@[simp] theorem modMirror_clock (f : Mirror → Mirror) (d : Dev) : (modMirror f d).clock = d.clock := rfl
@[simp] theorem modMirror_free (f : Mirror → Mirror) (d : Dev) : (modMirror f d).free = d.free := rfl
@[simp] theorem modMirror_cur (f : Mirror → Mirror) (d : Dev) : (modMirror f d).cur = d.cur := rfl
@[simp] theorem modMirror_ctxs (f : Mirror → Mirror) (d : Dev) : (modMirror f d).ctxs = d.ctxs := rfl
@[simp] theorem modMirror_mem (f : Mirror → Mirror) (d : Dev) : (modMirror f d).mem = d.mem := rfl
@[simp] theorem modMirror_march (f : Mirror → Mirror) (d : Dev) : (modMirror f d).march = d.march := rfl
@[simp] theorem modMirror_fc (f : Mirror → Mirror) (d : Dev) : (modMirror f d).fc = d.fc := rfl
@[simp] theorem modMirror_cat (f : Mirror → Mirror) (d : Dev) : (modMirror f d).cat = d.cat := rfl
@[simp] theorem modMirror_host (f : Mirror → Mirror) (d : Dev) : (modMirror f d).host = d.host := rfl
@[simp] theorem modMirror_mbHost (f : Mirror → Mirror) (d : Dev) : (modMirror f d).mbHost = d.mbHost := rfl
@[simp] theorem modMirror_mbBmc (f : Mirror → Mirror) (d : Dev) : (modMirror f d).mbBmc = d.mbBmc := rfl
@[simp] theorem modMirror_mbJtag (f : Mirror → Mirror) (d : Dev) : (modMirror f d).mbJtag = d.mbJtag := rfl
@[simp] theorem modMirror_mbMirror (f : Mirror → Mirror) (d : Dev) : (modMirror f d).mbMirror = d.mbMirror := rfl
@[simp] theorem modMirror_own (f : Mirror → Mirror) (d : Dev) : (modMirror f d).own = d.own := rfl
@[simp] theorem modMirror_avail (f : Mirror → Mirror) (d : Dev) : (modMirror f d).avail = d.avail := rfl
@[simp] theorem modMirror_boot (f : Mirror → Mirror) (d : Dev) : (modMirror f d).boot = d.boot := rfl
@[simp] theorem modMirror_flash (f : Mirror → Mirror) (d : Dev) : (modMirror f d).flash = d.flash := rfl
@[simp] theorem modMirror_trust (f : Mirror → Mirror) (d : Dev) : (modMirror f d).trust = d.trust := rfl
@[simp] theorem modMirror_ent (f : Mirror → Mirror) (d : Dev) : (modMirror f d).ent = d.ent := rfl
@[simp] theorem modMirror_ports (f : Mirror → Mirror) (d : Dev) : (modMirror f d).ports = d.ports := rfl
@[simp] theorem modMirror_power (f : Mirror → Mirror) (d : Dev) : (modMirror f d).power = d.power := rfl
@[simp] theorem modMirror_tele (f : Mirror → Mirror) (d : Dev) : (modMirror f d).tele = d.tele := rfl
@[simp] theorem modMirror_flipTurn (f : Mirror → Mirror) (d : Dev) : (modMirror f d).flipTurn = d.flipTurn := rfl
@[simp] theorem modMirror_busSlots (f : Mirror → Mirror) (d : Dev) : (modMirror f d).busSlots = d.busSlots := rfl
@[simp] theorem modMirror_flipSerial (f : Mirror → Mirror) (d : Dev) : (modMirror f d).flipSerial = d.flipSerial := rfl
@[simp] theorem modMirror_treadCtx (f : Mirror → Mirror) (d : Dev) : (modMirror f d).treadCtx = d.treadCtx := rfl
@[simp] theorem modMirror_switches (f : Mirror → Mirror) (d : Dev) : (modMirror f d).switches = d.switches := rfl
@[simp] theorem modMirror_channels (f : Mirror → Mirror) (d : Dev) : (modMirror f d).channels = d.channels := rfl
@[simp] theorem modMirror_heldOut (f : Mirror → Mirror) (d : Dev) : (modMirror f d).heldOut = d.heldOut := rfl
@[simp] theorem modMirror_actor (f : Mirror → Mirror) (d : Dev) : (modMirror f d).actor = d.actor := rfl

/- `devStore`. -/

@[simp] theorem devStore_clock (a : Nat) (bs : Bytes) (d : Dev) : (devStore a bs d).clock = d.clock := rfl
@[simp] theorem devStore_free (a : Nat) (bs : Bytes) (d : Dev) : (devStore a bs d).free = d.free := rfl
@[simp] theorem devStore_cur (a : Nat) (bs : Bytes) (d : Dev) : (devStore a bs d).cur = d.cur := rfl
@[simp] theorem devStore_ctxs (a : Nat) (bs : Bytes) (d : Dev) : (devStore a bs d).ctxs = d.ctxs := rfl
@[simp] theorem devStore_march (a : Nat) (bs : Bytes) (d : Dev) : (devStore a bs d).march = d.march := rfl
@[simp] theorem devStore_fc (a : Nat) (bs : Bytes) (d : Dev) : (devStore a bs d).fc = d.fc := rfl
@[simp] theorem devStore_cat (a : Nat) (bs : Bytes) (d : Dev) : (devStore a bs d).cat = d.cat := rfl
@[simp] theorem devStore_host (a : Nat) (bs : Bytes) (d : Dev) : (devStore a bs d).host = d.host := rfl
@[simp] theorem devStore_mbHost (a : Nat) (bs : Bytes) (d : Dev) : (devStore a bs d).mbHost = d.mbHost := rfl
@[simp] theorem devStore_mbBmc (a : Nat) (bs : Bytes) (d : Dev) : (devStore a bs d).mbBmc = d.mbBmc := rfl
@[simp] theorem devStore_mbJtag (a : Nat) (bs : Bytes) (d : Dev) : (devStore a bs d).mbJtag = d.mbJtag := rfl
@[simp] theorem devStore_mbMirror (a : Nat) (bs : Bytes) (d : Dev) : (devStore a bs d).mbMirror = d.mbMirror := rfl
@[simp] theorem devStore_own (a : Nat) (bs : Bytes) (d : Dev) : (devStore a bs d).own = d.own := rfl
@[simp] theorem devStore_avail (a : Nat) (bs : Bytes) (d : Dev) : (devStore a bs d).avail = d.avail := rfl
@[simp] theorem devStore_boot (a : Nat) (bs : Bytes) (d : Dev) : (devStore a bs d).boot = d.boot := rfl
@[simp] theorem devStore_flash (a : Nat) (bs : Bytes) (d : Dev) : (devStore a bs d).flash = d.flash := rfl
@[simp] theorem devStore_trust (a : Nat) (bs : Bytes) (d : Dev) : (devStore a bs d).trust = d.trust := rfl
@[simp] theorem devStore_ent (a : Nat) (bs : Bytes) (d : Dev) : (devStore a bs d).ent = d.ent := rfl
@[simp] theorem devStore_ports (a : Nat) (bs : Bytes) (d : Dev) : (devStore a bs d).ports = d.ports := rfl
@[simp] theorem devStore_power (a : Nat) (bs : Bytes) (d : Dev) : (devStore a bs d).power = d.power := rfl
@[simp] theorem devStore_tele (a : Nat) (bs : Bytes) (d : Dev) : (devStore a bs d).tele = d.tele := rfl
@[simp] theorem devStore_chain (a : Nat) (bs : Bytes) (d : Dev) : (devStore a bs d).chain = d.chain := rfl
@[simp] theorem devStore_flipTurn (a : Nat) (bs : Bytes) (d : Dev) : (devStore a bs d).flipTurn = d.flipTurn := rfl
@[simp] theorem devStore_busSlots (a : Nat) (bs : Bytes) (d : Dev) : (devStore a bs d).busSlots = d.busSlots := rfl
@[simp] theorem devStore_flipSerial (a : Nat) (bs : Bytes) (d : Dev) : (devStore a bs d).flipSerial = d.flipSerial := rfl
@[simp] theorem devStore_treadCtx (a : Nat) (bs : Bytes) (d : Dev) : (devStore a bs d).treadCtx = d.treadCtx := rfl
@[simp] theorem devStore_switches (a : Nat) (bs : Bytes) (d : Dev) : (devStore a bs d).switches = d.switches := rfl
@[simp] theorem devStore_channels (a : Nat) (bs : Bytes) (d : Dev) : (devStore a bs d).channels = d.channels := rfl
@[simp] theorem devStore_heldOut (a : Nat) (bs : Bytes) (d : Dev) : (devStore a bs d).heldOut = d.heldOut := rfl
@[simp] theorem devStore_actor (a : Nat) (bs : Bytes) (d : Dev) : (devStore a bs d).actor = d.actor := rfl

/- `freshMark`. -/

@[simp] theorem freshMark_clock (r : Region) (d : Dev) : (freshMark r d).clock = d.clock := rfl
@[simp] theorem freshMark_cur (r : Region) (d : Dev) : (freshMark r d).cur = d.cur := rfl
@[simp] theorem freshMark_ctxs (r : Region) (d : Dev) : (freshMark r d).ctxs = d.ctxs := rfl
@[simp] theorem freshMark_march (r : Region) (d : Dev) : (freshMark r d).march = d.march := rfl
@[simp] theorem freshMark_fc (r : Region) (d : Dev) : (freshMark r d).fc = d.fc := rfl
@[simp] theorem freshMark_cat (r : Region) (d : Dev) : (freshMark r d).cat = d.cat := rfl
@[simp] theorem freshMark_host (r : Region) (d : Dev) : (freshMark r d).host = d.host := rfl
@[simp] theorem freshMark_mbHost (r : Region) (d : Dev) : (freshMark r d).mbHost = d.mbHost := rfl
@[simp] theorem freshMark_mbBmc (r : Region) (d : Dev) : (freshMark r d).mbBmc = d.mbBmc := rfl
@[simp] theorem freshMark_mbJtag (r : Region) (d : Dev) : (freshMark r d).mbJtag = d.mbJtag := rfl
@[simp] theorem freshMark_mbMirror (r : Region) (d : Dev) : (freshMark r d).mbMirror = d.mbMirror := rfl
@[simp] theorem freshMark_own (r : Region) (d : Dev) : (freshMark r d).own = d.own := rfl
@[simp] theorem freshMark_avail (r : Region) (d : Dev) : (freshMark r d).avail = d.avail := rfl
@[simp] theorem freshMark_boot (r : Region) (d : Dev) : (freshMark r d).boot = d.boot := rfl
@[simp] theorem freshMark_flash (r : Region) (d : Dev) : (freshMark r d).flash = d.flash := rfl
@[simp] theorem freshMark_trust (r : Region) (d : Dev) : (freshMark r d).trust = d.trust := rfl
@[simp] theorem freshMark_ent (r : Region) (d : Dev) : (freshMark r d).ent = d.ent := rfl
@[simp] theorem freshMark_ports (r : Region) (d : Dev) : (freshMark r d).ports = d.ports := rfl
@[simp] theorem freshMark_power (r : Region) (d : Dev) : (freshMark r d).power = d.power := rfl
@[simp] theorem freshMark_tele (r : Region) (d : Dev) : (freshMark r d).tele = d.tele := rfl
@[simp] theorem freshMark_chain (r : Region) (d : Dev) : (freshMark r d).chain = d.chain := rfl
@[simp] theorem freshMark_flipTurn (r : Region) (d : Dev) : (freshMark r d).flipTurn = d.flipTurn := rfl
@[simp] theorem freshMark_busSlots (r : Region) (d : Dev) : (freshMark r d).busSlots = d.busSlots := rfl
@[simp] theorem freshMark_flipSerial (r : Region) (d : Dev) : (freshMark r d).flipSerial = d.flipSerial := rfl
@[simp] theorem freshMark_treadCtx (r : Region) (d : Dev) : (freshMark r d).treadCtx = d.treadCtx := rfl
@[simp] theorem freshMark_switches (r : Region) (d : Dev) : (freshMark r d).switches = d.switches := rfl
@[simp] theorem freshMark_channels (r : Region) (d : Dev) : (freshMark r d).channels = d.channels := rfl
@[simp] theorem freshMark_heldOut (r : Region) (d : Dev) : (freshMark r d).heldOut = d.heldOut := rfl
@[simp] theorem freshMark_actor (r : Region) (d : Dev) : (freshMark r d).actor = d.actor := rfl

/- `zeroMark`. -/

@[simp] theorem zeroMark_clock (r : Region) (d : Dev) : (zeroMark r d).clock = d.clock := rfl
@[simp] theorem zeroMark_free (r : Region) (d : Dev) : (zeroMark r d).free = d.free := rfl
@[simp] theorem zeroMark_cur (r : Region) (d : Dev) : (zeroMark r d).cur = d.cur := rfl
@[simp] theorem zeroMark_ctxs (r : Region) (d : Dev) : (zeroMark r d).ctxs = d.ctxs := rfl
@[simp] theorem zeroMark_march (r : Region) (d : Dev) : (zeroMark r d).march = d.march := rfl
@[simp] theorem zeroMark_fc (r : Region) (d : Dev) : (zeroMark r d).fc = d.fc := rfl
@[simp] theorem zeroMark_cat (r : Region) (d : Dev) : (zeroMark r d).cat = d.cat := rfl
@[simp] theorem zeroMark_host (r : Region) (d : Dev) : (zeroMark r d).host = d.host := rfl
@[simp] theorem zeroMark_mbHost (r : Region) (d : Dev) : (zeroMark r d).mbHost = d.mbHost := rfl
@[simp] theorem zeroMark_mbBmc (r : Region) (d : Dev) : (zeroMark r d).mbBmc = d.mbBmc := rfl
@[simp] theorem zeroMark_mbJtag (r : Region) (d : Dev) : (zeroMark r d).mbJtag = d.mbJtag := rfl
@[simp] theorem zeroMark_mbMirror (r : Region) (d : Dev) : (zeroMark r d).mbMirror = d.mbMirror := rfl
@[simp] theorem zeroMark_own (r : Region) (d : Dev) : (zeroMark r d).own = d.own := rfl
@[simp] theorem zeroMark_avail (r : Region) (d : Dev) : (zeroMark r d).avail = d.avail := rfl
@[simp] theorem zeroMark_boot (r : Region) (d : Dev) : (zeroMark r d).boot = d.boot := rfl
@[simp] theorem zeroMark_flash (r : Region) (d : Dev) : (zeroMark r d).flash = d.flash := rfl
@[simp] theorem zeroMark_trust (r : Region) (d : Dev) : (zeroMark r d).trust = d.trust := rfl
@[simp] theorem zeroMark_ent (r : Region) (d : Dev) : (zeroMark r d).ent = d.ent := rfl
@[simp] theorem zeroMark_ports (r : Region) (d : Dev) : (zeroMark r d).ports = d.ports := rfl
@[simp] theorem zeroMark_power (r : Region) (d : Dev) : (zeroMark r d).power = d.power := rfl
@[simp] theorem zeroMark_tele (r : Region) (d : Dev) : (zeroMark r d).tele = d.tele := rfl
@[simp] theorem zeroMark_chain (r : Region) (d : Dev) : (zeroMark r d).chain = d.chain := rfl
@[simp] theorem zeroMark_flipTurn (r : Region) (d : Dev) : (zeroMark r d).flipTurn = d.flipTurn := rfl
@[simp] theorem zeroMark_busSlots (r : Region) (d : Dev) : (zeroMark r d).busSlots = d.busSlots := rfl
@[simp] theorem zeroMark_flipSerial (r : Region) (d : Dev) : (zeroMark r d).flipSerial = d.flipSerial := rfl
@[simp] theorem zeroMark_treadCtx (r : Region) (d : Dev) : (zeroMark r d).treadCtx = d.treadCtx := rfl
@[simp] theorem zeroMark_switches (r : Region) (d : Dev) : (zeroMark r d).switches = d.switches := rfl
@[simp] theorem zeroMark_channels (r : Region) (d : Dev) : (zeroMark r d).channels = d.channels := rfl
@[simp] theorem zeroMark_heldOut (r : Region) (d : Dev) : (zeroMark r d).heldOut = d.heldOut := rfl
@[simp] theorem zeroMark_actor (r : Region) (d : Dev) : (zeroMark r d).actor = d.actor := rfl

/- `zeroFence`. -/

@[simp] theorem zeroFence_clock (d : Dev) : (zeroFence d).clock = d.clock := rfl
@[simp] theorem zeroFence_free (d : Dev) : (zeroFence d).free = d.free := rfl
@[simp] theorem zeroFence_cur (d : Dev) : (zeroFence d).cur = d.cur := rfl
@[simp] theorem zeroFence_ctxs (d : Dev) : (zeroFence d).ctxs = d.ctxs := rfl
@[simp] theorem zeroFence_march (d : Dev) : (zeroFence d).march = d.march := rfl
@[simp] theorem zeroFence_fc (d : Dev) : (zeroFence d).fc = d.fc := rfl
@[simp] theorem zeroFence_cat (d : Dev) : (zeroFence d).cat = d.cat := rfl
@[simp] theorem zeroFence_host (d : Dev) : (zeroFence d).host = d.host := rfl
@[simp] theorem zeroFence_mbHost (d : Dev) : (zeroFence d).mbHost = d.mbHost := rfl
@[simp] theorem zeroFence_mbBmc (d : Dev) : (zeroFence d).mbBmc = d.mbBmc := rfl
@[simp] theorem zeroFence_mbJtag (d : Dev) : (zeroFence d).mbJtag = d.mbJtag := rfl
@[simp] theorem zeroFence_mbMirror (d : Dev) : (zeroFence d).mbMirror = d.mbMirror := rfl
@[simp] theorem zeroFence_own (d : Dev) : (zeroFence d).own = d.own := rfl
@[simp] theorem zeroFence_avail (d : Dev) : (zeroFence d).avail = d.avail := rfl
@[simp] theorem zeroFence_boot (d : Dev) : (zeroFence d).boot = d.boot := rfl
@[simp] theorem zeroFence_flash (d : Dev) : (zeroFence d).flash = d.flash := rfl
@[simp] theorem zeroFence_trust (d : Dev) : (zeroFence d).trust = d.trust := rfl
@[simp] theorem zeroFence_ent (d : Dev) : (zeroFence d).ent = d.ent := rfl
@[simp] theorem zeroFence_ports (d : Dev) : (zeroFence d).ports = d.ports := rfl
@[simp] theorem zeroFence_power (d : Dev) : (zeroFence d).power = d.power := rfl
@[simp] theorem zeroFence_tele (d : Dev) : (zeroFence d).tele = d.tele := rfl
@[simp] theorem zeroFence_chain (d : Dev) : (zeroFence d).chain = d.chain := rfl
@[simp] theorem zeroFence_flipTurn (d : Dev) : (zeroFence d).flipTurn = d.flipTurn := rfl
@[simp] theorem zeroFence_busSlots (d : Dev) : (zeroFence d).busSlots = d.busSlots := rfl
@[simp] theorem zeroFence_flipSerial (d : Dev) : (zeroFence d).flipSerial = d.flipSerial := rfl
@[simp] theorem zeroFence_treadCtx (d : Dev) : (zeroFence d).treadCtx = d.treadCtx := rfl
@[simp] theorem zeroFence_switches (d : Dev) : (zeroFence d).switches = d.switches := rfl
@[simp] theorem zeroFence_channels (d : Dev) : (zeroFence d).channels = d.channels := rfl
@[simp] theorem zeroFence_heldOut (d : Dev) : (zeroFence d).heldOut = d.heldOut := rfl
@[simp] theorem zeroFence_actor (d : Dev) : (zeroFence d).actor = d.actor := rfl

/- `logEv`. -/

@[simp] theorem logEv_clock (code die p0 p1 p2 : Nat) (d : Dev) : (logEv code die p0 p1 p2 d).clock = d.clock := rfl
@[simp] theorem logEv_free (code die p0 p1 p2 : Nat) (d : Dev) : (logEv code die p0 p1 p2 d).free = d.free := rfl
@[simp] theorem logEv_cur (code die p0 p1 p2 : Nat) (d : Dev) : (logEv code die p0 p1 p2 d).cur = d.cur := rfl
@[simp] theorem logEv_ctxs (code die p0 p1 p2 : Nat) (d : Dev) : (logEv code die p0 p1 p2 d).ctxs = d.ctxs := rfl
@[simp] theorem logEv_mem (code die p0 p1 p2 : Nat) (d : Dev) : (logEv code die p0 p1 p2 d).mem = d.mem := rfl
@[simp] theorem logEv_march (code die p0 p1 p2 : Nat) (d : Dev) : (logEv code die p0 p1 p2 d).march = d.march := rfl
@[simp] theorem logEv_fc (code die p0 p1 p2 : Nat) (d : Dev) : (logEv code die p0 p1 p2 d).fc = d.fc := rfl
@[simp] theorem logEv_host (code die p0 p1 p2 : Nat) (d : Dev) : (logEv code die p0 p1 p2 d).host = d.host := rfl
@[simp] theorem logEv_mbHost (code die p0 p1 p2 : Nat) (d : Dev) : (logEv code die p0 p1 p2 d).mbHost = d.mbHost := rfl
@[simp] theorem logEv_mbBmc (code die p0 p1 p2 : Nat) (d : Dev) : (logEv code die p0 p1 p2 d).mbBmc = d.mbBmc := rfl
@[simp] theorem logEv_mbJtag (code die p0 p1 p2 : Nat) (d : Dev) : (logEv code die p0 p1 p2 d).mbJtag = d.mbJtag := rfl
@[simp] theorem logEv_mbMirror (code die p0 p1 p2 : Nat) (d : Dev) : (logEv code die p0 p1 p2 d).mbMirror = d.mbMirror := rfl
@[simp] theorem logEv_own (code die p0 p1 p2 : Nat) (d : Dev) : (logEv code die p0 p1 p2 d).own = d.own := rfl
@[simp] theorem logEv_avail (code die p0 p1 p2 : Nat) (d : Dev) : (logEv code die p0 p1 p2 d).avail = d.avail := rfl
@[simp] theorem logEv_boot (code die p0 p1 p2 : Nat) (d : Dev) : (logEv code die p0 p1 p2 d).boot = d.boot := rfl
@[simp] theorem logEv_flash (code die p0 p1 p2 : Nat) (d : Dev) : (logEv code die p0 p1 p2 d).flash = d.flash := rfl
@[simp] theorem logEv_trust (code die p0 p1 p2 : Nat) (d : Dev) : (logEv code die p0 p1 p2 d).trust = d.trust := rfl
@[simp] theorem logEv_ent (code die p0 p1 p2 : Nat) (d : Dev) : (logEv code die p0 p1 p2 d).ent = d.ent := rfl
@[simp] theorem logEv_ports (code die p0 p1 p2 : Nat) (d : Dev) : (logEv code die p0 p1 p2 d).ports = d.ports := rfl
@[simp] theorem logEv_power (code die p0 p1 p2 : Nat) (d : Dev) : (logEv code die p0 p1 p2 d).power = d.power := rfl
@[simp] theorem logEv_tele (code die p0 p1 p2 : Nat) (d : Dev) : (logEv code die p0 p1 p2 d).tele = d.tele := rfl
@[simp] theorem logEv_chain (code die p0 p1 p2 : Nat) (d : Dev) : (logEv code die p0 p1 p2 d).chain = d.chain := rfl
@[simp] theorem logEv_flipTurn (code die p0 p1 p2 : Nat) (d : Dev) : (logEv code die p0 p1 p2 d).flipTurn = d.flipTurn := rfl
@[simp] theorem logEv_busSlots (code die p0 p1 p2 : Nat) (d : Dev) : (logEv code die p0 p1 p2 d).busSlots = d.busSlots := rfl
@[simp] theorem logEv_flipSerial (code die p0 p1 p2 : Nat) (d : Dev) : (logEv code die p0 p1 p2 d).flipSerial = d.flipSerial := rfl
@[simp] theorem logEv_treadCtx (code die p0 p1 p2 : Nat) (d : Dev) : (logEv code die p0 p1 p2 d).treadCtx = d.treadCtx := rfl
@[simp] theorem logEv_switches (code die p0 p1 p2 : Nat) (d : Dev) : (logEv code die p0 p1 p2 d).switches = d.switches := rfl
@[simp] theorem logEv_channels (code die p0 p1 p2 : Nat) (d : Dev) : (logEv code die p0 p1 p2 d).channels = d.channels := rfl
@[simp] theorem logEv_heldOut (code die p0 p1 p2 : Nat) (d : Dev) : (logEv code die p0 p1 p2 d).heldOut = d.heldOut := rfl
@[simp] theorem logEv_actor (code die p0 p1 p2 : Nat) (d : Dev) : (logEv code die p0 p1 p2 d).actor = d.actor := rfl

/- What an update writes. -/

@[simp] theorem withDev_dev (s : State) (d : Dev) : (withDev s d).dev = d := rfl
@[simp] theorem withDev_otp (s : State) (d : Dev) : (withDev s d).otp = s.otp := rfl
@[simp] theorem withDev_pending (s : State) (d : Dev) : (withDev s d).pending = s.pending := rfl
@[simp] theorem withMem_dev (s : State) (d : Dev) : (withMem s d).dev = wakeFences (serveHeld d) := rfl
@[simp] theorem withMem_otp (s : State) (d : Dev) : (withMem s d).otp = s.otp := rfl
@[simp] theorem withMem_pending (s : State) (d : Dev) : (withMem s d).pending = s.pending := rfl

/-- No host access waits: none is served. -/
theorem serveHeld_none {d : Dev} (h : d.host.held = []) : serveHeld d = d := by simp [serveHeld, h]

theorem withMem_unheld {s : State} {d : Dev} (h : d.host.held = []) : withMem s d = { s with dev := wakeFences d } := by
  simp [withMem, serveHeld_none h]

@[simp] theorem devStore_mem (a : Nat) (bs : Bytes) (d : Dev) :
    (devStore a bs d).mem = wordsWritten a bs.length (memWrite a bs d.mem) := rfl

@[simp] theorem setCtx_ctxs (c : Nat) (x : Ctx) (d : Dev) : (setCtx c x d).ctxs = tabSet c x d.ctxs := rfl

theorem tabGet_tabSet_same {α : Type} (z : α) (k : Nat) (v : α) (t : List (Nat × α)) :
    tabGet z k (tabSet k v t) = v := by
  rw [tabGet, tabGet?_tabSet_same]; rfl

theorem tabGet_tabSet_other {α : Type} (z : α) (k i : Nat) (v : α) (t : List (Nat × α)) (h : i ≠ k) :
    tabGet z i (tabSet k v t) = tabGet z i t := by
  rw [tabGet, tabGet?_tabSet_other k i v t h]; rfl

/-- A queue that was set reads as set. -/
@[simp] theorem queueOf_setQueue_same (q : QRef) (x : Queue) (d : Dev) : queueOf (setQueue q x d) q = x := by
  cases q <;> exact tabGet_tabSet_same ..

/-- Every other queue is as before. -/
theorem queueOf_setQueue_other {p q : QRef} (x : Queue) (d : Dev) (h : p ≠ q) :
    queueOf (setQueue q x d) p = queueOf d p := by
  cases q with
  | kernel k =>
    cases p with
    | kernel j => exact tabGet_tabSet_other _ _ _ _ _ (fun e => h (by rw [Fin.ext e]))
    | user _ => rfl
  | user k =>
    cases p with
    | kernel _ => rfl
    | user j => exact tabGet_tabSet_other _ _ _ _ _ (fun e => h (by rw [Fin.ext e]))

@[simp] theorem ctxOf_setCtx_same (c : Nat) (x : Ctx) (d : Dev) : ctxOf (setCtx c x d) c = some x :=
  tabGet?_tabSet_same ..

theorem ctxOf_setCtx_other {c k : Nat} (x : Ctx) (d : Dev) (h : k ≠ c) : ctxOf (setCtx c x d) k = ctxOf d k :=
  tabGet?_tabSet_other _ _ _ _ h

@[simp] theorem ctxOf_setQueue (q : QRef) (x : Queue) (d : Dev) (c : Nat) : ctxOf (setQueue q x d) c = ctxOf d c := by
  cases q <;> rfl

@[simp] theorem queueOf_setCtx (c : Nat) (x : Ctx) (d : Dev) (q : QRef) : queueOf (setCtx c x d) q = queueOf d q := by
  cases q <;> rfl

@[simp] theorem queueOf_devStore (a : Nat) (bs : Bytes) (d : Dev) (q : QRef) :
    queueOf (devStore a bs d) q = queueOf d q := by
  cases q <;> rfl

@[simp] theorem msixOf_setMsix_same (v : Nat) (m : MsixVec) (d : Dev) : msixOf (setMsix v m d) v = m :=
  tabGet_tabSet_same ..

@[simp] theorem mbox_setMbox_same (ch : Chan) (m : Mailbox) (d : Dev) : mbox (setMbox ch m d) ch = m := by
  cases ch <;> rfl

theorem mbox_setMbox_other {ch k : Chan} (m : Mailbox) (d : Dev) (h : k ≠ ch) :
    mbox (setMbox ch m d) k = mbox d k := by
  cases ch <;> cases k <;> first | rfl | exact absurd rfl h

end Sys2Proof.Laws
end

