-- ==== Sys2Proof/Machine/Foyer.lean ====
section
/-! DEFINITION. What the host reads in the foyer (R10, R13, R289, R290, R340, R341, R391, R407, R416, R438): the value of
each 32-bit register as a function of the state. The table of commands has no read of a register but RAW_DATA_READ. -/

namespace Sys2Proof.Machine

/-- One 32-bit half of a 64-bit register. -/
def half (v o : Nat) : Nat := bits v (8 * (o % 8)) 32

def rawFails (x : RawSource) : Nat := x.rctFails + x.aptFails * 2 ^ 16 + x.failCount * 2 ^ 32

/-- IDENT (Table 14.4). -/
def identReg (d : Dev) (o : Nat) : Nat :=
  let t := d.trust
  match o with
  | 0x00 => Config.vendorId + Config.deviceId * 2 ^ 16
  | 0x04 => Config.siliconRev + 0x01 * 2 ^ 8
  | 0x08 => t.fwLevel
  | 0x0C => t.fwBuild
  | 0x10 => ofBool t.fwSlotB + 2 * ofBool t.fwFallback
  | 0x18 | 0x1C => half t.uniqueId o
  | _ => 0

/-- An ALIVE_IN edge arrived within the last 1.0 ms. -/
def aliveInSeen (d : Dev) : Bool := !aliveInDead d

/-- STATUS (Table 14.4). -/
def statusReg (d : Dev) (o : Nat) : Nat :=
  let w := d.own
  match o with
  | 0x00 =>
    ofBool d.boot.ready + 2 * ofBool d.boot.failed + 4 * ofBool d.fc.safeState + d.boot.stage * 2 ^ 4 +
      d.trust.lifecycle * 2 ^ 8
  | 0x04 =>
    ownerCode w.owner + 8 * ofBool w.silent + 16 * ofBool w.handover.isSome +
      ownerCode (w.handover.map (fun h => h.1)) * 2 ^ 5 + w.overrides * 2 ^ 16
  | 0x08 => w.heartbeatMs
  | 0x0C => w.expert.toNat
  | 0x14 => ofBool d.boot.aliveRunning + 2 * ofBool (aliveInSeen d)
  | 0x18 => chainIdReg d
  | 0x1C => d.avail.generation
  | _ => 0

def stateCode (s : QState) : Nat :=
  match s with
  | .disabled => 0
  | .idle => 1
  | .active => 2
  | .disabling => 3

/-- Bits [5:0] of a queue's status word. -/
def queueStatus (x : Queue) : Nat :=
  stateCode x.state + 4 * ofBool x.stalled + 8 * ofBool x.cqWait + 16 * ofBool x.configError + 32 * ofBool x.doorbellError

/-- A kernel queue block (Table 12.1). -/
def kernelReg (x : Queue) (o : Nat) : Nat :=
  match o with
  | 0x00 => x.sqTail
  | 0x08 => x.cqHead
  | 0x10 | 0x14 => half x.sqBase o
  | 0x18 | 0x1C => half x.cqBase o
  | 0x20 => x.config
  | 0x24 => x.irqCount
  | 0x28 => queueStatus x
  | 0x30 => x.sqHead
  | 0x38 => x.cqTail + ofBool x.phase * 2 ^ 16
  | 0x40 | 0x44 => half x.steps o
  | _ => 0

/-- A queue control block (Table 12.2). -/
def qcbReg (d : Dev) (x : Queue) (o : Nat) : Nat :=
  match o with
  | 0x00 | 0x04 => half x.sqBase o
  | 0x08 | 0x0C => half x.cqBase o
  | 0x10 => x.config
  | 0x14 => x.context + ofBool x.bound * 2 ^ 15 + x.irqCount * 2 ^ 16
  | 0x18 => queueStatus x + x.sqTail * 2 ^ 16
  | 0x1C => x.sqHead + x.cqHead * 2 ^ 16
  | 0x20 => x.cqTail + ofBool x.phase * 2 ^ 16
  | 0x24 => x.stallEpisodes
  | 0x28 | 0x2C => half x.steps o
  | 0x30 | 0x34 => if x.bound then half (progressOf d x.context) o else 0
  | _ => 0

/-- The entropy block (Table 15.12). -/
def entropyReg (d : Dev) (o : Nat) : Nat :=
  let e := d.ent
  let mask (p : RawSource → Bool) : Nat := ((List.range 8).map (fun i => ofBool (p (rawSrc d i)) * 2 ^ i)).foldl (· + ·) 0
  if o = 0 then
    ofBool e.ready + 2 * ofBool e.failed + mask (fun x => x.inService) * 2 ^ 8 + mask (fun x => x.restarting) * 2 ^ 16 +
      mask (fun x => x.retired) * 2 ^ 24
  else if o = 4 then e.pool.length
  else if o = 8 then 41 + 794 * 2 ^ 16
  else if o = 0xC then e.waiting.length
  else if o = 0x10 ∨ o = 0x14 then half e.served o
  else if 0x20 ≤ o ∧ o < 0x60 then half (rawFails (rawSrc d ((o - 0x20) / 8))) o
  else if o = 0x60 then e.rawSource + ofBool e.rawEn * 2 ^ 8 + ofBool e.rawOverrun * 2 ^ 9
  else if o = 0x64 then e.rawFifo.length
  else if o = 0x68 then
    if 32 ≤ e.rawFifo.length then (e.rawFifo.take 32).zipIdx.foldl (fun v y => v + ofBool y.1 * 2 ^ y.2) 0 else 0
  else 0

/-- The MSI-X table and its pending bits (R301). -/
def msixReg (d : Dev) (o : Nat) : Nat :=
  let m := msixOf d (o / 16)
  match o % 16 with
  | 0 => low 32 m.addr
  | 4 => bits m.addr 32 32
  | 8 => low 32 m.data
  | _ => ofBool m.masked

def pbaReg (d : Dev) (o : Nat) : Nat :=
  ((List.range 32).map (fun i => ofBool (msixOf d (8 * o + i)).pending * 2 ^ i)).foldl (· + ·) 0

/-- The frequency of an edge island (R22, R422): fixed, or following the trained LPDDR5X rate or the link's rate; the
manual gives the number for the curator and the always-on island only (log 18). -/
def edgeMhz (d : Dev) (i : Nat) : Nat :=
  if i = 640 then 1500
  else if i = 642 then 100
  else if 644 ≤ i ∧ i < 652 then low 12 (Config.edgeMhz i d.avail.mts)
  else if 653 ≤ i ∧ i < 661 then low 12 (Config.edgeMhz i (linkOf d (i - 653)).rate)
  else if 662 ≤ i then low 12 (Config.edgeMhz i (linkOf d (i - 654)).rate)
  else low 12 (Config.edgeMhz i 0)

/-- An island's word (Table 17.5). The number of an edge island whose clock no table gives is free, the same at every read of
one link or train rate (log 18). -/
def islandReg (d : Dev) (i : Nat) : Nat :=
  if i < 640 then
    let x := tabGet {} i d.power.islands
    x.mhz + ofBool x.gated * 2 ^ 12 + ofBool (tapAttached d i) * 2 ^ 13 + x.cls * 2 ^ 14 + ofInt 8 x.tune * 2 ^ 16 + x.limit * 2 ^ 24
  else edgeMhz d i

/-- Offsets of the 64-bit counters of traffic and waiting whose values follow timing, all or in part (log 18). -/
def timedCounter (o : Nat) : Bool :=
  o == 0x40 || (decide (0x2000 ≤ o) && decide (o < 0x2400) && (o % 0x40 == 0x10 || o % 0x40 == 0x18)) ||
    (decide (0x3000 ≤ o) && decide (o < 0x3500)) || (decide (0x3800 ≤ o) && decide (o < 0x3820)) ||
    (decide (0x3900 ≤ o) && decide (o < 0x3B00) && o % 16 == 8) ||
    (decide (0x3C00 ≤ o) && decide (o < 0x3D00) && o % 16 == 8)

/-- What such a counter has gained in `n` nanoseconds from `since`: 0 at the chip reset, and it saturates (R438). -/
def timedCount (o since : Nat) : Nat → Nat
  | 0 => 0
  | n + 1 => satAdd 64 (timedCount o since n) (Config.timedGain o (since + n))

/-- A 64-bit telemetry counter (Table 17.5), by its register's offset. -/
def teleCounter (d : Dev) (o : Nat) : Option Nat :=
  let t := d.tele
  let h (k : Nat) : HallCounters := tabGet {} k t.halls
  if o = 0x20 then some d.power.throttle
  else if o = 0x28 then some t.hostUnmapped
  else if o = 0x30 then some t.chainSendDrops
  else if o = 0x38 then some t.curatorBuffers
  else if o = 0x48 then some t.rxBytes
  else if o = 0x50 then some t.txBytes
  else if timedCounter o then some (satAdd 64 (tabGet 0 o t.stairs) (timedCount o t.since (d.clock - t.since)))
  else if 0x2000 ≤ o ∧ o < 0x2400 then
    match o % 0x40 with
    | 0x00 => some (h ((o - 0x2000) / 0x40)).flipSlots
    | 0x08 => some (h ((o - 0x2000) / 0x40)).flipWait
    | 0x20 => some (h ((o - 0x2000) / 0x40)).memCe
    | 0x28 => some (h ((o - 0x2000) / 0x40)).memUe
    | _ => none
  else if 0x3C00 ≤ o ∧ o < 0x3D00 ∧ o % 16 = 0 then some (tabGet 0 ((o - 0x3C00) / 16) t.linkTx)
  else none

/-- A rail's words (Table 17.5). -/
def railReg (d : Dev) (o : Nat) : Nat :=
  let r := (o - 0x100) / 8
  if 9 ≤ r then 0
  else if o % 8 = 0 then
    d.power.railMv.getD r 0 +
      (if r < 4 then d.power.setpoint.getD r 0 else [750, 800, 850, 500, 900].getD (r - 4) 0) * 2 ^ 16
  else d.power.railMa.getD r 0

/-- The telemetry block (Table 17.5). A high word is the one that a read of its low word latched. -/
def teleReg (d : Dev) (o : Nat) : Nat :=
  let p := d.power
  let base := o / 8 * 8
  match teleCounter d base with
  | some v =>
    if o % 8 = 0 then low 32 v
    else
      match d.tele.latch with
      | some (a, w) => if a = base then w else bits v 32 32
      | none => bits v 32 32
  | none =>
    if o = 0 then p.seq
    else if o = 4 then p.powerW + p.cap * 2 ^ 16
    else if o = 8 then ofBool p.capUnmet + 2 * ofBool (p.therm.any (fun c => decide (c < 2000))) + 4 * ofBool d.boot.thermtrip
    else if o = 0xC then p.ceilT + p.ceilO * 2 ^ 16
    else if o = 0x10 then p.ceilF + p.preset * 2 ^ 16
    else if o = 0x14 then p.therm.getD 0 0 + p.therm.getD 1 0 * 2 ^ 16
    else if o = 0x18 then p.therm.getD 2 0 + p.therm.getD 3 0 * 2 ^ 16
    else if o = 0x1C then ofInt 16 (hottest d.power.temps).1 + (hottest d.power.temps).2 * 2 ^ 16
    else if o = 0x58 then p.canaryFails
    else if 0x100 ≤ o ∧ o < 0x148 then railReg d o
    else if 0x200 ≤ o ∧ o < 0x340 then ofInt 16 (p.temps.getD ((o - 0x200) / 4) 0)
    else if 0x1000 ≤ o ∧ o < 0x1A78 then islandReg d ((o - 0x1000) / 4)
    else if 0x3900 ≤ o ∧ o < 0x3B00 ∧ o % 16 = 0 then tabGet 0 ((o - 0x3900) / 16) d.tele.linkCe
    else if 0x3900 ≤ o ∧ o < 0x3B00 ∧ o % 16 = 4 then tabGet 0 ((o - 0x3900) / 16) d.tele.linkUe
    else 0

/-- A 32-bit read at an aligned foyer offset (Table 14.3): what no block defines reads zero (R10); before READY only the
blocks of Table 18.2 read (R444). -/
def foyerRead32 (d : Dev) (o : Nat) : Nat :=
  if !d.boot.ready && !earlyFoyer o then 0
  else if o < 0x1000 then identReg d o
  else if o < 0x2000 then statusReg d (o - 0x1000)
  else if o < 0x2020 then half (d.host.windows.getD ((o - 0x2000) / 8) 0) o
  else if 0x10000 ≤ o ∧ o < 0x12000 then mboxRead32 d .host (o - 0x10000)
  else if 0x20000 ≤ o ∧ o < 0x21000 then kernelReg (queueOf d (.kernel (Fin.ofNat 16 ((o - 0x20000) / 256)))) (o % 256)
  else if 0x30000 ≤ o ∧ o < 0x40000 then fcReg d (o - 0x30000)
  else if 0x40000 ≤ o ∧ o < 0x50000 then catReg d (o - 0x40000)
  else if 0x50000 ≤ o ∧ o < 0x60000 then entropyReg d (o - 0x50000)
  else if 0x60000 ≤ o ∧ o < 0x70000 then teleReg d (o - 0x60000)
  else if 0x80000 ≤ o ∧ o < 0x88000 then msixReg d (o - 0x80000)
  else if 0x88000 ≤ o ∧ o < 0x88100 then pbaReg d (o - 0x88000)
  else if 0x100000 ≤ o ∧ o < 0x140000 then qcbReg d (queueOf d (.user (Fin.ofNat 4096 ((o - 0x100000) / 64)))) (o % 64)
  else 0

/-- What reading changes: a low telemetry word latches its high word (R438), and RAW_DATA is taken (R392). -/
def foyerReadEffect (o : Nat) (d : Dev) : Dev :=
  if o = 0x50068 then rawRead d
  else if 0x60000 ≤ o ∧ o < 0x70000 ∧ o % 8 = 0 then
    match teleCounter d (o - 0x60000) with
    | some v => { d with tele := { d.tele with latch := some (o - 0x60000, bits v 32 32) } }
    | none => d
  else d

end Sys2Proof.Machine
end

