-- ==== Sys2Proof/Tests/Slice0.lean ====
section
/-! SUPPORT. Tests: the refusals of ill-formed commands, values the manual prints, and for every statement with
hypotheses a state that meets them, shown by what the statement says there. -/

namespace Sys2Proof.Tests

open Sys2Proof Sys2Proof.Machine

-- One theorem after another: each asks the kernel to decide several closed facts.
set_option Elab.async false

/- Well-formedness: an ill-formed command for each check. -/

theorem test_wf_bar4_read : Instr.wf (.bar4Access 0 (.read 0)) = false := by decide +kernel
theorem test_wf_bar4_write : Instr.wf (.bar4Access 0 (.write [])) = false := by decide +kernel
theorem test_wf_refresh_bank : Instr.wf (.lpddrRefresh 0 32) = false := by decide +kernel
theorem test_wf_ack_credits : Instr.wf (.flitAck 0
    { vc := 0, type := 0, first := false, last := false, dest := 0, src := 0, hops := 0, length := 0, seq := 0, reserved := false }
    ⟨0, [1, 2, 3], 0⟩) = false := by decide +kernel
theorem test_wf_raw_block : Instr.wf (.entropyBlockDone 0 [0]) = false := by decide +kernel
theorem test_wf_setting : Instr.wf (.calWriteSetting .host (some [0])) = false := by decide +kernel
theorem test_wf_floor : Instr.wf (.raiseFloor .host (some [0])) = false := by decide +kernel
theorem test_wf_retrain : Instr.wf (.pcieRetrain 0 1) = false := by decide +kernel
theorem test_wf_retrain_width : Instr.wf (.pcieRetrain 1 0) = false := by decide +kernel
theorem test_wf_i3c : Instr.wf (.i3cPrivateWrite [0, 0, 0]) = false := by decide +kernel
theorem test_wf_nop : Instr.wf (.nop (.kernel 0)) = true := by decide +kernel

/- Values the manual prints. -/

/-- Table 4.8. -/
theorem test_variate : treadVariate 1 { domain := 0, block := 2, replica := 1, sweep := 5, spin := 3, draw := 9 } =
    22674 := by decide +kernel
/-- Table 3.1. -/
theorem test_table_l : tableL 16383 = 90854 := by decide +kernel
theorem test_table_h : tableH 65535 = -772244 := by decide +kernel
/-- The example of R105: 2,560 × 4,244 / 4,096 is 2,652. -/
theorem test_ladder : ladderT 2560 4244 = 2652 := by decide +kernel
/-- CRC-32C of the nine ASCII digits, the check value of the standard Table 15.1 names. -/
theorem test_crc : crc32c [0x31, 0x32, 0x33, 0x34, 0x35, 0x36, 0x37, 0x38, 0x39] = 0xE3069283 := by decide +kernel
/-- R136: poison is sticky, and a sum out of range poisons. -/
theorem test_int_step : intStep (.i 2147483647) 1 = .poison := by decide +kernel

/- What answers. -/

def okPair {α : Type} (r : EStateM.Result Stop Dev α) : Option (α × Dev) :=
  match r with
  | .ok a d => some (a, d)
  | .error _ _ => none

def isOk {α : Type} (r : EStateM.Result Stop Dev α) : Bool := (okPair r).isSome

def okVal {α : Type} (r : EStateM.Result Stop Dev α) (h : isOk r = true) : α := ((okPair r).get h).1

def okDev {α : Type} (r : EStateM.Result Stop Dev α) (h : isOk r = true) : Dev := ((okPair r).get h).2

theorem ok_of {α : Type} {r : EStateM.Result Stop Dev α} (h : isOk r = true) : r = .ok (okVal r h) (okDev r h) := by
  cases r with
  | ok a d => rfl
  | error x d => cases h

theorem ok_unit {r : EStateM.Result Stop Dev Unit} (h : isOk r = true) : r = .ok () (okDev r h) := by
  cases r with
  | ok a d => rfl
  | error x d => cases h

theorem ok_of2 {α β : Type} {r : EStateM.Result Stop Dev (α × β)} (h : isOk r = true) :
    r = .ok ((okVal r h).1, (okVal r h).2) (okDev r h) := ok_of h

theorem ok_of3 {α β γ : Type} {r : EStateM.Result Stop Dev (α × β × γ)} (h : isOk r = true) :
    r = .ok ((okVal r h).1, (okVal r h).2.1, (okVal r h).2.2) (okDev r h) := ok_of h

/-- An answer whose value is known. -/
theorem ok_at {α : Type} {r : EStateM.Result Stop Dev α} {a : α} (h : (okPair r).map (fun p => p.1) = some a) :
    r = .ok a (okDev r (by unfold isOk; cases hr : okPair r with
      | none => rw [hr] at h; cases h
      | some p => rfl)) := by
  cases r with
  | ok b d => cases h; rfl
  | error x d => cases h

theorem some_get {α : Type} {o : Option α} (h : o.isSome = true) : o = some (o.get h) := (Option.some_get h).symm

/- States in which an op may issue. -/

def q0 : QRef := .kernel 0

/-- A record: opcode, flags, no predecessors, no indirect operand, and its operand words. -/
def record (code : Nat) (ops : List Nat) : Bytes :=
  leBytes 2 code ++ leBytes 4 0xFFFFFFFF ++ leBytes 2 0 ++ ops.flatMap (leBytes 8) ++
    List.replicate (24 - 8 * ops.length) 0

/-- An entry of one op, of a kernel queue of the owner. -/
def entry (c : Nat) (r : Bytes) : Entry :=
  { index := 0, tag := 7, irq := false, ctx := c, kind := .inline r, start := 0, opCount := 1, paramAddr := 0,
    paramBytes := 0, next := 0, issues := [], failed := false, early := none, stop := none, trusted := true }

/-- READY, with all memory channels, memory that reads as zero, the host's accesses on, and hall 0's islands running. -/
def readyDev : Dev :=
  { State.reset.dev with
    mem := { State.reset.dev.mem with mapping := List.range 32, channelBytes := 2 ^ 32, marks := [] }
    avail := { State.reset.dev.avail with channels := BitVec.allOnes 32 }
    boot := { State.reset.dev.boot with stage := 11, ready := true }
    host := { State.reset.dev.host with memSpace := true, busMaster := true, linkUp := true }
    power := { State.reset.dev.power with
      islands := (List.range 40).map (fun i => (i, { mhz := 400, gated := false, limit := 400 })) } }

/-- Fence scratch, where the tests keep their descriptors. -/
def fa : Nat := 0x020000000000

/-- A device whose kernel queue 0 runs an entry for context 0. -/
def opDev (x : Ctx) (e : Entry) (cells : List (Nat × Bytes)) (d : Dev) : Dev :=
  cells.foldl (fun d c => devStore c.1 c.2 d)
    (setCtx 0 x (setQueue q0 { config := 0x404, state := .active, sqTail := 1, cur := some e } d))

def opState (x : Ctx) (e : Entry) (cells : List (Nat × Bytes)) (d : Dev) : State :=
  { State.reset with dev := opDev x e cells d }

/-- The record can be read again (R311). -/
def rereadNow (e : Entry) (o : Nat) (r : Bytes) (d : Dev) : Bool :=
  match e.kind with
  | .buffer a _ => isHost a || (decide (d.fc.injected = [] ∧ d.mem.writeback = []) && isOk (devRead (a + o) r.length d))
  | .inline _ | .nop => true

theorem reread_of {e : Entry} {o : Nat} {r : Bytes} {d : Dev} (h : rereadNow e o r d = true) :
    ∃ bs, readRecord e o r d = .ok bs d := by
  unfold rereadNow at h
  unfold readRecord
  split at h
  case h_1 a n hk =>
    simp only [hk]
    cases hh : isHost a with
    | true => exact ⟨r, by simp only [if_true]; rfl⟩
    | false =>
      simp only [Bool.false_eq_true, if_false]
      simp only [hh, Bool.false_or, Bool.and_eq_true, decide_eq_true_eq] at h
      have hr := ok_of h.2
      obtain ⟨-, hw⟩ := Laws.devRead_inv hr
      exact ⟨_, hr.trans (congrArg _ (Laws.readWords_quiet h.1.1 h.1.2 hw))⟩
  case h_2 hk => exact ⟨r, by simp only [hk]; rfl⟩
  case h_3 hk => exact ⟨r, by simp only [hk]; rfl⟩

/-- The op may issue, and its operands are direct. -/
def runsNow (s : State) (q : QRef) (code : Nat) (e : Entry) (o : Nat) (r : Bytes) : Bool :=
  decide ((queueOf s.dev q).cur = some e) && entryOpen e && mirrorGoes s.dev e.ctx &&
    decide (recordAt s.dev e e.next = some (o, r)) && mayIssue e r &&
    rereadNow e o r s.dev && !untrusted e r &&
    decide (recordChecks o e.next e.opCount e.ctx e.paramBytes r = none) && decide (recOpcode r = code) &&
    decide (recIndirect r = 0) &&
    decide ((operandReserved (recOpcode (directRec r)) o (directRec r)).or
      (operandChecks (recOpcode (directRec r)) o e.next e.opCount (directRec r)) = none)

theorem resolve_direct {env : OpEnv} {e : Entry} {r : Bytes} {d : Dev} (h : recIndirect r = 0) (l : List Nat) :
    resolve env e r l d = .ok r d := by
  induction l with
  | nil => rfl
  | cons w t ih =>
    have hb : bit (recIndirect r) w = false := by rw [h]; simp [bit, bits]
    unfold resolve
    simp only [hb, Bool.false_eq_true, if_false]
    exact ih

/-- The hypothesis of the statements about ops holds. -/
theorem runs {s : State} {q : QRef} {code : Nat} {e : Entry} {o : Nat} {r : Bytes}
    (h : runsNow s q code e o r = true) : OpRuns s q code e o r (directRec r) (acting e s.dev) := by
  simp only [runsNow, Bool.and_eq_true, decide_eq_true_eq] at h
  obtain ⟨⟨⟨⟨⟨⟨⟨⟨⟨⟨h1, h2⟩, h3⟩, h4⟩, h5⟩, hr⟩, hu⟩, h6⟩, h7⟩, h8⟩, h9⟩ := h
  refine ⟨⟨h1, h2, h3, h4, h5, reread_of hr, h6, by simpa using hu⟩, h7, ⟨r, resolve_direct h8 _, rfl⟩, ?_⟩
  have : recOpcode (directRec r) = recOpcode (directRec r) := rfl
  exact h9

theorem dest_of {a n : Nat} {d : Dev} (h : isOk (checkDest a n d) = true) : checkDest a n d = .ok () d := by
  have h := ok_of h
  generalize okDev (checkDest a n d) _ = e at h
  rw [h]
  unfold checkDest at h
  obtain ⟨⟨⟩, e1, h1, h2⟩ := Laws.bind_inv h
  obtain ⟨-, rfl⟩ := Laws.checkAddr_inv h1
  cases hi : isHost a with
  | false =>
    simp only [hi] at h2
    obtain ⟨rfl, -⟩ := Laws.checkRange_inv h2
    rfl
  | true =>
    simp only [hi, if_true] at h2
    rw [Laws.bind_ok Laws.get_ok] at h2
    cases hh : hostHolds e1 with
    | false => simp only [hh] at h2; cases h2; rfl
    | true => simp only [hh, if_true] at h2; cases h2

/-- A check that answers leaves the device. -/
theorem stays {f : Act Unit} (hf : ∀ d d', f d = .ok () d' → d' = d) {d : Dev} (h : isOk (f d) = true) :
    f d = .ok () d := by
  have h := ok_unit h
  rw [h, hf _ _ h]

theorem require_stays {b : Bool} {st n : Nat} (d d' : Dev) (h : require b st n d = .ok () d') : d' = d := by
  cases b <;> cases h
  rfl

theorem fmt_stays {b : Bool} {i k : Nat} (d d' : Dev) (h : requireFmt b i k d = .ok () d') : d' = d := require_stays d d' h

theorem still_of {x : Ctx} {y : Flight} {d : Dev} (h : isOk (checkStillFits x y d) = true) :
    checkStillFits x y d = .ok () d := by
  refine stays (fun d d' h => ?_) h
  unfold checkStillFits at h
  cases hk : y.steps.findIdx? (fun s => s.kind == fkAnneal) with
  | none => simp only [hk] at h; cases h; rfl
  | some i => simp only [hk] at h; exact fmt_stays _ _ h

theorem treads_of {k : Nat} {l : List Nat} {d : Dev} (h : isOk (treadsGo k l d) = true) : treadsGo k l d = .ok () d := by
  refine stays (fun d d' h => ?_) h
  unfold treadsGo at h
  rw [Laws.bind_ok Laws.get_ok] at h
  split at h <;> cases h
  rfl

theorem exclusive_of {e : OpEnv} {l : List FStep} {d : Dev} (h : isOk (checkExclusive e l d) = true) :
    checkExclusive e l d = .ok () d := by
  refine stays (fun d d' h => ?_) h
  unfold checkExclusive at h
  rw [Laws.bind_ok Laws.get_ok] at h
  cases hk : sharedGallery d e.ctx (l.flatMap stepGalleries) with
  | none => simp only [hk] at h; cases h; rfl
  | some i => simp only [hk] at h; cases h

/-- Bytes of a descriptor: values at offsets, each of a number of bytes, with zeros between. -/
def desc (n : Nat) (l : List (Nat × Nat × Nat)) : Bytes :=
  l.foldl (fun b f => b.take f.1 ++ leBytes f.2.1 f.2.2 ++ b.drop (f.1 + f.2.1)) (List.replicate n 0)

/- Queues, doorbells and vectors. Each of the theorems below takes a statement and applies it to a state, so that Lean
checks that the state meets the statement's hypotheses. -/

/-- READY, owned by the host, kernel queue 0 DISABLED with rings in device memory. -/
def queueS (v : QState) : State :=
  { State.reset with
    dev := setQueue q0 { sqBase := fa, cqBase := fa + 4096, config := 0x404, state := v }
      { readyDev with own := { readyDev.own with owner := some .host, heartbeatMs := 10 } } }

theorem test_sq_tail (h : Obligations.QueueRegistersAct) : ∃ t, exec (.sqTailDoorbell q0 15) (queueS .idle) = .next t :=
  ⟨_, (h.1 (queueS .idle) q0 15 (by decide +kernel) rfl (by decide +kernel)).1 (by decide +kernel) (by decide +kernel)⟩

theorem test_cq_head (h : Obligations.QueueRegistersAct) : ∃ t, exec (.cqHeadDoorbell q0 0) (queueS .idle) = .next t :=
  ⟨_, (h.1 (queueS .idle) q0 0 (by decide +kernel) rfl (by decide +kernel)).2.1 (by decide +kernel) (by decide +kernel)⟩

theorem test_sq_tail_range (h : Obligations.QueueRegistersAct) :
    ∃ t, exec (.sqTailDoorbell q0 16) (queueS .idle) = .next t :=
  ⟨_, (h.1 (queueS .idle) q0 16 (by decide +kernel) rfl (by decide +kernel)).2.2.1 (.inr (by decide +kernel))⟩

theorem test_cq_head_range (h : Obligations.QueueRegistersAct) :
    ∃ t, exec (.cqHeadDoorbell q0 0x10000) (queueS .idle) = .next t :=
  ⟨_, (h.1 (queueS .idle) q0 0x10000 (by decide +kernel) rfl (by decide +kernel)).2.2.2 (.inl (by decide +kernel))⟩

theorem test_kernel_enable (h : Obligations.QueueRegistersAct) :
    ∃ t, exec (.kernelQueueEnable 0 0x80000404) (queueS .disabled) = .next t :=
  ⟨_, (h.2 (queueS .disabled) 0 0x80000404 (by decide +kernel) rfl (by decide +kernel)).1 (by decide +kernel) (by decide +kernel) (by decide +kernel)⟩

theorem test_kernel_disable (h : Obligations.QueueRegistersAct) :
    ∃ t, exec (.kernelQueueDisable 0 0) (queueS .idle) = .next t :=
  ⟨_, (h.2 (queueS .idle) 0 0 (by decide +kernel) rfl (by decide +kernel)).2.1 (by decide +kernel) (by decide +kernel)⟩

theorem test_kernel_abort (h : Obligations.QueueRegistersAct) : ∃ t, exec (.kernelQueueAbort 0) (queueS .active) = .next t :=
  ⟨_, (h.2 (queueS .active) 0 0 (by decide +kernel) rfl (by decide +kernel)).2.2⟩

def vectorS (p : Bool) : State :=
  { State.reset with
    dev := setMsix 2047 { addr := 0x1000, data := 5, pending := p }
      { readyDev with host := { readyDev.host with msixEnable := true } } }

theorem test_unmask (h : Obligations.UnmaskingSendsThePendingMessage) : ∃ t, exec (.msixUnmask 2047) (vectorS false) = .next t :=
  ⟨_, (h (vectorS false) 2047 (by decide +kernel) rfl).1 (by decide +kernel)⟩

theorem test_unmask_pending (h : Obligations.UnmaskingSendsThePendingMessage) :
    ∃ t, exec (.msixUnmask 2047) (vectorS true) = .next t := by
  obtain ⟨t, ht, -⟩ := (h (vectorS true) 2047 (by decide +kernel) rfl).2 (by decide +kernel) rfl rfl rfl (by decide +kernel)
  exact ⟨_, ht⟩

/-- Kernel queues 3 and 15 hold entries; queue 3 was served last. -/
def dispatchS : State :=
  let x : Queue := { sqBase := fa, cqBase := fa + 4096, config := 0x404, state := .active, sqTail := 1 }
  { State.reset with
    dev := { setQueue (.kernel 3) x (setQueue (.kernel 15) x readyDev) with
      cur := { (setQueue (.kernel 3) x (setQueue (.kernel 15) x readyDev)).cur with lastKernel := 3 } } }

theorem test_dispatch (h : Obligations.WorkIsDispatchedCompletedAndWatched) : ∃ t, exec .entryDispatch dispatchS = .next t :=
  ⟨_, h.1 dispatchS 15 rfl rfl rfl (by decide +kernel) (by decide +kernel)⟩

/-- An entry whose op has ended. -/
def doneEntry : Entry :=
  { entry 0 (record 0 []) with
    next := 1, issues := [{ idx := 0, record := record 0 [], wait := .ended { detail := 0 } }] }

def doneS : State := opState {} doneEntry [] readyDev

theorem test_terminal (h : Obligations.WorkIsDispatchedCompletedAndWatched) : ∃ t, exec (.entryTerminalCompletion q0) doneS = .next t :=
  ⟨_, h.2.1 doneS q0 doneEntry (by decide +kernel) (by decide +kernel) (by decide +kernel) (by decide +kernel) (by decide +kernel)⟩

/- Control and memory ops. -/

def nopS : State := opState {} (entry 0 (record 0 [])) [] readyDev

theorem test_nop (h : Obligations.WaitsAndFencesAct) : ∃ t, exec (.nop q0) nopS = .next t :=
  ⟨_, h.1 nopS q0 _ _ _ _ _ (runs (e := entry 0 (record 0 [])) (o := 64) (r := record 0 []) (by decide +kernel))⟩

/-- A fence that holds 5. -/
def fenceS (code : Nat) (ops : List Nat) : State := opState {} (entry 0 (record code ops)) [(fa, [5])] readyDev

theorem runs_fence {code : Nat} {ops : List Nat}
    (h : runsNow (fenceS code ops) q0 code (entry 0 (record code ops)) 64 (record code ops) = true) :
    OpRuns (fenceS code ops) q0 code (entry 0 (record code ops)) 64 (record code ops) (directRec (record code ops))
      (acting (entry 0 (record code ops)) (fenceS code ops).dev) := runs h

theorem test_wait_fence (h : Obligations.WaitsAndFencesAct) : ∃ t, exec (.waitFence q0) (fenceS 1 [fa, 5]) = .next t :=
  ⟨_, (h.2.1 _ q0 _ _ _ _ _ (runs_fence (code := 1) (ops := [fa, 5]) (by decide +kernel))).1 _ _ (ok_of (by decide +kernel))⟩

theorem test_wait_host_fence (h : Obligations.WaitsAndFencesAct) :
    ∃ t, exec (.waitFence q0) (fenceS 1 [2 ^ 63, 5]) = .next t :=
  ⟨_, (h.2.1 _ q0 _ _ _ _ _ (runs_fence (code := 1) (ops := [2 ^ 63, 5]) (by decide +kernel))).2 (by decide +kernel)
    (by decide +kernel)⟩

/-- An entry that waits for a host fence. -/
def pollIssue : OpIssue :=
  { idx := 0, record := record 1 [2 ^ 63 + 64, 5], wait := .fence (2 ^ 63 + 64) 5 }
def pollEntry : Entry := { entry 0 (record 1 [2 ^ 63 + 64, 5]) with next := 1, issues := [pollIssue] }
def pollS : State := opState {} pollEntry [] { readyDev with host := { readyDev.host with mem := [(64, 5)] } }

theorem test_poll (h : Obligations.WaitsAndFencesAct) : ∃ t, exec (.waitFencePoll q0) pollS = .next t :=
  ⟨_, h.2.2.1 pollS q0 pollEntry pollIssue (2 ^ 63 + 64) 5 _ _ (by decide +kernel) rfl (by decide +kernel)
    (.inl ⟨by decide +kernel, by decide +kernel⟩) rfl (ok_of (by decide +kernel)) (by decide +kernel)⟩

theorem test_signal (h : Obligations.WaitsAndFencesAct) : ∃ t, exec (.signalFence q0) (fenceS 2 [fa, 9, 0]) = .next t :=
  ⟨_, (h.2.2.2 _ q0 _ _ _ _ _ (runs_fence (code := 2) (ops := [fa, 9, 0]) (by decide +kernel))).1 _ (by decide +kernel)
    (by decide +kernel) (ok_unit (by decide +kernel))⟩

theorem test_signal_host (h : Obligations.WaitsAndFencesAct) :
    ∃ t, exec (.signalFence q0) (fenceS 2 [2 ^ 63, 9, 0]) = .next t :=
  ⟨_, (h.2.2.2 _ q0 _ _ _ _ _ (runs_fence (code := 2) (ops := [2 ^ 63, 9, 0]) (by decide +kernel))).2.1 (by decide +kernel)
    (by decide +kernel) (by decide +kernel)⟩

theorem test_signal_add (h : Obligations.WaitsAndFencesAct) :
    ∃ t, exec (.signalFence q0) (fenceS 2 [fa, 2 ^ 64 - 1, 1]) = .next t :=
  ⟨_, (h.2.2.2 _ q0 _ _ _ _ _ (runs_fence (code := 2) (ops := [fa, 2 ^ 64 - 1, 1]) (by decide +kernel))).2.2.1 _ _ _
    (by decide +kernel) (by decide +kernel) (ok_of (by decide +kernel)) (ok_unit (by decide +kernel))⟩

/-- As `fenceS`, on a device whose host takes atomic requests. -/
def atomicS (ops : List Nat) : State :=
  opState {} (entry 0 (record 2 ops)) [] { readyDev with host := { readyDev.host with atomicReq := true } }

theorem test_signal_add_host (h : Obligations.WaitsAndFencesAct) :
    ∃ t, exec (.signalFence q0) (atomicS [2 ^ 63, 9, 1]) = .next t :=
  ⟨_, (h.2.2.2 _ q0 _ _ _ _ _ (runs (s := atomicS [2 ^ 63, 9, 1]) (e := entry 0 (record 2 [2 ^ 63, 9, 1])) (o := 64)
    (r := record 2 [2 ^ 63, 9, 1]) (by decide +kernel))).2.2.2 (by decide +kernel) (by decide +kernel) rfl
    (by decide +kernel)⟩

theorem test_cond (h : Obligations.CondChoosesTheNextOp) :
    ∃ t, exec (.cond q0) (fenceS 3 [fa, 5, 0x10000]) = .next t :=
  ⟨_, (h.1 _ q0 _ _ _ _ _ _ _ (runs_fence (code := 3) (ops := [fa, 5, 0x10000]) (by decide +kernel)) (ok_of (by decide +kernel))).2.2⟩

/-- A target that is the COND's own index is refused. -/
theorem test_cond_target (h : Obligations.CondChoosesTheNextOp) :
    (operandChecks 3 64 1 4 (record 3 [fa, 5, 0x10000])).isSome = true :=
  h.2.1 64 1 4 _ (by decide +kernel) (by decide +kernel)
theorem test_cond_end (h : Obligations.CondChoosesTheNextOp) :
    entryOpen { entry 0 [] with next := 1 } = false := h.2.2.2 _ rfl

/-- A buffer at `fa + 0x1000` of a NOP and a record, which issues next; a counter at `fa`. -/
def loopEntry (r : Bytes) : Entry := { entry 0 r with kind := .buffer (fa + 0x1000) 128, opCount := 2, next := 1 }
def loopRec : Bytes := record 4 [fa, 0]
def loopS (n : Nat) : State :=
  opState {} (loopEntry loopRec) [(fa, leBytes 8 n), (fa + 0x1040, record 0 [] ++ loopRec)] readyDev

theorem test_loop_zero (h : Obligations.LoopCountsDown) : ∃ t, exec (.loop q0) (loopS 0) = .next t :=
  ⟨_, (h.1 (loopS 0) q0 _ _ _ _ _ _ _ (runs (e := loopEntry loopRec) (o := 96) (r := loopRec) (by decide +kernel))
    (ok_of (by decide +kernel))).2.1 (by decide +kernel)⟩

theorem test_loop (h : Obligations.LoopCountsDown) : ∃ t, exec (.loop q0) (loopS 1) = .next t :=
  ⟨_, (h.1 (loopS 1) q0 _ _ _ _ _ _ _ (runs (e := loopEntry loopRec) (o := 96) (r := loopRec) (by decide +kernel))
    (ok_of (by decide +kernel))).2.2 _ (by decide +kernel) (ok_unit (by decide +kernel))⟩

theorem test_loop_target (h : Obligations.LoopCountsDown) : (operandChecks 4 64 1 2 (record 4 [fa, 1])).isSome = true :=
  h.2 64 1 2 _ (by decide +kernel) (by decide +kernel)

theorem test_copy (h : Obligations.MemoryOpsStoreTheirBytes) :
    ∃ t, exec (.copy q0) (fenceS 0x20 [fa + 13, fa, 3]) = .next t :=
  ⟨_, (h.1 _ q0 _ _ _ _ _ (runs_fence (code := 0x20) (ops := [fa + 13, fa, 3]) (by decide +kernel)) (by decide +kernel)
    (by decide +kernel) (by decide +kernel) (dest_of (by decide +kernel))).1 _ _ _ (by decide +kernel)
    (ok_of (by decide +kernel)) (ok_unit (by decide +kernel))⟩

theorem test_copy_host (h : Obligations.MemoryOpsStoreTheirBytes) :
    ∃ t, exec (.copy q0) (fenceS 0x20 [fa + 13, 2 ^ 63 + 1, 3]) = .next t :=
  ⟨_, (h.1 _ q0 _ _ _ _ _ (runs_fence (code := 0x20) (ops := [fa + 13, 2 ^ 63 + 1, 3]) (by decide +kernel))
    (by decide +kernel) (by decide +kernel) (by decide +kernel) (dest_of (by decide +kernel))).2 (by decide +kernel)
    (by decide +kernel)⟩

theorem test_fill (h : Obligations.MemoryOpsStoreTheirBytes) :
    ∃ t, exec (.fill q0) (fenceS 0x21 [fa + 13, 0x0807060504030201, 1]) = .next t :=
  ⟨_, h.2.1 _ q0 _ _ _ _ _ _ (runs_fence (code := 0x21) (ops := [fa + 13, 0x0807060504030201, 1]) (by decide +kernel))
    (by decide +kernel) (dest_of (by decide +kernel)) (ok_unit (by decide +kernel))⟩

theorem test_fill_frame (h : Obligations.FillReachesExactlyItsBytes) :
    ∃ t, exec (.fill q0) (fenceS 0x21 [fa + 13, 0x0807060504030201, 3]) = .next t ∧ memByte t.dev.mem (fa + 13) = 6 :=
  ⟨_, rfl, (h _ _ q0 _ _ _ _ _ _ (runs_fence (code := 0x21) (ops := [fa + 13, 0x0807060504030201, 3]) (by decide +kernel))
    (by decide +kernel) (by decide +kernel) (dest_of (by decide +kernel)) (ok_unit (by decide +kernel)) (by decide +kernel) rfl rfl rfl
    rfl).1 (fa + 13) (by decide +kernel) (by decide +kernel)⟩

/-- A context placed in the whole of hall 0. -/
def placedX : Ctx := { place := [{ hall := 0, mask := 0xFFFFF#20, sharedFirst := 0, sharedCount := 256 }] }

def rngRec : Bytes := leBytes 2 0x0122 ++ leBytes 4 0xFFFFFFFF ++ leBytes 2 0 ++
  [fa, 4, 7, 1 * 2 ^ 32, 0, 0, 0].flatMap (leBytes 8)
def rngS : State := opState placedX (entry 0 rngRec) [] readyDev

theorem test_rng_fill (h : Obligations.MemoryOpsStoreTheirBytes) : ∃ t, exec (.rngFill q0) rngS = .next t :=
  ⟨_, h.2.2 rngS q0 _ _ _ _ _ _ placedX (runs (e := entry 0 rngRec) (o := 64) (r := rngRec) (by decide +kernel)) (by decide +kernel) rfl
    (by decide +kernel) (by decide +kernel) (by decide +kernel) (dest_of (by decide +kernel)) (by decide +kernel) (ok_unit (by decide +kernel))⟩
/- Queue control, contexts, power states, self-test, calibration, chain and mirror control. -/

/-- An op whose descriptor, at `fa`, is `b`. -/
def descE (code : Nat) : Entry := entry 0 (record code [fa])
def descS (code : Nat) (b : Bytes) (x : Ctx) (d : Dev) : State := opState x (descE code) [(fa, b)] d

theorem runs_desc {code : Nat} {b : Bytes} {x : Ctx} {d : Dev}
    (h : runsNow (descS code b x d) q0 code (descE code) 64 (record code [fa]) = true) :
    OpRuns (descS code b x d) q0 code (descE code) 64 (record code [fa]) (directRec (record code [fa]))
      (acting (descE code) (descS code b x d).dev) := runs h

/-- A QUEUE_CTL descriptor for user queue 4095 and context `c`. -/
def ctlDesc (act c : Nat) : Bytes :=
  desc 64 [(0, 2, 3), (2, 2, act), (4, 2, 4095), (6, 2, c), (8, 8, fa + 4096), (0x10, 8, fa + 8192), (0x18, 4, 0x404),
    (0x20, 4, 10), (0x24, 2, 1)]

def ctlS (act c : Nat) (v : Queue) (x : Ctx) : State :=
  descS 0xC8 (ctlDesc act c) {} (setCtx 1023 x (setQueue (ctlQueue (ctlDesc act c)) v readyDev))

theorem runs_ctl {act c : Nat} {v : Queue} {x : Ctx}
    (h : runsNow (ctlS act c v x) q0 0xC8 (descE 0xC8) 64 (record 0xC8 [fa]) = true) :
    OpRuns (ctlS act c v x) q0 0xC8 (descE 0xC8) 64 (record 0xC8 [fa]) (directRec (record 0xC8 [fa]))
      (acting (descE 0xC8) (ctlS act c v x).dev) := runs h

theorem test_queue_create (h : Obligations.QueueControlActs) : ∃ t, exec (.queueCreate q0) (ctlS 0 1023 {} {}) = .next t :=
  ⟨_, (h.1 _ q0 _ _ _ _ _ _ _ (runs_ctl (act := 0) (c := 1023) (v := {}) (x := {}) (by decide +kernel))
    (ok_of (by decide +kernel)) (by decide +kernel) (by decide +kernel)).1 {} (by decide +kernel) (by decide +kernel)
    (by decide +kernel) (by decide +kernel) (by decide +kernel)⟩

theorem test_queue_destroy (h : Obligations.QueueControlActs) :
    ∃ t, exec (.queueDestroy q0) (ctlS 1 1023 { bound := true } {}) = .next t :=
  ⟨_, (h.1 _ q0 _ _ _ _ _ _ _ (runs_ctl (act := 1) (c := 1023) (v := { bound := true }) (x := {}) (by decide +kernel))
    (ok_of (by decide +kernel)) (by decide +kernel) (by decide +kernel)).2.1 (by decide +kernel) (by decide +kernel)
    (by decide +kernel)⟩

def boundQ (v : QState) : Queue :=
  { sqBase := fa + 4096, cqBase := fa + 8192, config := 0x404, context := 1023, bound := true, state := v }

theorem test_queue_enable (h : Obligations.QueueControlActs) :
    ∃ t, exec (.queueEnable q0) (ctlS 2 1023 (boundQ .disabled) {}) = .next t :=
  ⟨_, (h.1 _ q0 _ _ _ _ _ _ _ (runs_ctl (act := 2) (c := 1023) (v := boundQ .disabled) (x := {}) (by decide +kernel))
    (ok_of (by decide +kernel)) (by decide +kernel) (by decide +kernel)).2.2.1 (by decide +kernel) (by decide +kernel)
    (by decide +kernel) (by decide +kernel)⟩

theorem test_queue_disable (h : Obligations.QueueControlActs) :
    ∃ t, exec (.queueDisable q0) (ctlS 3 1023 (boundQ .idle) {}) = .next t :=
  ⟨_, (h.1 _ q0 _ _ _ _ _ _ _ (runs_ctl (act := 3) (c := 1023) (v := boundQ .idle) (x := {}) (by decide +kernel))
    (ok_of (by decide +kernel)) (by decide +kernel) (by decide +kernel)).2.2.2.1 (by decide +kernel) (by decide +kernel)⟩

theorem test_queue_abort (h : Obligations.QueueControlActs) :
    ∃ t, exec (.queueAbort q0) (ctlS 4 1023 (boundQ .idle) {}) = .next t :=
  ⟨_, (h.1 _ q0 _ _ _ _ _ _ _ (runs_ctl (act := 4) (c := 1023) (v := boundQ .idle) (x := {}) (by decide +kernel))
    (ok_of (by decide +kernel)) (by decide +kernel) (by decide +kernel)).2.2.2.2 (by decide +kernel) (by decide +kernel)
    (by decide +kernel)⟩

theorem test_context_disable (h : Obligations.QueueControlActs) :
    ∃ t, exec (.contextDisable q0) (ctlS 5 1023 (boundQ .idle) {}) = .next t :=
  ⟨_, (h.2 _ q0 _ _ _ _ _ _ _ (runs_ctl (act := 5) (c := 1023) (v := boundQ .idle) (x := {}) (by decide +kernel))
    (ok_of (by decide +kernel)) (by decide +kernel) (by decide +kernel)).1 {} _ (by decide +kernel) (by decide +kernel) rfl⟩

theorem test_context_enable (h : Obligations.QueueControlActs) :
    ∃ t, exec (.contextEnable q0) (ctlS 6 1023 (boundQ .idle) { terminated := true }) = .next t :=
  ⟨_, (h.2 _ q0 _ _ _ _ _ _ _ (runs_ctl (act := 6) (c := 1023) (v := boundQ .idle) (x := { terminated := true })
    (by decide +kernel)) (ok_of (by decide +kernel)) (by decide +kernel) (by decide +kernel)).2.1 { terminated := true }
    (by decide +kernel) (by decide +kernel)⟩

theorem test_watch (h : Obligations.QueueControlActs) : ∃ t, exec (.watch q0) (ctlS 7 0 {} {}) = .next t :=
  ⟨_, (h.2 _ q0 _ _ _ _ _ _ _ (runs_ctl (act := 7) (c := 0) (v := {}) (x := {}) (by decide +kernel))
    (ok_of (by decide +kernel)) (by decide +kernel) (by decide +kernel)).2.2 (by decide +kernel)⟩

/-- CONTEXT_CREATE's entry names context 1023, which does not exist. -/
def freshE : Entry := entry 1023 (record 0xC0 [])
def freshS : State := { State.reset with dev := setQueue q0 { config := 0x404, state := .active, sqTail := 1, cur := some freshE } readyDev }

theorem test_context_create (h : Obligations.ContextsAreCreatedPlacedAndDestroyed) :
    ∃ t, exec (.contextCreate q0) freshS = .next t :=
  ⟨_, h.1.1 freshS q0 _ _ _ _ _ (runs (e := freshE) (o := 64) (r := record 0xC0 []) (by decide +kernel)) (by decide +kernel)⟩

def destroyE : Entry := entry 0 (record 0xC1 [])
def destroyS : State := opState {} destroyE [] readyDev

theorem test_context_destroy (h : Obligations.ContextsAreCreatedPlacedAndDestroyed) :
    ∃ t, exec (.contextDestroy q0) destroyS = .next t :=
  ⟨_, h.1.2 destroyS q0 _ _ _ _ _ {} (runs (e := destroyE) (o := 64) (r := record 0xC1 []) (by decide +kernel))
    (by decide +kernel) (by decide +kernel) (by decide +kernel)⟩

/-- A placement in one hall: gallery 0, shared memory from byte 0. -/
def placeDesc (n : Nat) : Bytes :=
  desc 64 [(0, 2, 3), (2, 1, n), (8, 8, if n = 0 then 0 else fa + 64), (0x18, 8, if n = 0 then 0 else 32 * 66560)] ++
    desc 16 [(0, 1, 15), (4, 4, 1), (8, 2, 0), (10, 2, 1)]

theorem test_place (h : Obligations.ContextsAreCreatedPlacedAndDestroyed) :
    ∃ t, exec (.place q0) (descS 0xC2 (placeDesc 1) {} readyDev) = .next t := by
  refine ⟨_, h.2 _ q0 _ _ _ _ _ _ _ _ _ {} (runs_desc (code := 0xC2) (b := placeDesc 1) (x := {}) (d := readyDev) ?_)
    ?_ (ok_of ?_) ?_ ?_ ?_ ?_ (Eq.mpr (if_neg ?_) (ok_of ?_)) ?_ ?_ ?_⟩ <;> decide +kernel

theorem test_place_none (h : Obligations.ContextsAreCreatedPlacedAndDestroyed) :
    ∃ t, exec (.place q0) (descS 0xC2 (placeDesc 0) {} readyDev) = .next t :=
  ⟨_, h.2 _ q0 _ _ _ _ _ [] _ _ _ {} (runs_desc (code := 0xC2) (b := placeDesc 0) (x := {}) (d := readyDev) (by decide +kernel))
    (by decide +kernel) (ok_of (by decide +kernel)) (by decide +kernel) (by decide +kernel) (by decide +kernel)
    (by decide +kernel)
    (Eq.mpr (if_pos (by decide +kernel)) ⟨rfl, rfl⟩) (by decide +kernel) (by decide +kernel)
    (by decide +kernel)⟩
/-- A POWER_STATE descriptor with hall mask `m`; tables 639 onwards, one table at `fa + 64`. -/
def powerDesc (act m : Nat) : Bytes :=
  desc 64 [(0, 2, 3), (2, 2, act), (4, 2, m), (6, 2, 3), (8, 2, 2000), (0xA, 2, 639), (0xC, 2, 1), (0x10, 8, fa + 64)] ++
    (List.range 8).flatMap (fun k => leBytes 4 (400 + 25 * k + (600 + 5 * k) * 2 ^ 16))

/-- Expert functions 3, 4 and 5 are enabled. -/
def expertDev : Dev := { readyDev with own := { readyDev.own with owner := some .bmc, heartbeatMs := 10, expert := 0x38#16 } }
def powerS (act m : Nat) : State := descS 0xC3 (powerDesc act m) {} expertDev

theorem runs_power {act m : Nat} (h : runsNow (powerS act m) q0 0xC3 (descE 0xC3) 64 (record 0xC3 [fa]) = true) :
    OpRuns (powerS act m) q0 0xC3 (descE 0xC3) 64 (record 0xC3 [fa]) (directRec (record 0xC3 [fa]))
      (acting (descE 0xC3) (powerS act m).dev) := runs h

theorem test_preset (h : Obligations.PowerStateSetsWhatThePeriodEndTakes) : ∃ t, exec (.preset q0) (powerS 0 0) = .next t :=
  ⟨_, (h _ q0 _ _ _ _ _ _ _ (runs_power (act := 0) (m := 0) (by decide +kernel)) (ok_of (by decide +kernel))
    (by decide +kernel) (by decide +kernel)).1 (by decide +kernel)⟩

theorem test_hall_ceiling (h : Obligations.PowerStateSetsWhatThePeriodEndTakes) :
    ∃ t, exec (.hallCeiling q0) (powerS 1 0x8001) = .next t :=
  ⟨_, (h _ q0 _ _ _ _ _ _ _ (runs_power (act := 1) (m := 0x8001) (by decide +kernel)) (ok_of (by decide +kernel))
    (by decide +kernel) (by decide +kernel)).2.1 (by decide +kernel)⟩

theorem test_set_vf (h : Obligations.PowerStateSetsWhatThePeriodEndTakes) : ∃ t, exec (.setVf q0) (powerS 4 0) = .next t :=
  ⟨_, (h _ q0 _ _ _ _ _ _ _ (runs_power (act := 4) (m := 0) (by decide +kernel)) (ok_of (by decide +kernel))
    (by decide +kernel) (by decide +kernel)).2.2.1 _ _ (by decide +kernel) (ok_of (by decide +kernel)) (by decide +kernel)
    (by decide +kernel)⟩

theorem test_clear_vf (h : Obligations.PowerStateSetsWhatThePeriodEndTakes) : ∃ t, exec (.clearVf q0) (powerS 5 0) = .next t :=
  ⟨_, (h _ q0 _ _ _ _ _ _ _ (runs_power (act := 5) (m := 0) (by decide +kernel)) (ok_of (by decide +kernel))
    (by decide +kernel) (by decide +kernel)).2.2.2 (by decide +kernel)⟩

theorem test_hall_off (h : Obligations.HallsGoOffAndOn) : ∃ t, exec (.hallOff q0) (powerS 2 0x8001) = .next t :=
  ⟨_, h.1 _ q0 _ _ _ _ _ _ _ _ (runs_power (act := 2) (m := 0x8001) (by decide +kernel)) (ok_of (by decide +kernel))
    (by decide +kernel) (by decide +kernel) (by decide +kernel) (.inr (by decide +kernel)) rfl⟩

theorem test_hall_on (h : Obligations.HallsGoOffAndOn) : ∃ t, exec (.hallOn q0 []) (powerS 3 0x8000) = .next t :=
  ⟨_, h.2 (powerS 3 0x8000) q0 [] (descE 0xC3) 64 _ _ _ _ _ _
    (runs (e := descE 0xC3) (o := 64) (r := record 0xC3 [fa]) (by decide +kernel)) (ok_of (by decide +kernel))
    (by decide +kernel) (by decide +kernel) (by decide +kernel) rfl⟩

/-- A SELFTEST descriptor: the shared memory of hall 15, preserving. -/
def marchDesc : Bytes := desc 64 [(0, 2, 3), (2, 2, 1 + 8), (4, 2, 0x8000)]
def marchS : State := descS 0xC4 marchDesc {} readyDev

theorem test_selftest (h : Obligations.SelfTestAndCalibrateRun) : ∃ t, exec (.selftest q0) marchS = .next t :=
  ⟨_, h.1 _ q0 _ _ _ _ _ _ _ (runs_desc (code := 0xC4) (b := marchDesc) (x := {}) (d := readyDev) (by decide +kernel))
    (ok_of (by decide +kernel)) (by decide +kernel) (by decide +kernel) (by decide +kernel) (.inl (by decide +kernel))
    (.inl (by decide +kernel)) (by decide +kernel)⟩

/-- A CALIBRATE descriptor: sensor trims, channels 0 and 31, link 15. -/
def calDesc : Bytes := desc 64 [(0, 2, 3), (2, 2, 13), (6, 2, 0x8000), (8, 4, 0x80000001)]
def calS : State := descS 0xC5 calDesc {} readyDev

theorem test_calibrate (h : Obligations.SelfTestAndCalibrateRun) : ∃ t, exec (.calibrate q0 2) calS = .next t :=
  ⟨_, h.2 calS q0 2 (descE 0xC5) 64 (record 0xC5 [fa]) (directRec (record 0xC5 [fa])) _ _ _
    (runs (e := descE 0xC5) (o := 64) (r := record 0xC5 [fa]) (by decide +kernel)) (ok_of (by decide +kernel))
    (by decide +kernel) (by decide +kernel) (by decide +kernel)⟩

/-- A CHAIN_CTL descriptor: links 0 and 15; the limits of x2 lanes at the second rate with FEC off. -/
def linkDesc (act : Nat) : Bytes := desc 64 [(0, 2, 3), (2, 2, act), (4, 2, 0x8001), (6, 2, 0x19), (8, 8, 0x01001C000000)]
def linkS (act : Nat) : State := descS 0xC7 (linkDesc act) {} expertDev

theorem runs_link {act : Nat} (h : runsNow (linkS act) q0 0xC7 (descE 0xC7) 64 (record 0xC7 [fa]) = true) :
    OpRuns (linkS act) q0 0xC7 (descE 0xC7) 64 (record 0xC7 [fa]) (directRec (record 0xC7 [fa]))
      (acting (descE 0xC7) (linkS act).dev) := runs h

theorem test_limits (h : Obligations.ChainAndMirrorControlAct) : ∃ t, exec (.limits q0) (linkS 0) = .next t :=
  ⟨_, (h.1 _ q0 _ _ _ _ _ _ _ (runs_link (act := 0) (by decide +kernel)) (ok_of (by decide +kernel)) (by decide +kernel)
    (by decide +kernel)).1 (by decide +kernel) (by decide +kernel)⟩
theorem test_link_enable (h : Obligations.ChainAndMirrorControlAct) : ∃ t, exec (.linkEnable q0) (linkS 1) = .next t :=
  ⟨_, (h.1 _ q0 _ _ _ _ _ _ _ (runs_link (act := 1) (by decide +kernel)) (ok_of (by decide +kernel)) (by decide +kernel)
    (by decide +kernel)).2.1 (by decide +kernel)⟩
theorem test_link_disable (h : Obligations.ChainAndMirrorControlAct) : ∃ t, exec (.linkDisable q0) (linkS 2) = .next t :=
  ⟨_, (h.1 _ q0 _ _ _ _ _ _ _ (runs_link (act := 2) (by decide +kernel)) (ok_of (by decide +kernel)) (by decide +kernel)
    (by decide +kernel)).2.2.1 (by decide +kernel) (by decide +kernel)⟩
theorem test_retrain (h : Obligations.ChainAndMirrorControlAct) : ∃ t, exec (.retrain q0) (linkS 3) = .next t :=
  ⟨_, (h.1 _ q0 _ _ _ _ _ _ _ (runs_link (act := 3) (by decide +kernel)) (ok_of (by decide +kernel)) (by decide +kernel)
    (by decide +kernel)).2.2.2.1 (by decide +kernel)⟩
theorem read_all {env : OpEnv} {a n : Nat} {d e : Dev} {t : Bytes} {p : Byte → Bool} (h : rd env a n d = .ok t e)
    (hf : addrForm a = true) (hd : isHost a = false)
    (hp : (List.range n).all (fun i => p (memByte d.mem (a + i))) = true) : ∀ y ∈ t, p y = true := by
  rw [Laws.rd_device hf hd] at h
  obtain ⟨rfl, -⟩ := Laws.devRead_inv h
  intro y hy
  obtain ⟨i, hi, rfl⟩ := List.mem_map.mp hy
  exact List.all_eq_true.mp hp i hi

/-- The new table is zeros, in shared memory of hall 0. -/
theorem test_routes (h : Obligations.ChainAndMirrorControlAct) : ∃ t, exec (.routes q0) (linkS 4) = .next t :=
  ⟨_, (h.1 _ q0 _ _ _ _ _ _ _ (runs_link (act := 4) (by decide +kernel)) (ok_of (by decide +kernel)) (by decide +kernel)
    (by decide +kernel)).2.2.2.2.1 _ _ (by decide +kernel) (ok_of (by decide +kernel))
    (fun y hy => eq_of_beq (read_all (p := fun y => bits y.toNat 4 3 == 0) (ok_of (by decide +kernel)) (by decide +kernel)
      (by decide +kernel) (by decide +kernel) y hy)) (by decide +kernel)⟩

theorem test_link_status (h : Obligations.ChainAndMirrorControlAct) : ∃ t, exec (.linkStatus q0) (linkS 5) = .next t :=
  ⟨_, (h.1 _ q0 _ _ _ _ _ _ _ (runs_link (act := 5) (by decide +kernel)) (ok_of (by decide +kernel)) (by decide +kernel)
    (by decide +kernel)).2.2.2.2.2 _ (by decide +kernel) (dest_of (by decide +kernel)) (ok_unit (by decide +kernel))⟩

/-- A MIRROR_CTL descriptor: links 0 and 15, partner 2047, context 1023. -/
def pairDesc (act : Nat) : Bytes := desc 64 [(0, 2, 3), (2, 2, act), (4, 1, 0xF0), (6, 2, 2047), (8, 2, 1023), (0xA, 2, 1)]
def pairedMirror (l : List MirrorCtx) : Mirror :=
  { readyDev.chain.mirror with role := 1, state := .paired, partner := 2047, linkA := 0, linkB := 15, ctxs := l }
def mirrorS (act : Nat) (m : Mirror) : State :=
  descS 0xC6 (pairDesc act) {} (setCtx 1023 {} { readyDev with chain := { readyDev.chain with
    mirror := m, links := readyDev.chain.links.map (fun l => { l with state := .up, lanes := 2 }) } })

theorem runs_mirror {act : Nat} {m : Mirror} (h : runsNow (mirrorS act m) q0 0xC6 (descE 0xC6) 64 (record 0xC6 [fa]) = true) :
    OpRuns (mirrorS act m) q0 0xC6 (descE 0xC6) 64 (record 0xC6 [fa]) (directRec (record 0xC6 [fa]))
      (acting (descE 0xC6) (mirrorS act m).dev) := runs h

theorem test_pair (h : Obligations.ChainAndMirrorControlAct) :
    ∃ t, exec (.pair q0) (mirrorS 4 readyDev.chain.mirror) = .next t :=
  ⟨_, (h.2 _ q0 _ _ _ _ _ _ _ (runs_mirror (act := 4) (m := readyDev.chain.mirror) (by decide +kernel))
    (ok_of (by decide +kernel)) (by decide +kernel) (by decide +kernel)).1 (by decide +kernel) (.inl (by decide +kernel))
    (by decide +kernel) (by decide +kernel) (by decide +kernel) (by decide +kernel) (by decide +kernel)⟩
theorem test_unpair (h : Obligations.ChainAndMirrorControlAct) :
    ∃ t, exec (.unpair q0) (mirrorS 1 (pairedMirror [])) = .next t :=
  ⟨_, (h.2 _ q0 _ _ _ _ _ _ _ (runs_mirror (act := 1) (m := pairedMirror []) (by decide +kernel))
    (ok_of (by decide +kernel)) (by decide +kernel) (by decide +kernel)).2.1 (by decide +kernel)⟩
theorem test_attach (h : Obligations.ChainAndMirrorControlAct) :
    ∃ t, exec (.attach q0) (mirrorS 2 (pairedMirror [])) = .next t :=
  ⟨_, ((h.2 _ q0 _ _ _ _ _ _ _ (runs_mirror (act := 2) (m := pairedMirror []) (by decide +kernel))
    (ok_of (by decide +kernel)) (by decide +kernel) (by decide +kernel)).2.2.1 _ (by decide +kernel)
    (some_get (by decide +kernel))).1 (by decide +kernel)⟩

/-- The partner has asked to attach context 1023, which has no placement. -/
def offeredMirror : Mirror := { pairedMirror [] with offers := [(1023, some [])] }
theorem test_attach_offered (h : Obligations.ChainAndMirrorControlAct) :
    ∃ t, exec (.attach q0) (mirrorS 2 offeredMirror) = .next t :=
  ⟨_, ((h.2 _ q0 _ _ _ _ _ _ _ (runs_mirror (act := 2) (m := offeredMirror) (by decide +kernel))
    (ok_of (by decide +kernel)) (by decide +kernel) (by decide +kernel)).2.2.1 [] (by decide +kernel)
    (by decide +kernel)).2 (by decide +kernel)⟩
def attached : MirrorCtx := { ctx := 1023, checkEvery := 1 }
theorem test_detach (h : Obligations.ChainAndMirrorControlAct) :
    ∃ t, exec (.detach q0) (mirrorS 3 (pairedMirror [attached])) = .next t :=
  ⟨_, (h.2 _ q0 _ _ _ _ _ _ _ (runs_mirror (act := 3) (m := pairedMirror [attached]) (by decide +kernel))
    (ok_of (by decide +kernel)) (by decide +kernel) (by decide +kernel)).2.2.2 attached (by decide +kernel)
    (by decide +kernel) (by
      intro c hc
      cases (show ctxOf _ _ = some ({} : Ctx) by decide +kernel).symm.trans hc
      rfl)⟩
/- Mailbox commands. -/

/-- A message waits on a channel, whose agent owns the device. -/
def mailS (ch : Chan) (c : Nat) (p : Bytes) (d : Dev) : State :=
  { State.reset with
    dev := setMbox ch { msg := some { command := c, tag := 7, payload := p } }
      { d with own := { d.own with owner := some ch, heartbeatMs := 10 } } }

def mailNow (s : State) (ch : Chan) (c : Nat) (p : Bytes) : Bool :=
  decide ((mbox s.dev ch).msg = some { command := c, tag := 7, payload := p }) && !(mbox s.dev ch).entropy &&
    !(mbox s.dev ch).march && chanOpen s.dev ch && decide (s.dev.own.owner = some ch) && s.dev.boot.ready

theorem mail {s : State} {ch : Chan} {c : Nat} {p : Bytes} {owner early : Bool} (h : mailNow s ch c p = true) :
    MailWaits s ch c owner early p := by
  simp only [mailNow, Bool.and_eq_true, decide_eq_true_eq, Bool.not_eq_true'] at h
  obtain ⟨⟨⟨⟨⟨h1, h2⟩, h3⟩, h4⟩, h5⟩, h6⟩ := h
  exact ⟨⟨7, h1⟩, ⟨h2, h3⟩, h4, fun _ => h5, .inr h6⟩

/-- In MAKER, with an identity. -/
def makerDev : Dev := { readyDev with trust := { readyDev.trust with lifecycle := lcMaker, seed := some (leBytes 32 5) } }
def makerS : State := { State.reset with dev := makerDev }

/-- A calibration set of 80 bytes for this device: one empty section. -/
def calSet : Bytes :=
  desc 80 [(0, 4, 0x4C41434C), (4, 2, 1), (6, 2, 1), (8, 4, 80), (0x10, 8, State.reset.dev.trust.uniqueId), (0x40, 2, 1),
    (0x44, 4, 80)]
def calCrc : Bytes := calSet.take 0x3C ++ leBytes 4 0x81797DC1 ++ calSet.drop 0x40

/- Its CRC, a part at a time. -/
theorem crc_1 : ((calSet.drop 0).take 16).foldl crcByte 0xFFFFFFFF#32 = 0xA4E227BE#32 := by decide +kernel
theorem crc_2 : ((calSet.drop 16).take 16).foldl crcByte 0xA4E227BE#32 = 0x0C28E599#32 := by decide +kernel
theorem crc_3 : ((calSet.drop 32).take 16).foldl crcByte 0x0C28E599#32 = 0x1BD859B9#32 := by decide +kernel
theorem crc_4 : ((calSet.drop 48).take 16).foldl crcByte 0x1BD859B9#32 = 0xA90872B8#32 := by decide +kernel
theorem crc_5 : ((calSet.drop 64).take 16).foldl crcByte 0xA90872B8#32 = 0x7E86823E#32 := by decide +kernel
theorem crc_calSet : crc32c calSet = 0x81797DC1 := by
  have h : calSet = (calSet.drop 0).take 16 ++ (calSet.drop 16).take 16 ++ (calSet.drop 32).take 16 ++
      (calSet.drop 48).take 16 ++ (calSet.drop 64).take 16 := by decide +kernel
  unfold crc32c
  rw [h]
  simp only [List.foldl_append, crc_1, crc_2, crc_3, crc_4, crc_5]
  decide +kernel

theorem cal_good : calBad State.reset.dev.trust.uniqueId calCrc = none := by
  unfold calBad
  rw [if_neg (by decide +kernel), if_neg (by decide +kernel), if_neg (by decide +kernel), if_neg (by decide +kernel),
    if_neg (by decide +kernel), show calCrc.take 0x3C ++ leBytes 4 0 ++ (calCrc.take (u32 calCrc 8)).drop 0x40 = calSet by
      decide +kernel, crc_calSet]
  decide +kernel

theorem test_caps (h : Obligations.MailboxCommandsReadAndTest) :
    ∃ t, exec (.getCaps .host) (mailS .host 1 [] readyDev) = .next t :=
  ⟨_, h.1.1 _ .host (mail (by decide +kernel))⟩
theorem test_cal_read (h : Obligations.MailboxCommandsReadAndTest) :
    ∃ t, exec (.calRead .bmc) (mailS .bmc 0x20 (desc 8 [(0, 1, 1), (1, 1, 7)]) readyDev) = .next t :=
  ⟨_, (h.1.2.1 _ .bmc _ (mail (p := desc 8 [(0, 1, 1), (1, 1, 7)]) (by decide +kernel)) (by decide +kernel)
    (by decide +kernel)).1 (by decide +kernel) (by decide +kernel)⟩
theorem test_cal_read_flash (h : Obligations.MailboxCommandsReadAndTest) :
    ∃ t, exec (.calRead .host) (mailS .host 0x20 (leBytes 8 0) { readyDev with flash := { readyDev.flash with cal := calCrc } }) =
      .next t :=
  ⟨_, (h.1.2.1 _ .host _ (mail (p := leBytes 8 0) (by decide +kernel)) (by decide +kernel) (by decide +kernel)).2 _
    (by decide +kernel) rfl⟩
theorem test_log_read (h : Obligations.MailboxCommandsReadAndTest) :
    ∃ t, exec (.logRead .host) (mailS .host 0x30 (leBytes 8 2) readyDev) = .next t :=
  ⟨_, h.1.2.2 _ .host _ _ (mail (p := leBytes 8 2) (by decide +kernel)) (by decide +kernel) (by decide +kernel)
    (by decide +kernel) rfl⟩
theorem test_selftest_req (h : Obligations.MailboxCommandsReadAndTest) :
    ∃ t, exec (.selftestReq .host) (mailS .host 0x80 (desc 64 [(0, 2, 3), (2, 2, 9), (4, 2, 0x8000)]) readyDev) = .next t :=
  ⟨_, h.2.1 _ .host _ (mail (p := desc 64 [(0, 2, 3), (2, 2, 9), (4, 2, 0x8000)]) (by decide +kernel)) (by decide +kernel)
    (by decide +kernel) (by decide +kernel) (by decide +kernel) (.inl (by decide +kernel)) (.inl (by decide +kernel))⟩

/-- A token for this device and nonce, of scope 7; whether a signature verifies is a matter of the standard. -/
def token : Bytes :=
  desc 0x40 [(0, 4, 0x4C43584C), (8, 8, State.reset.dev.trust.uniqueId), (0x10, 1, 9), (0x30, 1, 7)] ++ List.replicate 3309 0
def tokenDev : Dev := { readyDev with trust := { readyDev.trust with nonce := some (leBytes 32 9) } }
theorem test_log_clear (h : Obligations.MailboxCommandsReadAndTest)
    (hv : Config.mldsaVerify Config.tokenKey ctxReturn (token.take 0x40) ((token.drop 0x40).take 3309) = true) :
    ∃ t, exec (.logClear .host) (mailS .host 0x31 token tokenDev) = .next t := by
  refine ⟨_, h.2.2 _ .host token (mail (by decide +kernel)) (by decide +kernel) ?_⟩
  unfold tokenBad
  rw [if_neg (by decide +kernel), if_neg (by decide +kernel), if_neg (by decide +kernel), if_neg (by decide +kernel),
    if_neg (by decide +kernel), show nonzeroIn token 0x31 15 = none by decide +kernel]
  simp only [hv, if_true]

def claim (f : Nat) : Bytes := leBytes 4 f ++ leBytes 4 60000
/-- The host claims a device whose ownership is `o`. -/
def claimS (f : Nat) (o : Ownership) : State :=
  { State.reset with
    dev := setMbox .host { msg := some { command := 0x10, tag := 7, payload := claim f } } { readyDev with own := o, clock := 10000000 } }
theorem claims {f : Nat} {o : Ownership} :
    MailWaits (claimS f o) .host 0x10 false true (claim f) := ⟨⟨7, rfl⟩, ⟨rfl, rfl⟩, rfl, fun h => (nomatch h), .inl rfl⟩

theorem test_claim_free (h : Obligations.OwnershipChangesHands) : ∃ t, exec (.ownClaim .host) (claimS 0 {}) = .next t :=
  ⟨_, h.1.1 _ .host _ claims (by decide +kernel) (by decide +kernel) (by decide +kernel) (by decide +kernel) _ (.inl ⟨rfl, rfl⟩)⟩
theorem test_claim_own (h : Obligations.OwnershipChangesHands) :
    ∃ t, exec (.ownClaim .host) (claimS 0 { owner := some .host }) = .next t :=
  ⟨_, h.1.1 _ .host _ claims (by decide +kernel) (by decide +kernel) (by decide +kernel) (by decide +kernel) _
    (.inr (.inl ⟨rfl, rfl⟩))⟩
theorem test_claim_handover (h : Obligations.OwnershipChangesHands) :
    ∃ t, exec (.ownClaim .host) (claimS 0 { owner := some .bmc, heartbeatMs := 11, handover := some (.host, 0) }) = .next t :=
  ⟨_, h.1.1 _ .host _ claims (by decide +kernel) (by decide +kernel) (by decide +kernel) (by decide +kernel) _
    (.inr (.inr (.inl ⟨.bmc, 0, rfl, by decide, rfl, rfl⟩)))⟩
theorem test_claim_override (h : Obligations.OwnershipChangesHands) :
    ∃ t, exec (.ownClaim .host) (claimS 1 { owner := some .bmc, heartbeatMs := 10 }) = .next t :=
  ⟨_, h.1.1 _ .host _ claims (by decide +kernel) (by decide +kernel) (by decide +kernel) (by decide +kernel) _
    (.inr (.inr (.inr ⟨.bmc, rfl, by decide, fun t ht => (nomatch ht), by decide +kernel, by decide +kernel, rfl⟩)))⟩
theorem test_release (h : Obligations.OwnershipChangesHands) :
    ∃ t, exec (.ownRelease .host) (mailS .host 0x11 [] readyDev) = .next t := ⟨_, h.1.2.1 _ .host (mail (by decide +kernel))⟩
theorem test_handover (h : Obligations.OwnershipChangesHands) :
    ∃ t, exec (.ownHandover .host) (mailS .host 0x12 (leBytes 4 4) readyDev) = .next t :=
  ⟨_, h.1.2.2.1 _ .host _ (mail (p := leBytes 4 4) (by decide +kernel)) (by decide +kernel) (by decide +kernel) (by decide +kernel)⟩

def ownedS : State :=
  { State.reset with dev := { readyDev with own := { owner := some .host, heartbeatMs := 10, handover := some (.bmc, 0) } } }
theorem test_lapse (h : Obligations.OwnershipChangesHands) : ∃ t, exec .handoverLapse ownedS = .next t :=
  ⟨_, h.2.1 ownedS .bmc 0 rfl⟩
theorem test_silent (h : Obligations.OwnershipChangesHands) : ∃ t, exec .ownerSilent ownedS = .next t :=
  ⟨_, h.2.2.1 ownedS .host rfl rfl⟩
theorem test_heartbeat (h : Obligations.OwnershipChangesHands) : ∃ t, exec (.heartbeat 1) ownedS = .next t :=
  ⟨_, h.2.2.2 ownedS 1 rfl rfl⟩

def expertMsg : Bytes := leBytes 2 0x7F ++ leBytes 2 0 ++ leBytes 2 1 ++ leBytes 2 0
theorem test_expert (h : Obligations.ExpertPowerCapAndChainIdAreSet) :
    ∃ t, exec (.expertEnable .host) (mailS .host 0x13 expertMsg makerDev) = .next t :=
  ⟨_, h.1 _ .host _ (mail (p := expertMsg) (by decide +kernel)) (by decide +kernel) (by decide +kernel) (by decide +kernel)
    (by decide +kernel) (by decide +kernel) (.inr (by decide +kernel))⟩
theorem test_cap (h : Obligations.ExpertPowerCapAndChainIdAreSet) :
    ∃ t, exec (.powerCap .host) (mailS .host 0x70 (leBytes 4 300) readyDev) = .next t :=
  ⟨_, h.2.1 _ .host _ (mail (p := leBytes 4 300) (by decide +kernel)) (by decide +kernel) (by decide +kernel) (by decide +kernel)
    (by decide +kernel)⟩
theorem test_chain_id (h : Obligations.ExpertPowerCapAndChainIdAreSet) :
    ∃ t, exec (.chainIdSet .host) (mailS .host 0x90 (leBytes 4 2047) readyDev) = .next t :=
  ⟨_, h.2.2 _ .host _ (mail (p := leBytes 4 2047) (by decide +kernel)) (by decide +kernel) (by decide +kernel)
    (by decide +kernel) (by decide +kernel)⟩

/- Calibration and OTP. -/

def calDev (c : CalSession) : Dev := { readyDev with trust := { readyDev.trust with calw := some c } }
theorem test_cal_begin (h : Obligations.CalibrationAndOtpAreProgrammed) :
    ∃ t, exec (.calWriteBegin .host) (mailS .host 0x21 (leBytes 4 0 ++ leBytes 4 1048576) readyDev) = .next t :=
  ⟨_, (h.1 _ .host _ (mail (p := leBytes 4 0 ++ leBytes 4 1048576) (by decide +kernel)) (by decide +kernel)
    (.inl (by decide +kernel))).1
    (by decide +kernel) (by decide +kernel) (by decide +kernel) (by decide +kernel)⟩
def calPart : Bytes := leBytes 4 0x100 ++ leBytes 4 1 ++ [7]
def calOne : CalSession := { space := 0, total := 2, staged := [3] }
theorem test_cal_data (h : Obligations.CalibrationAndOtpAreProgrammed) :
    ∃ t, exec (.calWriteData .host) (mailS .host 0x21 calPart (calDev calOne)) = .next t :=
  ⟨_, (h.1 _ .host _ (mail (p := calPart) (by decide +kernel)) (by decide +kernel) (.inl (by decide +kernel))).2.1 calOne
    (by decide +kernel) (by decide +kernel) (by decide +kernel) rfl rfl (by decide +kernel) (by decide +kernel)⟩
def calFull : CalSession := { space := 0, total := 80, staged := calCrc }
theorem test_cal_commit (h : Obligations.CalibrationAndOtpAreProgrammed) :
    ∃ t, exec (.calWriteCommit .host) (mailS .host 0x21 (leBytes 8 0x200) (calDev calFull)) = .next t :=
  ⟨_, ((h.1 _ .host _ (mail (p := leBytes 8 0x200) (by decide +kernel)) (by decide +kernel)
    (.inl (by decide +kernel))).2.2 calFull (by decide +kernel) (by decide +kernel) rfl rfl (by decide +kernel)).1
    (by decide +kernel) cal_good⟩
/-- A certificate of one byte, which holds the identity's public key; which key that is, is a matter of the standard. -/
def certOne : CalSession := { space := 2, total := 1, staged := [3] }
theorem test_cert_commit (h : Obligations.CalibrationAndOtpAreProgrammed)
    (hk : contains (Config.mldsaPublic (leBytes 32 5)) certOne.staged = true) :
    ∃ t, exec (.calWriteCommit .host) (mailS .host 0x21 (leBytes 8 0x202)
      { makerDev with trust := { makerDev.trust with calw := some certOne } }) = .next t :=
  ⟨_, ((h.1 _ .host _ (mail (p := leBytes 8 0x202) (by decide +kernel)) (by decide +kernel)
    (.inr ⟨by decide +kernel, rfl⟩)).2.2 certOne (by decide +kernel) (by decide +kernel) rfl rfl (by decide +kernel)).2
    (leBytes 32 5) (by decide +kernel) rfl hk⟩
def settingMsg : Bytes := desc 64 [(0, 1, 1), (1, 1, 1), (8, 2, 1200)]
theorem test_setting (h : Obligations.CalibrationAndOtpAreProgrammed) :
    ∃ t, exec (.calWriteSetting .host none) (mailS .host 0x21 settingMsg readyDev) = .next t :=
  ⟨_, h.2.1 _ .host _ _ 0 none (mail (p := settingMsg) (by decide +kernel)) (by decide +kernel) (by decide +kernel)
    (by decide +kernel) (by decide +kernel) (by decide +kernel) rfl⟩
/-- The running image's security version is `v`. -/
def floorS (v : Nat) : State :=
  mailS .host 0x40 (leBytes 8 4) { readyDev with trust := { readyDev.trust with fwSecVersion := v, fwRevoke := 0 } }
theorem test_floor (h : Obligations.CalibrationAndOtpAreProgrammed) :
    ∃ t, exec (.raiseFloor .host none) (floorS 0) = .next t :=
  ⟨_, (h.2.2.1 _ .host _ _ (mail (s := floorS 0) (p := leBytes 8 4) (by decide +kernel)) (by decide +kernel)
    (by decide +kernel) (by decide +kernel) (by decide +kernel) (by decide +kernel) rfl).1 (by decide +kernel)
    (by decide +kernel)⟩
theorem test_floor_rises (h : Obligations.CalibrationAndOtpAreProgrammed) :
    ∃ t, exec (.raiseFloor .host none) (floorS 1) = .next t :=
  ⟨_, (h.2.2.1 _ .host _ _ (mail (s := floorS 1) (p := leBytes 8 4) (by decide +kernel)) (by decide +kernel)
    (by decide +kernel) (by decide +kernel) (by decide +kernel) (by decide +kernel) rfl).2 0 (.inl (by decide +kernel))
    (by decide +kernel)⟩
def blankDev : Dev := { readyDev with trust := { readyDev.trust with lifecycle := lcBlank } }
theorem test_advance (h : Obligations.CalibrationAndOtpAreProgrammed) :
    ∃ t, exec (.lifecycleAdvance .jtag) (mailS .jtag 0x41 (leBytes 8 lcMaker) blankDev) = .next t :=
  ⟨_, h.2.2.2.1 _ .jtag _ lcMaker (by decide +kernel) (by decide +kernel) (by decide +kernel)
    (.inl ⟨rfl, rfl, rfl, mail (p := leBytes 8 lcMaker) (by decide +kernel)⟩)⟩
/-- A token of scope 3, for a return to the maker; whether a signature verifies is a matter of the standard. -/
def returnToken : Bytes :=
  desc 0x40 [(0, 4, 0x5452584C), (8, 8, State.reset.dev.trust.uniqueId), (0x10, 1, 9), (0x30, 1, 3)] ++
    List.replicate 3309 0
def returnDev : Dev :=
  { readyDev with trust := { readyDev.trust with lifecycle := lcSealed, nonce := some (leBytes 32 9) } }
theorem test_return (h : Obligations.CalibrationAndOtpAreProgrammed)
    (hv : Config.mldsaVerify Config.tokenKey ctxReturn (returnToken.take 0x40) ((returnToken.drop 0x40).take 3309) = true) :
    ∃ t, exec (.lifecycleAdvance .host) (mailS .host 0x41 (leBytes 8 3 ++ returnToken) returnDev) = .next t := by
  refine ⟨_, h.2.2.2.2 _ .host (leBytes 8 3 ++ returnToken) (mail (by decide +kernel)) (by decide +kernel)
    (by decide +kernel) (by decide +kernel) (.inr rfl) ?_⟩
  rw [show (leBytes 8 3 ++ returnToken).drop 8 = returnToken by decide +kernel]
  unfold tokenBad
  rw [if_neg (by decide +kernel), if_neg (by decide +kernel), if_neg (by decide +kernel), if_neg (by decide +kernel),
    if_neg (by decide +kernel), show nonzeroIn returnToken 0x31 15 = none by decide +kernel]
  simp only [hv, if_true]
/- Firmware, attestation, entropy. -/

def fwS (p : Bytes) (f : Option FwSession) : State :=
  mailS .host 0x40 p { readyDev with trust := { readyDev.trust with fw := f }, flash := { readyDev.flash with slotB := [1] } }
theorem test_fw_begin (h : Obligations.FirmwareAndAttestationAreServed) :
    ∃ t, exec (.fwUpdateBegin .host) (fwS (leBytes 4 0 ++ leBytes 4 16773120) none) = .next t :=
  ⟨_, (h.1 (fwS (leBytes 4 0 ++ leBytes 4 16773120) none) .host _ (mail (p := leBytes 4 0 ++ leBytes 4 16773120) (by decide +kernel)) (by decide +kernel) (by decide +kernel)).1
    (by decide +kernel) (by decide +kernel) (by decide +kernel) (by decide +kernel)⟩
def fwPart : Bytes := leBytes 4 1 ++ leBytes 4 1 ++ [9]
theorem test_fw_write (h : Obligations.FirmwareAndAttestationAreServed) :
    ∃ t, exec (.fwUpdateWrite .host) (fwS fwPart (some { total := 2, written := 1 })) = .next t :=
  ⟨_, (h.1 (fwS fwPart (some { total := 2, written := 1 })) .host _ (mail (p := fwPart) (by decide +kernel)) (by decide +kernel) (by decide +kernel)).2.1
    { total := 2, written := 1 } (by decide +kernel) (by decide +kernel) (by decide +kernel) rfl (by decide +kernel)
    (by decide +kernel)⟩

/-- An image of one byte, signed with key slot 2; whether hashes and signatures hold is a matter of the standards. -/
def image : Bytes :=
  desc 0x80 [(0, 4, 0x5746584C), (4, 2, 1), (8, 1, 0), (0x14, 4, 1)] ++ List.replicate (0x1541 - 0x80) 0
def imageS : State :=
  mailS .host 0x40 (leBytes 8 2) { readyDev with
    trust := { readyDev.trust with fw := some { total := 0x1541, written := 0x1541 } }
    flash := { readyDev.flash with slotB := image } }
theorem test_fw_commit (h : Obligations.FirmwareAndAttestationAreServed)
    (hk : Config.shake256 ((image.drop 0x80).take 1952) = Config.keySlotDigest 0)
    (hv : Config.mldsaVerify ((image.drop 0x80).take 1952) ctxFw (image.take 0x80) ((image.drop 0x820).take 3309) = true)
    (hb : Config.shake256 ((image.drop 0x1540).take 1) = (image.drop 0x40).take 64) :
    ∃ t, exec (.fwUpdateCommit .host) imageS = .next t := by
  refine ⟨_, (h.1 imageS .host _ (mail (p := leBytes 8 2) (by decide +kernel)) (by decide +kernel) (by decide +kernel)).2.2.1
    { total := 0x1541, written := 0x1541 } (by decide +kernel) (by decide +kernel) (by decide +kernel) rfl rfl ?_
    (by decide +kernel)⟩
  have hs : slotBytes imageS.dev (!imageS.dev.trust.fwSlotB) = image := rfl
  have h8 : u8 image 8 = 0 := by decide +kernel
  have hn : u32 image 0x14 = 1 := by decide +kernel
  rw [hs]
  unfold imageBad
  rw [if_neg (by decide +kernel), if_neg, if_neg, if_neg (by decide +kernel), if_neg]
  · simp only [hn, hb, ne_eq, not_true_eq_false, not_false_eq_true]
  · simp only [hv, Bool.not_true, Bool.false_eq_true, not_false_eq_true]
  · simp only [h8, hk, ne_eq, not_true_eq_false, false_or, not_or]
    decide +kernel
theorem test_fw_abort (h : Obligations.FirmwareAndAttestationAreServed) :
    ∃ t, exec (.fwUpdateAbort .host) (fwS (leBytes 8 3) none) = .next t :=
  ⟨_, (h.1 (fwS (leBytes 8 3) none) .host _ (mail (p := leBytes 8 3) (by decide +kernel)) (by decide +kernel) (by decide +kernel)).2.2.2
    (by decide +kernel) (by decide +kernel) (by decide +kernel)⟩
theorem test_public_key (h : Obligations.FirmwareAndAttestationAreServed) :
    ∃ t, exec (.publicKey .host) (mailS .host 0x42 (leBytes 8 1) makerDev) = .next t :=
  ⟨_, (h.2.1 (mailS .host 0x42 (leBytes 8 1) makerDev) .host _ (leBytes 32 5) (mail (p := leBytes 8 1) (by decide +kernel)) (by decide +kernel) (by decide +kernel) (by decide +kernel)
    rfl (.inl rfl)).1 (by decide +kernel) (by decide +kernel)⟩
theorem test_cert (h : Obligations.FirmwareAndAttestationAreServed) :
    ∃ t, exec (.certRead .host) (mailS .host 0x42 (leBytes 8 2) makerDev) = .next t :=
  ⟨_, (h.2.1 (mailS .host 0x42 (leBytes 8 2) makerDev) .host _ (leBytes 32 5) (mail (p := leBytes 8 2) (by decide +kernel)) (by decide +kernel) (by decide +kernel) (by decide +kernel)
    rfl (.inl rfl)).2 (by decide +kernel)⟩
theorem test_quote (h : Obligations.FirmwareAndAttestationAreServed) :
    ∃ t, exec (.quote .host) (mailS .host 0x42 (leBytes 40 0) makerDev) = .next t :=
  ⟨_, ((h.2.2 (mailS .host 0x42 (leBytes 40 0) makerDev) .host (leBytes 40 0) 32 rfl _ rfl).1 (mail (by decide +kernel)) (by decide +kernel)
    (by decide +kernel) (by decide +kernel) rfl).1 (leBytes 32 5) (by decide +kernel) (by decide +kernel) rfl (.inl rfl)⟩
theorem test_nonce (h : Obligations.FirmwareAndAttestationAreServed) :
    ∃ t, exec (.nonce .host) (mailS .host 0x42 (leBytes 8 3) readyDev) = .next t :=
  ⟨_, ((h.2.2 (mailS .host 0x42 (leBytes 8 3) readyDev) .host (leBytes 8 3) 32 rfl _ rfl).1 (mail (by decide +kernel)) (by decide +kernel)
    (by decide +kernel) (by decide +kernel) rfl).2.1 (by decide +kernel) (by decide +kernel)⟩
def keygenS : State :=
  { mailS .host 0x42 (leBytes 8 4) { makerDev with trust := { makerDev.trust with seed := none } } with
    otp := { State.reset.otp with seedRow := 0#256 } }
theorem test_keygen (h : Obligations.FirmwareAndAttestationAreServed) : ∃ t, exec (.keygen .host) keygenS = .next t :=
  ⟨_, ((h.2.2 keygenS .host (leBytes 8 4) 32 rfl _ rfl).1 (mail (by decide +kernel)) (by decide +kernel)
    (by decide +kernel) (by decide +kernel) rfl).2.2 (by decide +kernel) (by decide +kernel) rfl rfl⟩
theorem test_rng_bytes (h : Obligations.FirmwareAndAttestationAreServed) :
    ∃ t, exec (.rngBytes .host) (mailS .host 0x50 (leBytes 4 4096) readyDev) = .next t :=
  ⟨_, (h.2.2 (mailS .host 0x50 (leBytes 4 4096) readyDev) .host (leBytes 4 4096) 4096 rfl _ rfl).2 (mail (by decide +kernel))
    (by decide +kernel) (by decide +kernel) (by decide +kernel) (by decide +kernel)⟩

/-- A message waits for `n` bytes of a source that is ready, with two blocks in its pool. -/
def drawS (c n : Nat) (p : Bytes) (z : State) : State :=
  { z with
    dev := setMbox .host { msg := some { command := c, tag := 7, payload := p }, entropy := true }
      { z.dev with ent := { ready := true, drbg := some [], pool := [[1], [2]], waiting := [.mail .host n] } } }
theorem test_draw (h : Obligations.EntropyIsGatheredAndServed) :
    ∃ t, exec .entropyRequest (drawS 0x50 1 (leBytes 4 1) makerS) = .next t :=
  ⟨_, (h.1 (drawS 0x50 1 (leBytes 4 1) makerS) .host 1 [] { command := 0x50, tag := 7, payload := leBytes 4 1 } _ _ _
    rfl rfl rfl rfl).1 rfl (by decide +kernel) (by decide +kernel)⟩
theorem test_draw_nonce (h : Obligations.EntropyIsGatheredAndServed) :
    ∃ t, exec .entropyRequest (drawS 0x42 32 (leBytes 8 3) makerS) = .next t :=
  ⟨_, ((h.1 (drawS 0x42 32 (leBytes 8 3) makerS) .host 32 [] { command := 0x42, tag := 7, payload := leBytes 8 3 } _ _ _
    rfl rfl rfl rfl).2 rfl (by decide +kernel) (by decide +kernel) (by decide +kernel)).1 (by decide +kernel) (by decide +kernel)⟩
theorem test_draw_quote (h : Obligations.EntropyIsGatheredAndServed) :
    ∃ t, exec .entropyRequest (drawS 0x42 32 (leBytes 40 0) makerS) = .next t :=
  ⟨_, ((h.1 (drawS 0x42 32 (leBytes 40 0) makerS) .host 32 [] { command := 0x42, tag := 7, payload := leBytes 40 0 } _ _ _
    rfl rfl rfl rfl).2 rfl (by decide +kernel) (by decide +kernel) (by decide +kernel)).2.1 (leBytes 32 5) (by decide +kernel) (by decide +kernel)
    rfl (.inl rfl) _ rfl⟩
/-- A row of 32 bytes that is not all zeros programs an identity; which bytes come is left open. -/
theorem test_draw_keygen (h : Obligations.EntropyIsGatheredAndServed)
    (hb : seedNat (padTo 32 (Config.drbgBytes (Config.drbgReseed [] [1, 2]) 32)) ≠ 0#256) :
    ∃ t, exec .entropyRequest (drawS 0x42 32 (leBytes 8 4) keygenS) = .next t :=
  ⟨_, ((h.1 (drawS 0x42 32 (leBytes 8 4) keygenS) .host 32 [] { command := 0x42, tag := 7, payload := leBytes 8 4 } _ _ _
    rfl rfl rfl rfl).2 rfl (by decide +kernel) (by decide +kernel) (by decide +kernel)).2.2 (by decide +kernel) (by decide +kernel)
    rfl rfl hb⟩

def rawS (r : RawSource) (e : Entropy) : State :=
  { State.reset with dev := { readyDev with ent := { e with sources := List.replicate 7 {} ++ [r] } } }
theorem test_block (h : Obligations.EntropyIsGatheredAndServed) :
    ∃ t, exec (.entropyBlockDone 7 [1]) (rawS { inService := true } { rawEn := true }) = .next t :=
  ⟨_, h.2.1 (rawS { inService := true } { rawEn := true }) 7 [1] rfl rfl (by decide +kernel) (.inr (by decide +kernel))⟩
theorem test_health (h : Obligations.EntropyIsGatheredAndServed) :
    ∃ t, exec (.healthTestFailure 7 true) (rawS { inService := true } {}) = .next t :=
  ⟨_, h.2.2.1 (rawS { inService := true } {}) 7 true (.inl rfl)⟩
theorem test_restart (h : Obligations.EntropyIsGatheredAndServed) :
    ∃ t, exec (.entropyStartupTestEnd 7 true) (rawS { restarting := true } {}) = .next t :=
  ⟨_, (h.2.2.2.1 (rawS { restarting := true } {}) 7 rfl).1⟩
theorem test_restart_fails (h : Obligations.EntropyIsGatheredAndServed) :
    ∃ t, exec (.entropyStartupTestEnd 7 false) (rawS { restarting := true, failCount := 1 } {}) = .next t :=
  ⟨_, (h.2.2.2.1 (rawS { restarting := true, failCount := 1 } {}) 7 rfl).2.1 (by decide +kernel)⟩
theorem test_retires (h : Obligations.EntropyIsGatheredAndServed) :
    ∃ t, exec (.entropyStartupTestEnd 7 false) (rawS { restarting := true, failCount := 2 } {}) = .next t :=
  ⟨_, (h.2.2.2.1 (rawS { restarting := true, failCount := 2 } {}) 7 rfl).2.2 _ (by decide +kernel) rfl⟩
theorem test_raw_read (h : Obligations.EntropyIsGatheredAndServed) :
    ∃ t, exec .rawDataRead (rawS {} { rawFifo := List.replicate 32 true }) = .next t :=
  ⟨_, h.2.2.2.2.1 (rawS {} { rawFifo := List.replicate 32 true }) (by decide +kernel) (by decide +kernel)⟩
theorem test_raw_bit (h : Obligations.EntropyIsGatheredAndServed) :
    ∃ t, exec (.entropyRawBit true) (rawS {} { rawEn := true }) = .next t :=
  ⟨_, h.2.2.2.2.2 (rawS {} { rawEn := true }) true rfl⟩
/- The fault collector. -/

def faultMsg (act src arg : Nat) : Bytes := leBytes 1 act ++ leBytes 1 0 ++ leBytes 2 src ++ leBytes 4 arg
theorem test_fault_read (h : Obligations.FaultConfigurationActs) :
    ∃ t, exec (.faultConfigRead .host) (mailS .host 0x60 (faultMsg 0 0 0) expertDev) = .next t :=
  ⟨_, (h.1 (mailS .host 0x60 (faultMsg 0 0 0) expertDev) .host _ (mail (p := faultMsg 0 0 0) (by decide +kernel)) (by decide +kernel) (by decide +kernel)).1
    (by decide +kernel)⟩
theorem test_fault_set (h : Obligations.FaultConfigurationActs) :
    ∃ t, exec (.faultConfigSet .host) (mailS .host 0x60 (faultMsg 1 337 0) expertDev) = .next t :=
  ⟨_, (h.1 (mailS .host 0x60 (faultMsg 1 337 0) expertDev) .host _ (mail (p := faultMsg 1 337 0) (by decide +kernel)) (by decide +kernel) (by decide +kernel)).2.1
    (by decide +kernel)⟩
theorem test_fault_ack (h : Obligations.FaultConfigurationActs) :
    ∃ t, exec (.faultConfigAck .host) (mailS .host 0x60 (faultMsg 2 337 0) expertDev) = .next t :=
  ⟨_, (h.1 (mailS .host 0x60 (faultMsg 2 337 0) expertDev) .host _ (mail (p := faultMsg 2 337 0) (by decide +kernel)) (by decide +kernel) (by decide +kernel)).2.2.1
    (by decide +kernel)⟩
theorem test_fault_clear (h : Obligations.FaultConfigurationActs) :
    ∃ t, exec (.faultConfigClear .host) (mailS .host 0x60 (faultMsg 3 0 0) expertDev) = .next t :=
  ⟨_, (h.1 (mailS .host 0x60 (faultMsg 3 0 0) expertDev) .host _ (mail (p := faultMsg 3 0 0) (by decide +kernel)) (by decide +kernel) (by decide +kernel)).2.2.2.1
    (by decide +kernel)⟩
theorem test_fault_window (h : Obligations.FaultConfigurationActs) :
    ∃ t, exec (.faultConfigWindow .host) (mailS .host 0x60 (faultMsg 4 0 10000) expertDev) = .next t :=
  ⟨_, (h.1 (mailS .host 0x60 (faultMsg 4 0 10000) expertDev) .host _ (mail (p := faultMsg 4 0 10000) (by decide +kernel)) (by decide +kernel) (by decide +kernel)).2.2.2.2.1
    (by decide +kernel)⟩
theorem test_fault_inject (h : Obligations.FaultConfigurationActs) :
    ∃ t, exec (.faultConfigInject .host) (mailS .host 0x60 (faultMsg 5 337 7) expertDev) = .next t :=
  ⟨_, (h.1 (mailS .host 0x60 (faultMsg 5 337 7) expertDev) .host _ (mail (p := faultMsg 5 337 7) (by decide +kernel)) (by decide +kernel) (by decide +kernel)).2.2.2.2.2
    (by decide +kernel) (by decide +kernel)⟩

def fcS : State :=
  { State.reset with
    dev := { expertDev with
      own := { expertDev.own with owner := some .host }
      fc := { expertDev.fc with timers := [(337, 5)], safeState := true } } }
theorem test_fc_ack (h : Obligations.FaultConfigurationActs) : ∃ t, exec (.fcAck 337) fcS = .next t :=
  ⟨_, (h.2 fcS (by decide +kernel)).1 337⟩
theorem test_fc_inject (h : Obligations.FaultConfigurationActs) : ∃ t, exec (.fcInject 0x400) fcS = .next t :=
  ⟨_, (h.2 fcS (by decide +kernel)).2.1 0x400 (by decide +kernel) (by decide +kernel) (by decide +kernel)⟩
theorem test_fc_status (h : Obligations.FaultConfigurationActs) : ∃ t, exec (.fcStatusClear 15 1) fcS = .next t :=
  ⟨_, (h.2 fcS (by decide +kernel)).2.2.1 15 1⟩
theorem test_fc_fallback (h : Obligations.FaultConfigurationActs) : ∃ t, exec (.fcFallbackWrite 10) fcS = .next t :=
  ⟨_, (h.2 fcS (by decide +kernel)).2.2.2.1 10 (by decide +kernel) (by decide +kernel) (by decide +kernel)⟩
theorem test_fc_config (h : Obligations.FaultConfigurationActs) : ∃ t, exec (.fcConfigWrite 337 0) fcS = .next t :=
  ⟨_, (h.2 fcS (by decide +kernel)).2.2.2.2.1 337 0 (by decide +kernel) (by decide +kernel)⟩
theorem test_fallback (h : Obligations.FaultConfigurationActs) : ∃ t, exec (.fallbackExpiry 337) fcS = .next t :=
  ⟨_, ((h.2 fcS (by decide +kernel)).2.2.2.2.2 337 5 _ (by decide +kernel) rfl).1 rfl⟩
def armedS : State := { fcS with dev := { fcS.dev with fc := { fcS.dev.fc with safeState := false } } }
theorem test_fallback_forces (h : Obligations.FaultConfigurationActs) : ∃ t, exec (.fallbackExpiry 337) armedS = .next t :=
  ⟨_, ((h.2 armedS (by decide +kernel)).2.2.2.2.2 337 5 _ (by decide +kernel) rfl).2 rfl⟩

def readyS : State := { State.reset with dev := readyDev }
theorem test_i3c (h : Obligations.SidebandAccessesReachTheirMailbox) :
    ∃ t, exec (.i3cPrivateWrite (leBytes 4 0)) readyS = .next t := ⟨_, h.2.1 readyS _ (by decide +kernel) (by decide +kernel)⟩
theorem test_jtag_write (h : Obligations.SidebandAccessesReachTheirMailbox) :
    ∃ t, exec (.mboxAccess 0x1004000000005) makerS = .next t :=
  ⟨_, (h.2.2 makerS _ (by decide +kernel)).1 (by decide +kernel)⟩
theorem test_jtag_read (h : Obligations.SidebandAccessesReachTheirMailbox) :
    ∃ t, exec (.mboxAccess 0x4000000005) makerS = .next t :=
  ⟨_, (h.2.2 makerS _ (by decide +kernel)).2 (by decide +kernel)⟩

theorem test_assert (h : Obligations.FaultsAreRaisedRecordedAndEnded) : ∃ t, exec (.faultAssert 0 false 5) readyS = .next t :=
  ⟨_, (h.1.1 readyS 0 5 (by decide +kernel) rfl).1 (by decide +kernel) (by decide +kernel)⟩
theorem test_assert_rail (h : Obligations.FaultsAreRaisedRecordedAndEnded) : ∃ t, exec (.faultAssert 337 true 5) readyS = .next t :=
  ⟨_, (h.1.1 readyS 337 5 (by decide +kernel) rfl).2⟩
theorem test_cause (h : Obligations.FaultsAreRaisedRecordedAndEnded) : ∃ t, exec (.faultCauseClear 5) readyS = .next t :=
  ⟨_, h.1.2.1 readyS 5 (by decide +kernel) (by decide +kernel)⟩
def injectedS : State :=
  { State.reset with
    dev := { readyDev with
      fc := { readyDev.fc with injectedNow := [5], traps := [{ source := 16, detail := 0, users := [] }] } } }
theorem test_injected (h : Obligations.FaultsAreRaisedRecordedAndEnded) :
    ∃ t, exec (.injectedConditionClear 5) injectedS = .next t := ⟨_, h.1.2.2.1 injectedS 5 (by decide +kernel)⟩
theorem test_trap (h : Obligations.FaultsAreRaisedRecordedAndEnded) : ∃ t, exec (.curatorTrapEnd 16) injectedS = .next t :=
  ⟨_, h.1.2.2.2.2 injectedS 16 { source := 16, detail := 0, users := [] } _ (by decide +kernel) rfl⟩
def resettingS : State :=
  { State.reset with dev := { readyDev with fc := { readyDev.fc with resets := [.channel 31] } } }
theorem test_reset_end (h : Obligations.FaultsAreRaisedRecordedAndEnded) : ∃ t, exec (.blockResetEnd ⟨0, true⟩) resettingS = .next t :=
  ⟨_, (h.1.2.2.2.1 resettingS 0 true _ rfl).1 (.inl rfl)⟩
theorem test_reset_fails (h : Obligations.FaultsAreRaisedRecordedAndEnded) : ∃ t, exec (.blockResetEnd ⟨0, false⟩) resettingS = .next t :=
  ⟨_, (h.1.2.2.2.1 resettingS 0 false _ rfl).2 31 rfl (by decide +kernel)⟩
theorem test_record (h : Obligations.FaultsAreRaisedRecordedAndEnded) :
    (recordAssert { source := 337, rail := false, injected := false, detail := 0 } readyDev).fc.status.getLsbD 337 = true :=
  (h.2 readyDev { source := 337, rail := false, injected := false, detail := 0 } (by decide +kernel)).1

/- The catalogue. -/

def event : Event := { code := 0x0101, severity := 1, injected := false, die := 16, p0 := 0, p1 := 0, p2 := 0, repeats := 0 }
def catRec : CatRecord := { windex := 3, slot := 0, ev := event, emergency := false, reloaded := false, opTime := 0, cycles := 1 }
def catS (c : Catalogue) : State := { State.reset with dev := { readyDev with cat := c } }
theorem test_merge (h : Obligations.TheCatalogueTakesDrainsAndAdvances) :
    ∃ t, exec .catalogueTake (catS { input := [event], writing := some (catRec, 0) }) = .next t :=
  ⟨_, (h.1 (catS { input := [event], writing := some (catRec, 0) }) event [] rfl).1 catRec 0 rfl (by decide +kernel)⟩
theorem test_merge_newest (h : Obligations.TheCatalogueTakesDrainsAndAdvances) :
    ∃ t, exec .catalogueTake (catS { input := [event], records := [catRec] }) = .next t :=
  ⟨_, (h.1 (catS { input := [event], records := [catRec] }) event [] rfl).2.1 catRec rfl (by decide +kernel) (by decide +kernel)⟩
theorem test_take (h : Obligations.TheCatalogueTakesDrainsAndAdvances) :
    ∃ t, exec .catalogueTake (catS { input := [event] }) = .next t :=
  ⟨_, ((h.1 (catS { input := [event] }) event [] rfl).2.2 rfl (fun r hr => nomatch hr)).1 (by decide +kernel)⟩

/-- All rows but one are bad, and its 32 slots hold records of severity `v`. -/
def fullS (v : Nat) : State :=
  catS { input := [event], badRows := (List.range 255).map (fun i => i + 1)
         records := (List.range 32).map (fun i => { catRec with windex := i, slot := i, ev := { event with code := 0x0102, severity := v } }) }
theorem full_other (v : Nat) (r : CatRecord) (hr : (fullS v).dev.cat.records.getLast? = some r) :
    sameEvent event r.ev = false := by
  cases hr
  unfold sameEvent
  simp [event]
theorem test_take_over (h : Obligations.TheCatalogueTakesDrainsAndAdvances) :
    ∃ t, exec .catalogueTake (fullS 1) = .next t :=
  ⟨_, ((h.1 (fullS 1) event [] rfl).2.2 rfl (full_other 1)).2.1 _ (by decide +kernel) (by decide +kernel)
    (some_get (by decide +kernel))⟩
theorem test_take_dropped (h : Obligations.TheCatalogueTakesDrainsAndAdvances) :
    ∃ t, exec .catalogueTake (fullS 2) = .next t :=
  ⟨_, ((h.1 (fullS 2) event [] rfl).2.2 rfl (full_other 2)).2.2 (by decide +kernel) (by decide +kernel)
    (by decide +kernel)⟩
theorem test_valid (h : Obligations.TheCatalogueTakesDrainsAndAdvances) :
    ∃ t, exec .catalogueRecordValid (catS { writing := some (catRec, 65535) }) = .next t :=
  ⟨_, h.2.1 (catS { writing := some (catRec, 65535) }) catRec 65535 rfl⟩
theorem test_drain (h : Obligations.TheCatalogueTakesDrainsAndAdvances) :
    ∃ t, exec (.catalogueDrain true) (catS { records := [catRec] }) = .next t :=
  ⟨_, (h.2.2.1 (catS { records := [catRec] }) catRec (by decide +kernel) (fun i hi => nomatch hi)).1⟩
theorem test_cursor (h : Obligations.TheCatalogueTakesDrainsAndAdvances) :
    ∃ t, exec .advance (catS { records := [catRec] }) = .next t :=
  ⟨_, (h.2.2.2 (catS { records := [catRec] }) (by decide +kernel) rfl).1 catRec (by decide +kernel)⟩
theorem test_cursor_end (h : Obligations.TheCatalogueTakesDrainsAndAdvances) : ∃ t, exec .advance (catS {}) = .next t :=
  ⟨_, (h.2.2.2 (catS {}) (by decide +kernel) rfl).2 (by decide +kernel)⟩

/- Power, memories. -/

def sample : PeriodSample := { powerW := 1200, temps := [419], busy := [], railMv := [], railMa := [] }
theorem test_period (h : Obligations.PowerFollowsItsSettings) : ∃ t, exec (.controlPeriodEnd sample) readyS = .next t := by
  obtain ⟨t, ht, -⟩ := h.1 readyS sample rfl (by decide +kernel)
  exact ⟨_, ht⟩
def islandS (x : IslandSt) : State :=
  { State.reset with dev := { readyDev with power := { readyDev.power with islands := [(639, x)] } } }
theorem test_relock (h : Obligations.PowerFollowsItsSettings) :
    ∃ t, exec (.pllRelockDone 639) (islandS { relock := some 400 }) = .next t :=
  ⟨_, h.2.1.2.1 (islandS { relock := some 400 }) 639 400 (by decide +kernel)⟩
theorem test_avs (h : Obligations.PowerFollowsItsSettings) :
    ∃ t, exec (.avsSettled 3) (islandS { waits := some 400 }) = .next t := by
  obtain ⟨t, ht, -⟩ := h.2.1.1 (islandS { waits := some 400 }) 3 _ rfl
  exact ⟨_, ht⟩
theorem test_canary (h : Obligations.PowerFollowsItsSettings) :
    ∃ t, exec (.canaryFail 639) (islandS { gated := false, mhz := 400 }) = .next t :=
  ⟨_, h.2.1.2.2 (islandS { gated := false, mhz := 400 }) 639 _ _ _ (by decide +kernel) rfl rfl rfl⟩
theorem test_wake (h : Obligations.PowerFollowsItsSettings) :
    ∃ t, exec (.islandWake 639) (islandS { gated := true, mhz := 2000 }) = .next t :=
  ⟨_, h.2.2.1.1 (islandS { gated := true, mhz := 2000 }) 639 _ _ (by decide +kernel) (by decide +kernel) (by decide +kernel)
    rfl rfl rfl⟩
theorem test_gate (h : Obligations.PowerFollowsItsSettings) : ∃ t, exec (.clockGating 639) (islandS {}) = .next t :=
  ⟨_, h.2.2.1.2.1 (islandS {}) 639 (by decide +kernel)⟩
theorem test_sweep (h : Obligations.PowerFollowsItsSettings) :
    ∃ t, exec (.canarySweep 639 true) (islandS { tune := -40 }) = .next t :=
  ⟨_, (h.2.2.1.2.2.1 (islandS { tune := -40 }) 639 (by decide +kernel)).1⟩
theorem test_thermtrip (h : Obligations.PowerFollowsItsSettings) : ∃ t, exec (.thermtrip 79 460) readyS = .next t :=
  ⟨_, h.2.2.2.1 readyS 79 460 (by decide +kernel)⟩
theorem test_thermtrip_below (h : Obligations.PowerFollowsItsSettings) : ∃ t, exec (.thermtrip 79 459) readyS = .next t :=
  ⟨_, h.2.2.2.2.1 readyS 79 459 (by decide +kernel)⟩
theorem test_wing_reset (h : Obligations.PowerFollowsItsSettings) :
    Block.wing 3 ∈ (blockReset (.wing 3) stAbortedDisabled readyDev).fc.resets :=
  (h.2.2.2.2.2 readyS 3).2 rfl (by decide +kernel)

/-- The scrubber of hall 0's last shared bank stands at its last row. -/
def scrubS : State := { State.reset with dev := { readyDev with mem := { readyDev.mem with scrub := [(163903, 32767)] } } }
theorem test_scrub (h : Obligations.MemoryIsKeptAndTested) :
    ∃ t, exec (.scrubRead 0x01001CFFFFFF .correctable) scrubS = .next t :=
  ⟨_, ((h.1.2.2.2.2 scrubS 0x01001CFFFFFF _ 163903 32767 _ rfl (by decide +kernel) (by decide +kernel) (by decide +kernel)
    (by decide +kernel) (by decide +kernel) rfl).2.1 (by decide +kernel)).1⟩
def lostS : State := { scrubS with dev := { scrubS.dev with mem := { scrubS.dev.mem with ue := [0x01001CFFFFF8] } } }
theorem test_scrub_lost (h : Obligations.MemoryIsKeptAndTested) :
    ∃ t, exec (.scrubRead 0x01001CFFFFFF .uncorrectable) lostS = .next t :=
  ⟨_, ((h.1.2.2.2.2 lostS 0x01001CFFFFFF _ 163903 32767 _ rfl (by decide +kernel) (by decide +kernel) (by decide +kernel)
    (by decide +kernel) (by decide +kernel) rfl).2.2 (by decide +kernel)).2⟩
def marchR (p : Bool) (r w : List MarchUnit) : MarchReq :=
  { user := .mail .host, preserving := p, result := 0, running := r, deferred := w, tested := 0, skipped := 0, found := [] }
def unitS (r : MarchReq) : State := { State.reset with dev := { readyDev with march := { readyDev.march with reqs := [r] } } }
theorem test_deferred (h : Obligations.MemoryIsKeptAndTested) :
    ∃ t, exec (.marchQuietPoint (.shared 15)) (unitS (marchR true [] [.shared 15])) = .next t :=
  ⟨_, h.2.1 (unitS (marchR true [] [.shared 15])) (.shared 15) (marchR true [] [.shared 15]) [] rfl (by decide +kernel)
    (by decide +kernel) (by decide +kernel) (by decide +kernel)⟩
theorem test_unit_end (h : Obligations.MemoryIsKeptAndTested) :
    ∃ t, exec (.marchUnitEnd (.channel 31) [] []) (unitS (marchR false [.channel 31] [])) = .next t :=
  ⟨_, h.2.2 (unitS (marchR false [.channel 31] [])) (.channel 31) [] [] _ _ (marchR false [.channel 31] []) _ rfl
    (by decide +kernel) rfl rfl rfl⟩
/- Resets and start-up. -/

theorem test_flr (h : Obligations.ResetsLeaveTheirState) : ∃ t, exec .functionLevelReset readyS = .next t :=
  ⟨_, h.2.1 readyS rfl⟩
theorem test_hot_reset (h : Obligations.ResetsLeaveTheirState) : ∃ t, exec .hotReset readyS = .next t :=
  ⟨_, (h.2.2.1 readyS rfl rfl).1⟩
theorem test_perst_low (h : Obligations.ResetsLeaveTheirState) : ∃ t, exec (.perstN false) readyS = .next t :=
  ⟨_, h.2.2.2.1 readyS rfl (by decide +kernel)⟩
def bootS (b : Boot) : State := { State.reset with dev := { State.reset.dev with boot := b } }
theorem test_perst_high (h : Obligations.ResetsLeaveTheirState) :
    ∃ t, exec (.perstN true) (bootS { perstLow := true, cause := .perst }) = .next t :=
  ⟨_, (h.2.2.2.2.1 (bootS { perstLow := true, cause := .perst }) rfl).1 rfl rfl⟩
theorem test_perst_free (h : Obligations.ResetsLeaveTheirState) :
    ∃ t, exec (.perstN true) (bootS { perstLow := true, cause := .flr }) = .next t :=
  ⟨_, (h.2.2.2.2.1 (bootS { perstLow := true, cause := .flr }) rfl).2 (.inr (by decide))⟩
theorem test_chip_reset (h : Obligations.ResetsLeaveTheirState) : (chipReset .flr readyDev).boot.ready = false :=
  (h.2.2.2.2.2 readyDev .flr rfl).1

def report (ok : Bool) : StageReport :=
  { ok := ok, pcieGen := 6, pcieWidth := 16, capacities := List.replicate 32 2, passes := [0xFFFFFFFF], failing := [],
    hallsRefused := 0, badRows := [] }
theorem test_stage_2 (h : Obligations.StartupStagesEnd) :
    ∃ t, exec (.startupStageEnd (report true)) (bootS { stage := 2 }) = .next t :=
  ⟨_, h.1 (bootS { stage := 2 }) _ rfl rfl⟩
theorem test_stage_3 (h : Obligations.StartupStagesEnd) :
    ∃ t, exec (.startupStageEnd (report false)) (bootS { stage := 3 }) = .next t :=
  ⟨_, h.2.1 (bootS { stage := 3 }) _ rfl rfl rfl⟩
theorem test_stage_6 (h : Obligations.StartupStagesEnd) :
    ∃ t, exec .pcieTrainingTimeout (bootS { stage := 6 }) = .next t := ⟨_, h.2.2.1 (bootS { stage := 6 }) rfl rfl⟩
theorem test_stage_10 (h : Obligations.StartupStagesEnd) :
    ∃ t, exec (.startupStageEnd (report true)) (bootS { stage := 10 }) = .next t :=
  ⟨_, ((h.2.2.2 (bootS { stage := 10 }) (report true) rfl).2.2.2 rfl).1⟩
theorem test_stage_7 (h : Obligations.StartupStagesEnd) :
    ∃ t, exec (.startupStageEnd (report true)) (bootS { stage := 7 }) = .next t :=
  ⟨_, (h.2.2.2 (bootS { stage := 7 }) (report true) rfl).1 rfl⟩
theorem test_stage_8 (h : Obligations.StartupStagesEnd) :
    ∃ t, exec (.startupStageEnd (report true)) (bootS { stage := 8 }) = .next t :=
  ⟨_, (h.2.2.2 (bootS { stage := 8 }) (report true) rfl).2.1 rfl⟩
theorem test_stage_9 (h : Obligations.StartupStagesEnd) :
    ∃ t, exec (.startupStageEnd (report true)) (bootS { stage := 9 }) = .next t :=
  ⟨_, (h.2.2.2 (bootS { stage := 9 }) (report true) rfl).2.2.1 rfl⟩

/- Host accesses. -/

/-- The last byte of BAR4. -/
def barEnd : BitVec 39 := BitVec.ofNat 39 (2 ^ 34 - 1)
def barRead : HeldAccess := { addr := bar4Addr readyDev barEnd.toNat, op := .read 1 }
theorem test_bar4_read (h : Obligations.HostAccessesReachMemory) : ∃ t, exec (.bar4Access barEnd (.read 1)) readyS = .next t :=
  ⟨_, (h.1 readyS barEnd barRead (by decide +kernel) (by decide +kernel) rfl).1 rfl (by decide +kernel)⟩
theorem test_bar4_read_value (h : Obligations.HostAccessesReachMemory) :
    ∃ d', hostAccess { addr := barRead.addr, op := .read 1 } readyDev = d' :=
  ⟨_, ((h.2.1 readyDev barRead.addr).1 1).2 _ _ (by decide +kernel) (ok_at (a := ([0], none)) (by decide +kernel))⟩
theorem test_bar4_miss (h : Obligations.HostAccessesReachMemory) :
    ∃ d', hostAccess { addr := 2 ^ 45, op := .write [7] } readyDev = d' :=
  ⟨_, ((h.2.1 readyDev (2 ^ 45)).2 [7]).1 (by decide +kernel)⟩
/-- Channel 31's unit is under test. -/
def underTestS : State :=
  { State.reset with dev := { readyDev with march := { readyDev.march with reqs :=
    [{ user := .mail .host, preserving := true, result := 0, running := (List.range 32).map (fun c => .channel (Fin.ofNat 32 c))
       deferred := [], tested := 0, skipped := 0, found := [] }] } } }
theorem test_bar4_held (h : Obligations.HostAccessesReachMemory) : ∃ t, exec (.bar4Access barEnd (.read 1)) underTestS = .next t :=
  ⟨_, (h.1 underTestS barEnd barRead (by decide +kernel) (by decide +kernel) rfl).2 barRead [] (by decide +kernel) (by decide +kernel)⟩

def hostIssue : OpIssue := { idx := 0, record := record 1 [2 ^ 63, 5], wait := .host 0 8 }
def hostEntry : Entry := { entry 0 (record 1 [2 ^ 63, 5]) with next := 1, issues := [hostIssue] }
def hostS : State := opState {} hostEntry [] readyDev
theorem test_completion (h : Obligations.HostAccessesReachMemory) :
    ∃ t, exec (.hostCompletion q0 0 0 .success (leBytes 8 5)) hostS = .next t :=
  ⟨_, ((h.2.2 hostS q0 0 0 (leBytes 8 5) hostEntry hostIssue (by decide +kernel) (by decide +kernel)).1 0 8 rfl).1⟩
theorem test_poll_completion (h : Obligations.HostAccessesReachMemory) :
    ∃ t, exec (.hostCompletion q0 0 64 .success (leBytes 8 5)) pollS = .next t :=
  ⟨_, (h.2.2 pollS q0 0 64 (leBytes 8 5) pollEntry pollIssue (by decide +kernel) (by decide +kernel)).2.1 (2 ^ 63 + 64) 5 rfl
    (by decide +kernel)⟩
theorem test_timeout (h : Obligations.HostAccessesReachMemory) : ∃ t, exec (.completionTimeout q0 0) hostS = .next t :=
  ⟨_, ((h.2.2 hostS q0 0 0 [] hostEntry hostIssue (by decide +kernel) (by decide +kernel)).2.2 rfl).2.2.2⟩

theorem test_config_retry (h : Obligations.ConfigurationAndPowerStatesChange) :
    ∃ t, exec (.configRequest (.busMaster true)) State.reset = .next t := ⟨_, h.1 State.reset _ rfl⟩
theorem test_config (h : Obligations.ConfigurationAndPowerStatesChange) :
    ∃ t, exec (.configRequest (.bar4Size 5)) readyS = .next t := ⟨_, (h.2 readyS rfl).2.2.1 5⟩
theorem test_config_master (h : Obligations.ConfigurationAndPowerStatesChange) :
    ∃ t, exec (.configRequest (.busMaster true)) readyS = .next t := ⟨_, ((h.2 readyS rfl).2.1 true).2.1 _ rfl⟩
theorem test_pcie (h : Obligations.ConfigurationAndPowerStatesChange) : ∃ t, exec (.pcieRetrain 1 16) readyS = .next t :=
  ⟨_, (h.2 readyS rfl).2.2.2.1 1 16 (by decide +kernel) (by decide +kernel) (by decide +kernel)⟩
theorem test_d3 (h : Obligations.ConfigurationAndPowerStatesChange) : ∃ t, exec .d3hotEnter readyS = .next t :=
  ⟨_, (h.2 readyS rfl).2.2.2.2.1⟩

def hostOwnS : State := { State.reset with dev := { readyDev with own := { readyDev.own with owner := some .host } } }
theorem test_window (h : Obligations.RegisterWritesReachTheirRegister) :
    ∃ t, exec (.registerWrite (BitVec.ofNat 26 (0x2000 + 8 * 3)) .b8 (BitVec.ofNat 64 (2 ^ 48 - 1))) hostOwnS = .next t :=
  ⟨_, (h hostOwnS (by decide +kernel) rfl).1 3 _ (by decide +kernel) rfl (by decide +kernel)⟩
theorem test_buffer (h : Obligations.RegisterWritesReachTheirRegister) :
    ∃ t, exec (.registerWrite (BitVec.ofNat 26 (0x10040 + 4 * 0x403)) .b4 5) hostOwnS = .next t :=
  ⟨_, (h hostOwnS (by decide +kernel) rfl).2.1 0x403 5 (by decide +kernel) rfl⟩
theorem test_undefined (h : Obligations.RegisterWritesReachTheirRegister) :
    ∃ t, exec (.registerWrite 0x88000 .b4 5) hostOwnS = .next t :=
  ⟨_, (h hostOwnS (by decide +kernel) rfl).2.2 0x88000 5 (by decide +kernel)⟩

/-- An op that has its outcome, with COMPLETE set or clear. -/
def endIssue (r : Bytes) : OpIssue := { idx := 0, record := r, wait := .out { status := stBadAddress, detail := 5 } }
def endEntry (r : Bytes) : Entry := { entry 0 r with next := 1, issues := [endIssue r] }
/-- NOP with COMPLETE. -/
def complRec : Bytes := leBytes 2 0x0400 ++ (record 0 []).drop 2
/-- The completion ring has room or, its head one ahead of its tail, none. -/
def endS (r : Bytes) (n : Nat) : State :=
  { State.reset with
    dev := setCtx 0 {} (setQueue q0 { config := 0x404, state := .active, sqTail := 1, cqHead := n, cur := some (endEntry r) } readyDev) }
theorem test_op_end (h : Obligations.OpsEndWithTheirStatus) : ∃ t, exec (.opEnd q0 0) (endS (record 0 []) 0) = .next t :=
  ⟨_, (h (endS (record 0 []) 0) q0 0 (endEntry (record 0 [])) (endIssue (record 0 [])) { status := stBadAddress, detail := 5 }
    _ _ (by decide +kernel) (by decide +kernel) rfl (by decide +kernel) rfl rfl).1 (by decide +kernel)⟩
theorem test_op_completes (h : Obligations.OpsEndWithTheirStatus) : ∃ t, exec (.opEnd q0 0) (endS complRec 0) = .next t :=
  ⟨_, (h (endS complRec 0) q0 0 (endEntry complRec) (endIssue complRec) { status := stBadAddress, detail := 5 }
    _ _ (by decide +kernel) (by decide +kernel) rfl (by decide +kernel) rfl rfl).2.1 (by decide +kernel) (by decide +kernel)⟩
theorem test_op_end_waits (h : Obligations.OpsEndWithTheirStatus) : ∃ t, exec (.opEnd q0 0) (endS complRec 1) = .next t :=
  ⟨_, (h (endS complRec 1) q0 0 (endEntry complRec) (endIssue complRec) { status := stBadAddress, detail := 5 }
    _ _ (by decide +kernel) (by decide +kernel) rfl (by decide +kernel) rfl rfl).2.2 (by decide +kernel) (by decide +kernel)⟩

/- Schedules and maps. -/

/-- One entry of one sweep. -/
def schedDesc : Bytes := desc 64 [(0, 2, 3), (2, 1, 3), (4, 2, 1), (8, 8, fa + 64)] ++ desc 16 [(0, 4, 5), (4, 4, 1)]
theorem test_schedule (h : Obligations.SchedulesAndMapsAreKept) :
    ∃ t, exec (.setSchedule q0) (descS 0x42 schedDesc {} readyDev) = .next t :=
  ⟨_, h.1 _ q0 _ _ _ _ _ _ _ _ _ {} (runs_desc (code := 0x42) (b := schedDesc) (x := {}) (d := readyDev) (by decide +kernel))
    ⟨by decide +kernel, rfl⟩ (ok_of (by decide +kernel)) (by decide +kernel) (ok_of (by decide +kernel)) (by decide +kernel)
    (fun g hg => nomatch hg) (by decide +kernel)⟩

/-- Part 0 of two parts; part 1 is its child and shares no boundary. -/
def mapDesc : Bytes :=
  desc 128 [(0, 2, 3), (4, 2, 2), (8, 2, 1), (0xA, 1, 1), (0x10, 8, fa + 128), (0x30, 8, 4096), (0x38, 8, fa + 0x400),
    (0x40, 4, 16), (0x48, 8, fa + 0x800), (0x50, 8, fa + 0x900), (0x60, 8, fa + 0xA00)] ++ desc 32 [(0, 2, 1), (4, 4, 4)]
theorem test_map (h : Obligations.SchedulesAndMapsAreKept) :
    ∃ t, exec (.boundaryLoad q0) (descS 0x47 mapDesc {} readyDev) = .next t :=
  ⟨_, h.2 _ q0 _ _ _ _ _ _ _ _ _ _ _ {} _ _ rfl
    (runs_desc (code := 0x47) (b := mapDesc) (x := {}) (d := readyDev) (by decide +kernel)) ⟨by decide +kernel, rfl⟩
    (ok_of (by decide +kernel)) (by decide +kernel) (ok_of (by decide +kernel)) (by decide +kernel) (by decide +kernel)
    (by decide +kernel) (by decide +kernel) (by decide +kernel) (ok_of (by decide +kernel)) rfl (fun p hp => nomatch hp)
    (by decide +kernel) (by decide +kernel) (by decide +kernel) (by decide +kernel) (by decide +kernel) (by decide +kernel)
    (by decide +kernel) rfl⟩
/- Loads and updates. -/

def ldPair {α : Type} (r : EStateM.Result Stop Dev (Except LoadFail α)) : Option (α × Dev) :=
  match r with
  | .ok (.ok a) d => some (a, d)
  | _ => none

def isLd {α : Type} (r : EStateM.Result Stop Dev (Except LoadFail α)) : Bool := (ldPair r).isSome

theorem ld_of {α : Type} {r : EStateM.Result Stop Dev (Except LoadFail α)} (h : isLd r = true) :
    r = .ok (.ok ((ldPair r).get h).1) ((ldPair r).get h).2 := by
  cases r with
  | ok a d =>
    cases a with
    | ok a => rfl
    | error x => cases h
  | error x d => cases h

def exOpt {α : Type} (r : Except LoadFail α) : Option α :=
  match r with
  | .ok a => some a
  | .error _ => none

theorem ex_of {α : Type} {r : Except LoadFail α} (h : (exOpt r).isSome = true) : r = .ok ((exOpt r).get h) := by
  cases r with
  | ok a => rfl
  | error x => cases h

def spansOk (c : Ctx) : List PBlock → List (PBlock × Bytes) → Bool
  | _, [] => true
  | before, (x, b) :: t => (spanOk b && !(before.any (spansMeet x))) && spanPlaced c x && spansOk c (before ++ [x]) t

theorem span_of {c : Ctx} {d : Dev} {l : List (PBlock × Bytes)} {i : Nat} {before : List PBlock}
    (h : spansOk c before l = true) : (spanChecks c i before l).run d = .ok (.ok ()) d := by
  induction l generalizing i before with
  | nil => rfl
  | cons y t ih =>
    obtain ⟨x, b⟩ := y
    rw [spansOk, Bool.and_eq_true, Bool.and_eq_true] at h
    unfold spanChecks
    rw [h.1.1, h.1.2]
    exact ih h.2

/-- A load of one sparse block of two spins with a coupling of 3 and biases 5 and -2, in quanta; problem 9. -/
def loadDesc : Bytes :=
  desc 128 [(0, 2, 3), (2, 2, 0x50), (4, 4, 9), (8, 4, 0x3F800000), (0xC, 2, 1), (0x10, 8, fa + 128), (0x18, 8, fa + 192),
    (0x20, 8, 1)] ++
  desc 64 [(0, 1, 1), (4, 1, 1), (7, 1, 1), (8, 4, 2), (0x18, 8, fa + 208)] ++
  leBytes 4 0 ++ leBytes 4 1 ++ leBytes 8 3 ++ leBytes 4 5 ++ leBytes 4 (2 ^ 32 - 2)
def loadS : State := descS 0x40 loadDesc placedX readyDev
theorem test_load (h : Obligations.AProblemIsLoaded) : ∃ t, exec (.loadProblem q0) loadS = .next t :=
  ⟨_, h _ q0 _ _ _ _ _ _ _ _ _ _ _ _ _ placedX _ _ _ _ _ _ _ _ _ _ rfl
    (runs_desc (code := 0x40) (b := loadDesc) (x := placedX) (d := readyDev) (by decide +kernel)) (ok_of (by decide +kernel))
    (.inl (by decide +kernel)) ⟨by decide +kernel, rfl⟩ rfl (ld_of (by decide +kernel)) (span_of (by decide +kernel))
    (ok_of2 (by decide +kernel)) (ok_of (by decide +kernel)) (ex_of (by decide +kernel)) (by decide +kernel)
    (by decide +kernel) (by decide +kernel) (ex_of (by decide +kernel)) (ok_of (by decide +kernel)) rfl rfl rfl rfl
    (.inl ⟨by decide +kernel, rfl⟩)⟩
/- A loaded problem of two coupled sparse spins, and a run of it. -/

def repX : Replica := { spins := [false, false], fields := [2, 5], energy := 0, bestSpins := [false, false], best := 0 }
def sparseX : PBlock :=
  { dense := false, bits := 0, hall := 0, tread := 0, treads := 32, n := 2, first := 0, tag := 0, rows := [], shifts := [],
    biases := [5, -2], colours := [0, 1], spinTiers := [0, 0], tier := 0, reps := [repX] }
def problemX : Problem :=
  { id := 9, quantum := 0x3F800000, constant := 0, blocks := [sparseX], edges := [{ a := 0, b := 1, imp := false, val := 3 }],
    groups := [], imports := [], energy := 0, best := 0, phases := 2, spilled := 0 }
def descX : RunDesc :=
  { stand := false, trace := false, traceSystem := false, stopAtTarget := false, schedule := 0, part := 0, seed := 1,
    drawn := false, epochSweeps := 1, traceEvery := 0, ringAddr := 0, ringEntries := 0, traceBlock := 0, traceReplicas := 0,
    countAddr := 0, target := 0, loopEntry := 0, pace := false, emit := false, stopAddr := 0, stopValue := 0 }
def entryX (tournament : Bool) : SchedEntry :=
  { tfix := 256, heatBath := false, tournament := tournament, racing := false, sweeps := 2, clusters := 0, exchange := 0 }
def runX : Run :=
  { q := .kernel 1, idx := 0, flight := none, desc := descX, entries := [entryX false], ladders := [[256]], begun := true }
def ctxX : Ctx := { placedX with problem := some problemX }
def ctxR : Ctx := { ctxX with run := some runX }

/-- An update of problem 9: 4 in quanta for the pair (0, 1). -/
def updDesc (flags : Nat) : Bytes :=
  desc 64 [(0, 2, 3), (2, 2, flags), (4, 4, 9), (8, 8, 2 ^ 48 - 1), (0x10, 4, 1), (0x14, 4, 1), (0x18, 8, fa + 64)] ++
  leBytes 4 0 ++ leBytes 4 1 ++ leBytes 8 4

theorem test_update_explicit (h : Obligations.CoefficientsAreUpdated) :
    ∃ t, exec (.updateCoeffs q0) (descS 0x41 (updDesc 0x14) ctxX readyDev) = .next t :=
  ⟨_, (h _ q0 _ _ _ _ _ _ _ _ _ _ State.reset.dev State.reset.dev ctxX problemX _ [] _ rfl
    (runs_desc (code := 0x41) (b := updDesc 0x14) (x := ctxX) (d := readyDev) (by decide +kernel)) ⟨by decide +kernel, rfl⟩
    rfl (ok_of (by decide +kernel)) (by decide +kernel) (fun u hu => nomatch hu)
    (Eq.mpr (if_pos ⟨by decide +kernel, rfl⟩) rfl) (fun hs => absurd hs (by decide +kernel)) (.inl (by decide +kernel))
    (ok_of (by decide +kernel)) _ rfl).1 (by decide +kernel) rfl⟩

theorem test_update_run (h : Obligations.CoefficientsAreUpdated) :
    ∃ t, exec (.updateCoeffs q0) (descS 0x41 (updDesc 0x14) ctxR readyDev) = .next t :=
  ⟨_, (h _ q0 _ _ _ _ _ _ _ _ _ _ State.reset.dev State.reset.dev ctxR problemX _ _ _ rfl
    (runs_desc (code := 0x41) (b := updDesc 0x14) (x := ctxR) (d := readyDev) (by decide +kernel)) ⟨by decide +kernel, rfl⟩
    rfl (ok_of (by decide +kernel)) (by decide +kernel) (fun u hu => nomatch hu)
    (Eq.mpr (if_neg (fun hc => nomatch hc.2)) (ok_of (by decide +kernel))) (fun hs => absurd hs (by decide +kernel)) (.inl (by decide +kernel))
    (ok_of (by decide +kernel)) _ rfl).2.1 (fun hc => nomatch hc)⟩

theorem test_update (h : Obligations.CoefficientsAreUpdated) :
    ∃ t, exec (.updateCoeffs q0) (descS 0x41 (updDesc 4) ctxX readyDev) = .next t :=
  ⟨_, (h _ q0 _ _ _ _ _ _ _ _ _ _ _ _ ctxX problemX _ [{ a := 0, b := 1, v := 4 }] _ rfl
    (runs_desc (code := 0x41) (b := updDesc 4) (x := ctxX) (d := readyDev) (by decide +kernel)) ⟨by decide +kernel, rfl⟩
    rfl (ok_of (by decide +kernel)) (by decide +kernel) (fun u hu => nomatch hu)
    (Eq.mpr (if_neg (by decide +kernel)) (ok_at (by decide +kernel))) (fun hs => absurd hs (by decide +kernel))
    (.inl (by decide +kernel)) (ok_of (by decide +kernel)) _ rfl).2.2 _ _ (by decide +kernel) rfl (ok_at (by decide +kernel))
    (by decide +kernel) (Prod.eta _).symm (.inl ⟨by decide +kernel, rfl⟩)⟩

/-- READ_STATE of the block. -/
def stateDesc : Bytes := desc 64 [(0, 2, 3), (2, 2, 1), (6, 2, 1), (8, 8, 1), (0x10, 8, fa + 64), (0x18, 8, 4096)]
theorem test_read_state (h : Obligations.StatesAndTracesAreRead) :
    ∃ t, exec (.readState q0) (descS 0x45 stateDesc ctxX readyDev) = .next t :=
  ⟨_, (h.1 _ q0 _ _ _ _ _ _ _ _ ctxX problemX
    (runs_desc (code := 0x45) (b := stateDesc) (x := ctxX) (d := readyDev) (by decide +kernel)) ⟨by decide +kernel, rfl⟩
    rfl (ok_of (by decide +kernel)) (by decide +kernel)).1 _ rfl rfl (by decide +kernel) (dest_of (by decide +kernel))
    (ok_unit (by decide +kernel))⟩
theorem test_read_state_run (h : Obligations.StatesAndTracesAreRead) :
    ∃ t, exec (.readState q0) (descS 0x45 stateDesc ctxR readyDev) = .next t :=
  ⟨_, (h.1 _ q0 _ _ _ _ _ _ _ State.reset.dev ctxR problemX
    (runs_desc (code := 0x45) (b := stateDesc) (x := ctxR) (d := readyDev) (by decide +kernel)) ⟨by decide +kernel, rfl⟩
    rfl (ok_of (by decide +kernel)) (by decide +kernel)).2 (fun hc => nomatch hc)⟩

/-- Two trace entries are present of the three asked for. -/
def traceX : Ctx := { traceRings := [(fa, 64, 2)] }
def traceE : Entry := entry 0 (record 0x46 [fa])
def traceS : State := opState traceX traceE [] readyDev
theorem test_read_trace (h : Obligations.StatesAndTracesAreRead) :
    ∃ t, exec (.readTrace q0 (BitVec.ofNat 64 fa) 64 0 3 (BitVec.ofNat 64 (fa + 4096))) traceS = .next t :=
  ⟨_, h.2 traceS q0 _ _ _ _ _ _ _ (BitVec.ofNat 64 fa) 64 0 3 (BitVec.ofNat 64 (fa + 4096)) _ _ _ _ traceX _
    (runs (e := traceE) (o := 64) (r := record 0x46 [fa]) (by decide +kernel)) ⟨by decide +kernel, rfl⟩ (by decide +kernel)
    (by decide +kernel) (by decide +kernel) (by decide +kernel) (by decide +kernel) rfl rfl rfl (dest_of (by decide +kernel))
    (ok_of (by decide +kernel)) (ok_unit (by decide +kernel)) rfl⟩
/- Runs start. -/

/-- An ANNEAL or STAND descriptor: schedule 0, seed 1, epochs of one sweep. -/
def runDesc : Bytes := desc 128 [(0, 2, 3), (8, 8, 1), (0x10, 2, 1)]
def ctxS : Ctx := { ctxX with schedules := [(0, [entryX false])] }
theorem test_anneal (h : Obligations.RunsStart) : ∃ t, exec (.anneal q0) (descS 0x43 runDesc ctxS readyDev) = .next t := by
  have k := fun e o sd r x b d d0 d1 d2 drawn env plan he =>
    (h (descS 0x43 runDesc ctxS readyDev) q0 e o sd r x b d d0 d1 d2 drawn env plan he).1 false
  simp only [Bool.false_eq_true, if_false] at k
  exact ⟨_, k _ _ _ _ _ _ _ _ _ _ _ _ _ rfl
    (runs_desc (code := 0x43) (b := runDesc) (x := ctxS) (d := readyDev) (by decide +kernel)) (ok_of (by decide +kernel))
    (ok_of (by decide +kernel)) (ok_at (a := (1, false)) (by decide +kernel))⟩
theorem test_stand (h : Obligations.RunsStart) : ∃ t, exec (.stand q0) (descS 0x44 runDesc ctxS readyDev) = .next t := by
  have k := fun e o sd r x b d d0 d1 d2 drawn env plan he =>
    (h (descS 0x44 runDesc ctxS readyDev) q0 e o sd r x b d d0 d1 d2 drawn env plan he).1 true
  simp only [if_true] at k
  exact ⟨_, k _ _ _ _ _ _ _ _ _ _ _ _ _ rfl
    (runs_desc (code := 0x44) (b := runDesc) (x := ctxS) (d := readyDev) (by decide +kernel)) (ok_of (by decide +kernel))
    (ok_of (by decide +kernel)) (ok_at (a := (1, false)) (by decide +kernel))⟩

/-- FLIGHT_RUN of flight 3, with the run descriptor behind it. -/
def flightDesc (kind : Nat) : Bytes :=
  desc 64 [(0, 2, 3), (2, 2, 3 + 4 * kind), (8, 8, if kind = 0 then 0 else fa + 64)] ++ runDesc
def stepX (kind : Nat) : FStep := { kind := kind, ranges := [(0, 0, 1)], body := [], bindings := [], source := none, tag := 0 }
def flightX (l : List FStep) : Flight := { problemId := 9, pages := 1, steps := l, streams := [] }
def ctxF (l : List FStep) : Ctx := { ctxS with flights := [(3, flightX l)] }
theorem test_flight_run (h : Obligations.RunsStart) :
    ∃ t, exec (.flightRun q0) (descS 0x81 (flightDesc 0) (ctxF []) readyDev) = .next t :=
  ⟨_, ((h _ q0 _ _ 0 _ _ _ _ _ _ State.reset.dev false _ { entries := [], ladders := [], image := none, decision := none } rfl).2
    (ctxF []) (flightX []) 3 _
    (runs_desc (code := 0x81) (b := flightDesc 0) (x := ctxF []) (d := readyDev) (by decide +kernel)) (ok_of (by decide +kernel))
    ⟨by decide +kernel, rfl⟩ (by decide +kernel) (by decide +kernel) (by decide +kernel) rfl (by decide +kernel)
    (still_of (by decide +kernel)) (.inl (by decide +kernel)) rfl).1 (by decide +kernel) (ok_unit (by decide +kernel))⟩
theorem test_flight_anneal (h : Obligations.RunsStart) :
    ∃ t, exec (.flightRun q0) (descS 0x81 (flightDesc 1) (ctxF [stepX fkAnneal]) readyDev) = .next t :=
  ⟨_, ((h _ q0 _ _ _ _ _ _ _ _ _ _ _ _ _ rfl).2 (ctxF [stepX fkAnneal]) (flightX [stepX fkAnneal]) 3 _
    (runs_desc (code := 0x81) (b := flightDesc 1) (x := ctxF [stepX fkAnneal]) (d := readyDev) (by decide +kernel))
    (ok_of (by decide +kernel))
    ⟨by decide +kernel, rfl⟩ (by decide +kernel) (by decide +kernel) (by decide +kernel) rfl (by decide +kernel)
    (still_of (by decide +kernel)) (.inl (by decide +kernel)) rfl).2 _ _ _ (by decide +kernel) (ok_of (by decide +kernel))
    (ok_of (by decide +kernel)) (ok_of2 (by decide +kernel)) (ok_unit (by decide +kernel))⟩
/- Phases, rounds, sweeps. -/

theorem some_of {α β : Type} {o : Option (α × β)} (h : o.isSome = true) : o = some ((o.get h).1, (o.get h).2) := by
  cases o with
  | none => cases h
  | some p => rfl

/-- A context in a run. -/
def runC (g : Run) (p : Problem) : Ctx := { placedX with problem := some p, run := some g }
def runS (g : Run) (p : Problem) : State := { State.reset with dev := setCtx 0 (runC g p) readyDev }
def sweepX (phase : Nat) (l : List (Nat × Nat)) : Run := { runX with inSweep := true, phase := phase, started := l }

/-- A dense block of two spins. -/
def denseX (pos : Nat) : PBlock :=
  { dense := true, bits := 8, hall := 0, tread := 0, treads := 32, n := 2, first := 0, tag := 0, rows := [[0, 3], [3, 0]],
    shifts := [[0]], biases := [5, -2], colours := [], spinTiers := [], tier := 0, reps := [{ repX with pos := pos }] }
def denseP (pos : Nat) (g : List (List Nat)) : Problem := { problemX with blocks := [denseX pos], edges := [], groups := g, phases := 1 }

theorem test_first_phase (h : Obligations.PhasesAndRoundsDecide) :
    ∃ t, exec (.phaseStart 0 0 0) (runS runX problemX) = .next t :=
  ⟨_, ((h (runS runX problemX) 0 runX problemX (by decide +kernel)).1 0 0 (by decide +kernel) (by decide +kernel)).1 (by decide +kernel)
    (by decide +kernel)⟩
theorem test_gallery (h : Obligations.PhasesAndRoundsDecide) :
    ∃ t, exec (.phaseStart 0 0 0) (runS (sweepX 1 []) problemX) = .next t :=
  ⟨_, ((h (runS (sweepX 1 []) problemX) 0 (sweepX 1 []) problemX (by decide +kernel)).1 0 0 (by decide +kernel) (by decide +kernel)).2.1 (by decide +kernel)
    (by decide +kernel)⟩
theorem test_next_phase (h : Obligations.PhasesAndRoundsDecide) :
    ∃ t, exec (.phaseStart 0 0 0) (runS (sweepX 0 [(0, 0)]) problemX) = .next t :=
  ⟨_, ((h (runS (sweepX 0 [(0, 0)]) problemX) 0 (sweepX 0 [(0, 0)]) problemX (by decide +kernel)).1 0 0 (by decide +kernel) (by decide +kernel)).2.2
    (by decide +kernel) (by decide +kernel)⟩
theorem test_scan_group (h : Obligations.PhasesAndRoundsDecide) :
    ∃ t, exec (.scanRound 0 0 0) (runS (sweepX 0 [(0, 0)]) (denseP 0 [[0, 1]])) = .next t :=
  ⟨_, ((h (runS (sweepX 0 [(0, 0)]) (denseP 0 [[0, 1]])) 0 (sweepX 0 [(0, 0)]) (denseP 0 [[0, 1]]) (by decide +kernel)).2 0 0
    (denseX 0) rfl rfl (by decide +kernel) (by decide +kernel) (by decide +kernel) (by decide +kernel)).1 (by decide +kernel) |>.1 0 [0, 1] (by decide +kernel)
    (by decide +kernel)⟩
theorem test_scan_window (h : Obligations.PhasesAndRoundsDecide) :
    ∃ t, exec (.scanRound 0 0 0) (runS (sweepX 0 [(0, 0)]) (denseP 1 [])) = .next t :=
  ⟨_, ((h (runS (sweepX 0 [(0, 0)]) (denseP 1 [])) 0 (sweepX 0 [(0, 0)]) (denseP 1 []) (by decide +kernel)).2 0 0
    (denseX 1) rfl rfl (by decide +kernel) (by decide +kernel) (by decide +kernel) (by decide +kernel)).1 (by decide +kernel) |>.2.1 (by decide +kernel)
    (by decide +kernel) (by decide +kernel)⟩
theorem test_scan_over (h : Obligations.PhasesAndRoundsDecide) :
    ∃ t, exec (.scanRound 0 0 0) (runS (sweepX 0 [(0, 0)]) (denseP 2 [])) = .next t :=
  ⟨_, ((h (runS (sweepX 0 [(0, 0)]) (denseP 2 [])) 0 (sweepX 0 [(0, 0)]) (denseP 2 []) (by decide +kernel)).2 0 0
    (denseX 2) rfl rfl (by decide +kernel) (by decide +kernel) (by decide +kernel) (by decide +kernel)).1 (by decide +kernel) |>.2.2 (by decide +kernel)
    (by decide +kernel)⟩
/-- A tournament at temperature 0: with a spin that may flip, and with none. -/
def tourX (tfix : Nat) : Run := { sweepX 0 [(0, 0)] with entries := [{ entryX true with tfix := tfix }] }
theorem test_tournament (h : Obligations.PhasesAndRoundsDecide) :
    ∃ t, exec (.tournamentRound 0 0 0) (runS (tourX 256) (denseP 0 [])) = .next t :=
  ⟨_, ((h (runS (tourX 256) (denseP 0 [])) 0 (tourX 256) (denseP 0 []) (by decide +kernel)).2 0 0
    (denseX 0) rfl rfl (by decide +kernel) (by decide +kernel) (by decide +kernel) (by decide +kernel)).2 _ _ (by decide +kernel)
    (by decide +kernel) (by decide +kernel) rfl rfl |>.1 _ _ (some_of (by decide +kernel))⟩
def upP : Problem := { denseP 0 [] with blocks := [{ denseX 0 with reps := [{ repX with spins := [true, true] }] }] }
theorem test_tournament_none (h : Obligations.PhasesAndRoundsDecide) :
    ∃ t, exec (.tournamentRound 0 0 0) (runS (tourX 0) upP) = .next t :=
  ⟨_, ((h (runS (tourX 0) upP) 0 (tourX 0) upP (by decide +kernel)).2 0 0
    { denseX 0 with reps := [{ repX with spins := [true, true] }] } rfl rfl (by decide +kernel) (by decide +kernel) (by decide +kernel) (by decide +kernel)).2 _ _ (by decide +kernel)
    (by decide +kernel) (by decide +kernel) rfl rfl |>.2 (by decide +kernel)⟩
def clusterY : FStream :=
  { kind := skCluster, producer := 0, consumer := 0, depth := 1, prime := 0, slotBytes := 64, home := 1, hall := 0, tread := 0,
    offset := 0, map := [], mode := 0, format := 0, lag := 0, block := 0, countMax := 1, stamp := false, tapEvery := 0,
    elem := 0, ranges := [], arrived := 1 }
def clusterRun : Run := { sweepX 1 [(0, 0)] with flight := some 3, entries := [{ entryX false with clusters := 1 }] }
def clusterC : Ctx := { runC clusterRun problemX with flights := [(3, { flightX [] with streams := [clusterY] })] }
def clusterS : State := { State.reset with dev := setCtx 0 clusterC readyDev }
theorem test_cluster (h : Obligations.SweepsGoOn) : ∃ t, exec (.clusterDecision 0 0) clusterS = .next t :=
  ⟨_, h.1 clusterS 0 0 clusterRun problemX sparseX 3 clusterY _ _ (by decide +kernel) rfl (by decide +kernel)
    (by decide +kernel) (by decide +kernel) (by decide +kernel) (by decide +kernel) (by decide +kernel) (by decide +kernel)
    (ok_of (by decide +kernel))⟩

def flipX : Flip := { block := 0, rep := 0, spin := 0, value := true, move := 0, phase := 0, halls := [0] }
def flipS : State := runS { sweepX 0 [(0, 0)] with flips := [flipX] } problemX
theorem test_grant (h : Obligations.SweepsGoOn) : ∃ t, exec (.flipSlotGrant 0) flipS = .next t :=
  ⟨_, h.2.1 flipS 0 _ _ _ _ _ rfl (by decide +kernel) (by decide +kernel) rfl rfl rfl rfl⟩

def epochX (n : Nat) : Run := { sweepX 1 [(0, 0)] with desc := { descX with epochSweeps := n } }
theorem test_sweep_end (h : Obligations.SweepsGoOn) : ∃ t, exec (.sweepEnd 0) (runS (epochX 3) problemX) = .next t :=
  ⟨_, (h.2.2.1 (runS (epochX 3) problemX) 0 (epochX 3) (epochX 3) _ _ problemX problemX _ _ _ _ (by decide +kernel)
    (by decide +kernel) rfl (by decide +kernel) (by decide +kernel) rfl (Prod.eta _).symm rfl rfl
    (some_get (by decide +kernel))).1 (by decide +kernel) (by decide +kernel)⟩
theorem test_epoch_end (h : Obligations.SweepsGoOn) : ∃ t, exec (.sweepEnd 0) (runS (epochX 1) problemX) = .next t :=
  ⟨_, (h.2.2.1 (runS (epochX 1) problemX) 0 (epochX 1) (epochX 1) _ _ problemX problemX _ _ _ _ (by decide +kernel)
    (by decide +kernel) rfl (by decide +kernel) (by decide +kernel) rfl (Prod.eta _).symm rfl rfl
    (some_get (by decide +kernel))).2.1 (by decide +kernel) (.inl (by decide +kernel))⟩
def stoppedX : Run := { epochX 3 with stop := some (.status stAborted 0) }
theorem test_stopped_end (h : Obligations.SweepsGoOn) : ∃ t, exec (.sweepEnd 0) (runS stoppedX problemX) = .next t :=
  ⟨_, (h.2.2.1 (runS stoppedX problemX) 0 stoppedX stoppedX _ _ problemX problemX _ _ _ _ (by decide +kernel)
    (by decide +kernel) rfl (by decide +kernel) (by decide +kernel) rfl (Prod.eta _).symm rfl rfl
    (some_get (by decide +kernel))).2.2 (by decide +kernel)⟩

def stagedX : Run := { runX with staging := [{ addr := fa, data := leBytes 32 5, entry := true }] }
theorem test_staging (h : Obligations.SweepsGoOn) : ∃ t, exec (.traceStagingDrain 0) (runS stagedX problemX) = .next t :=
  ⟨_, h.2.2.2.1 (runS stagedX problemX) 0 (runC stagedX problemX) stagedX _ _ _ (by decide +kernel) rfl rfl rfl
    (ok_unit (by decide +kernel))⟩

/-- A decision kept for space, whose ring of 16 slots has room. -/
def heldK : Decision :=
  { channel := 63, record := desc 64 [(0, 8, fa), (8, 4, 16), (0xC, 4, 128), (0x10, 8, fa + 4096), (0x38, 2, 1)], ranges := [(0, 1)],
    held := some (leBytes 128 1) }
def heldS : State := { State.reset with dev := { readyDev with heldOut := [(0, heldK)] } }
theorem test_ring_space (h : Obligations.SweepsGoOn) : ∃ t, exec (.decisionRingSpace 63) heldS = .next t :=
  ⟨_, h.2.2.2.2.1 heldS 63 0 heldK _ _ rfl rfl (ok_of (by decide +kernel)) (by decide +kernel) (by decide +kernel)
    (by decide +kernel)⟩
/- Tiles. -/

/-- MATMUL of 1 × 1 × 1 in INT8, staged, its output record at `fa + 192`. -/
def mmDesc (batch flags : Nat) : Bytes :=
  desc 192 [(0, 2, 3), (2, 2, flags), (4, 1, 0xBB), (0xA, 2, 1), (0xC, 4, 1), (0x10, 4, 1), (0x14, 4, 1), (0x18, 8, fa + 0x400),
    (0x20, 8, fa + 0x410), (0x28, 4, 16), (0x2C, 4, 16), (0x50, 8, if bit flags 1 then fa + 192 else 0), (0x80, 4, batch)] ++
  desc 64 [(0, 2, 3), (2, 1, 0xD), (8, 8, fa + 0x500), (0x10, 4, 8)]
/-- A tile on tread 0 of hall 0. -/
def tileX (st : TileState) (fmt : TileFmt) : Tile :=
  { hall := 0, tread := 0, granule := 0, h := 16, w := 16, pos := 0, fmt := fmt, state := st, vals := List.replicate 256 7,
    kt := 1, weight := 1, group := 0, endReq := none, user := none, order := 0 }
def tileC (l : List Tile) : Ctx := { placedX with tiles := l }

theorem test_matmul (h : Obligations.TilesAreSummedAndDrained) :
    ∃ t, exec (.matmul q0) (descS 0x60 (mmDesc 0 3) placedX readyDev) = .next t := by
  have k := fun e o r x b out d d0 d1 d2 d3 c env m u plan its he hu =>
    h.1 (descS 0x60 (mmDesc 0 3) placedX readyDev) q0 e o r x b out d d0 d1 d2 d3 c env m u plan its false he hu
  simp only [Bool.false_eq_true, if_false] at k
  exact ⟨_, k _ _ _ _ _ _ _ _ _ _ _ _ _ _ _ _ _ rfl rfl
    (runs_desc (code := 0x60) (b := mmDesc 0 3) (x := placedX) (d := readyDev) (by decide +kernel)) (ok_of (by decide +kernel))
    (ok_of3 (by decide +kernel)) rfl (.inl (by decide +kernel)) (treads_of (by decide +kernel)) (by decide +kernel)
    (ok_of (by decide +kernel)) (ok_unit (by decide +kernel))⟩

/-- Without BEGIN, into an OPEN tile; without END. -/
theorem test_batched (h : Obligations.TilesAreSummedAndDrained) :
    ∃ t, exec (.batchedMatmul q0) (descS 0x61 (mmDesc 1 0) (tileC [tileX .opened .int32]) readyDev) = .next t := by
  have k := fun e o r x b out d d0 d1 d2 d3 c env m u plan its he hu =>
    h.1 (descS 0x61 (mmDesc 1 0) (tileC [tileX .opened .int32]) readyDev) q0 e o r x b out d d0 d1 d2 d3 c env m u plan its
      true he hu
  simp only [if_true] at k
  exact ⟨_, k _ _ _ _ _ _ _ _ _ _ _ _ _ _ _ _ _ rfl rfl
    (runs_desc (code := 0x61) (b := mmDesc 1 0) (x := tileC [tileX .opened .int32]) (d := readyDev) (by decide +kernel))
    (ok_of (by decide +kernel)) (ok_of3 (by decide +kernel)) rfl (.inr (by decide +kernel)) (treads_of (by decide +kernel))
    (by decide +kernel) (ok_of (by decide +kernel)) (ok_unit (by decide +kernel))⟩

/-- DRAIN of the tile, and DRAIN with DISCARD. -/
def drDesc (flags : Nat) : Bytes :=
  desc 64 [(0, 2, 3), (2, 2, flags), (8, 2, 1), (0xC, 4, 1), (0x10, 4, 1), (0x14, 4, 1), (0x18, 8, if flags = 1 then 0 else fa + 64)] ++
  desc 64 [(0, 2, 3), (2, 1, 0xD), (8, 8, fa + 0x500), (0x10, 4, 8)]
theorem test_drain_tile (h : Obligations.TilesAreSummedAndDrained) :
    ∃ t, exec (.drain q0) (descS 0x67 (drDesc 0) (tileC [tileX .opened .int32]) readyDev) = .next t :=
  ⟨_, h.2 _ q0 _ _ _ _ _ _ _ _ _ _ _ _ _ _ _ rfl rfl
    (runs_desc (code := 0x67) (b := drDesc 0) (x := tileC [tileX .opened .int32]) (d := readyDev) (by decide +kernel))
    (ok_of (by decide +kernel)) rfl (ok_of2 (by decide +kernel)) rfl (by decide +kernel) (treads_of (by decide +kernel))
    (by decide +kernel) rfl⟩
theorem test_drain_discard (h : Obligations.TilesAreSummedAndDrained) :
    ∃ t, exec (.drain q0) (descS 0x67 (drDesc 1) (tileC [tileX .opened .int32]) readyDev) = .next t :=
  ⟨_, h.2 _ q0 _ _ _ _ _ _ _ _ _ _ _ _ _ _ _ rfl rfl
    (runs_desc (code := 0x67) (b := drDesc 1) (x := tileC [tileX .opened .int32]) (d := readyDev) (by decide +kernel))
    (ok_of (by decide +kernel)) rfl (ok_of2 (by decide +kernel)) rfl (by decide +kernel) (treads_of (by decide +kernel))
    (by decide +kernel) rfl⟩

/-- Context 1023 holds tread 0 of hall 0. -/
def treadS (x : Ctx) (l : List (Nat × Nat)) : State :=
  { State.reset with dev := setCtx 1023 x (setCtx 0 (tileC [tileX .landed .w40]) { readyDev with treadCtx := l }) }
def outX : TileOut :=
  { record := desc 64 [(0, 2, 3), (2, 1, 0xD), (8, 8, fa + 0x500), (0x10, 4, 8)], offset := 0, row := 0, col := 0, m := 1, n := 1 }
def endX (st : TileState) : Tile := { tileX st .int32 with endReq := some outX, user := some (.op q0 0) }
theorem test_end_request (h : Obligations.TilesSwapDrainAndSwitch) :
    ∃ t, exec (.endRequest 1023 0 0 0) (treadS (tileC [endX .opened]) [(0, 1023)]) = .next t :=
  ⟨_, (h.1 (treadS (tileC [endX .opened]) [(0, 1023)]) 1023 0 0 0 (tileC [endX .opened]) (endX .opened) (by decide +kernel)
    (by decide +kernel)).1 (by decide +kernel) rfl⟩
theorem test_swap (h : Obligations.TilesSwapDrainAndSwitch) :
    ∃ t, exec (.tileSwap 1023 0 0 0) (treadS (tileC [endX .swapPending]) [(0, 1023)]) = .next t :=
  ⟨_, (h.1 (treadS (tileC [endX .swapPending]) [(0, 1023)]) 1023 0 0 0 (tileC [endX .swapPending]) (endX .swapPending) (by decide +kernel)
    (by decide +kernel)).2 (by decide +kernel) (by decide +kernel)⟩
theorem test_drain_end (h : Obligations.TilesSwapDrainAndSwitch) :
    ∃ t, exec (.tileDrainEnd 1023 0 0) (treadS (tileC [endX .draining]) [(0, 1023)]) = .next t :=
  ⟨_, h.2.1 (treadS (tileC [endX .draining]) [(0, 1023)]) 1023 0 0 (tileC [endX .draining]) (endX .draining) outX (.op q0 0)
    _ _ _ (by decide +kernel) (by decide +kernel) (by decide +kernel) rfl rfl rfl (ok_unit (by decide +kernel)) rfl⟩
theorem test_switch_free (h : Obligations.TilesSwapDrainAndSwitch) :
    ∃ t, exec (.contextSwitch 0 0 1023) (treadS (tileC []) []) = .next t :=
  ⟨_, (h.2.2 (treadS (tileC []) []) 0 0 1023 (tileC []) _ (by decide +kernel) (by decide +kernel) (by decide +kernel) rfl).1
    (by decide +kernel)⟩
def savedC : Ctx := { tileC [tileX .landed .w40] with saveBytes := 66560 }
theorem test_switch (h : Obligations.TilesSwapDrainAndSwitch) :
    ∃ t, exec (.contextSwitch 0 0 0) (treadS savedC [(0, 1023)]) = .next t :=
  ⟨_, ((h.2.2 (treadS savedC [(0, 1023)]) 0 0 0 (tileC [tileX .landed .w40]) _ (by decide +kernel) (by decide +kernel)
    (by decide +kernel) rfl).2 1023 savedC (by decide +kernel) (by decide +kernel)).2 (by decide +kernel) |>.2
    ⟨tileX .landed .w40, by decide +kernel, rfl, rfl⟩ (by decide +kernel)⟩
theorem test_switch_empty (h : Obligations.TilesSwapDrainAndSwitch) :
    ∃ t, exec (.contextSwitch 0 0 0) (treadS (tileC []) [(0, 1023)]) = .next t :=
  ⟨_, ((h.2.2 (treadS (tileC []) [(0, 1023)]) 0 0 0 (tileC [tileX .landed .w40]) _ (by decide +kernel) (by decide +kernel)
    (by decide +kernel) rfl).2 1023 (tileC []) (by decide +kernel) (by decide +kernel)).2 (by decide +kernel) |>.1
    (by decide +kernel)⟩
theorem test_switch_waits (h : Obligations.TilesSwapDrainAndSwitch) :
    ∃ t, exec (.contextSwitch 0 0 0) (treadS (tileC [endX .draining]) [(0, 1023)]) = .next t :=
  ⟨_, ((h.2.2 (treadS (tileC [endX .draining]) [(0, 1023)]) 0 0 0 (tileC [tileX .landed .w40]) _ (by decide +kernel)
    (by decide +kernel) (by decide +kernel) rfl).2 1023 (tileC [endX .draining]) (by decide +kernel) (by decide +kernel)).1
    (by decide +kernel)⟩
/- Vector ops, on INT32 numbers at `fa + 0x400`, staged. -/

def reDesc : Bytes :=
  desc 64 [(0, 2, 3), (4, 1, 0xDD), (8, 2, 1), (0xC, 4, 2), (0x10, 4, 1), (0x14, 4, 8), (0x18, 8, fa + 0x400), (0x20, 8, fa + 0x500)]
theorem test_reduce (h : Obligations.VectorOpsWriteTheirResults) :
    ∃ t, exec (.reduce q0) (descS 0x63 reDesc placedX readyDev) = .next t :=
  ⟨_, (h _ q0 _ _ _ _ _ _ _ _ _ _ _ _ _ rfl (ok_of (by decide +kernel))).1 _ _
    (runs_desc (code := 0x63) (b := reDesc) (x := placedX) (d := readyDev) (by decide +kernel)) (ok_unit (by decide +kernel))
    rfl (treads_of (by decide +kernel)) (ok_of (by decide +kernel)) (ok_unit (by decide +kernel)) rfl
    (ok_unit (by decide +kernel))⟩
/-- a + b. -/
def elDesc : Bytes :=
  desc 64 [(0, 2, 3), (2, 2, 1), (4, 1, 0xDD), (5, 1, 0xD), (0xA, 2, 1), (0xC, 4, 1), (0x10, 8, fa + 0x400), (0x18, 8, fa + 0x408),
    (0x20, 8, fa + 0x500)]
theorem test_elementwise (h : Obligations.VectorOpsWriteTheirResults) :
    ∃ t, exec (.elementwise q0) (descS 0x62 elDesc placedX readyDev) = .next t :=
  ⟨_, (h _ q0 _ _ _ _ _ _ _ _ _ _ _ _ _ rfl (ok_of (by decide +kernel))).2.1 _ _ _ _
    (runs_desc (code := 0x62) (b := elDesc) (x := placedX) (d := readyDev) (by decide +kernel)) (ok_unit (by decide +kernel))
    rfl (treads_of (by decide +kernel)) (ok_of (by decide +kernel)) (ok_of (by decide +kernel))
    (ok_unit (by decide +kernel)) rfl (ok_unit (by decide +kernel))⟩
def cvDesc : Bytes :=
  desc 64 [(0, 2, 3), (2, 1, 0xBD), (8, 2, 1), (0xC, 4, 1), (0x18, 8, fa + 0x400), (0x20, 8, fa + 0x500)]
theorem test_convert (h : Obligations.VectorOpsWriteTheirResults) :
    ∃ t, exec (.convert q0) (descS 0x66 cvDesc placedX readyDev) = .next t :=
  ⟨_, (h _ q0 _ _ _ _ _ _ _ _ _ _ _ _ _ rfl (ok_of (by decide +kernel))).2.2.1 _ _
    (runs_desc (code := 0x66) (b := cvDesc) (x := placedX) (d := readyDev) (by decide +kernel)) (ok_unit (by decide +kernel))
    rfl (treads_of (by decide +kernel)) (ok_at (a := ([0, 0, 0, 0], none)) (by decide +kernel))
    (ok_unit (by decide +kernel)) rfl (ok_unit (by decide +kernel))⟩
/-- Index 1 of a table of one row is out of range. -/
def mvDesc : Bytes :=
  desc 64 [(0, 2, 3), (8, 2, 1), (0xC, 4, 1), (0x10, 4, 8), (0x14, 4, 1), (0x18, 8, fa + 0x400), (0x20, 8, fa + 0x500), (0x28, 8, fa + 64)] ++
  leBytes 4 1
theorem test_gather (h : Obligations.VectorOpsWriteTheirResults) :
    ∃ t, exec (.gather q0) (descS 0x64 mvDesc placedX readyDev) = .next t := by
  have k := fun e o r x b d d0 d1 d2 d3 d4 env treads he hd op ib idx bad d5 =>
    (h (descS 0x64 mvDesc placedX readyDev) q0 e o r x b d d0 d1 d2 d3 d4 env treads he hd).2.2.2 false op ib idx bad d5
  simp only [Bool.false_eq_true, if_false] at k
  exact ⟨_, k _ _ _ _ _ _ _ _ _ _ _ _ _ rfl (ok_of (by decide +kernel)) _ _ _ _ _ rfl
    (runs_desc (code := 0x64) (b := mvDesc) (x := placedX) (d := readyDev) (by decide +kernel)) (ok_unit (by decide +kernel))
    rfl (treads_of (by decide +kernel)) (ok_of (by decide +kernel)) rfl (ok_unit (by decide +kernel))
    (ok_unit (by decide +kernel)) (ok_unit (by decide +kernel)) rfl⟩
theorem test_scatter (h : Obligations.VectorOpsWriteTheirResults) :
    ∃ t, exec (.scatter q0) (descS 0x65 mvDesc placedX readyDev) = .next t := by
  have k := fun e o r x b d d0 d1 d2 d3 d4 env treads he hd op ib idx bad d5 =>
    (h (descS 0x65 mvDesc placedX readyDev) q0 e o r x b d d0 d1 d2 d3 d4 env treads he hd).2.2.2 true op ib idx bad d5
  simp only [if_true] at k
  exact ⟨_, k _ _ _ _ _ _ _ _ _ _ _ _ _ rfl (ok_of (by decide +kernel)) _ _ _ _ _ rfl
    (runs_desc (code := 0x65) (b := mvDesc) (x := placedX) (d := readyDev) (by decide +kernel)) (ok_unit (by decide +kernel))
    rfl (treads_of (by decide +kernel)) (ok_of (by decide +kernel)) rfl (ok_unit (by decide +kernel))
    (ok_unit (by decide +kernel)) (ok_unit (by decide +kernel)) rfl⟩

/- Flights. -/

/-- A flight of one ANNEAL step over gallery 0 of hall 0, for problem 9. -/
def buildDesc : Bytes :=
  desc 64 [(0, 2, 3), (2, 2, 3), (4, 1, 1), (8, 4, 9), (0x10, 8, fa + 64)] ++
  desc 64 [(0, 1, 2), (1, 1, 1), (8, 8, fa + 128)] ++ [0, 0, 1, 0]
theorem problem_of {x : Ctx} {i : Nat} {l : List FStep} {m : List FStream} {d : Dev}
    (h : isOk (checkProblem x i l m d) = true) : checkProblem x i l m d = .ok () d := by
  have h := ok_unit h
  generalize okDev (checkProblem x i l m d) _ = e at h
  rw [h]
  unfold checkProblem at h
  cases hf : l.findIdx? (fun s => s.kind == fkAnneal) with
  | none => rw [hf] at h; cases h; rfl
  | some k =>
    rw [hf] at h
    obtain ⟨⟨⟩, e1, h1, h2⟩ := Laws.bind_inv h
    have he : e1 = d := fmt_stays _ _ h1
    subst he
    cases hg : m.findIdx? (fun s => s.kind == skDelta && !mapFits x s.map) with
    | some k => simp only [hg] at h2; cases h2
    | none => simp only [hg] at h2; cases h2; rfl
theorem test_flight_build (h : Obligations.FlightsAreBuiltAndTorn) :
    ∃ t, exec (.flightBuild q0) (descS 0x80 buildDesc ctxX readyDev) = .next t :=
  ⟨_, h.1 _ q0 _ _ _ _ _ _ _ _ _ _ _ _ _ _ _ _ ctxX _ _ _ _ rfl
    (runs_desc (code := 0x80) (b := buildDesc) (x := ctxX) (d := readyDev) (by decide +kernel)) (ok_of (by decide +kernel))
    ⟨by decide +kernel, rfl⟩ (by decide +kernel) (ok_of (by decide +kernel)) (ok_of (by decide +kernel))
    (ok_of (by decide +kernel)) (ok_at (a := []) (by decide +kernel)) (by decide +kernel) (ok_of (by decide +kernel))
    (problem_of (by decide +kernel)) (by decide +kernel) (exclusive_of (by decide +kernel)) (ok_unit (by decide +kernel)) rfl
    (by decide +kernel)⟩
theorem test_flight_tear (h : Obligations.FlightsAreBuiltAndTorn) :
    ∃ t, exec (.flightTear q0) (descS 0x82 (desc 64 [(0, 2, 3), (2, 2, 3)]) (ctxF []) readyDev) = .next t :=
  ⟨_, h.2 _ q0 _ _ _ _ _ _ _ (ctxF []) (flightX [])
    (runs_desc (code := 0x82) (b := desc 64 [(0, 2, 3), (2, 2, 3)]) (x := ctxF []) (d := readyDev) (by decide +kernel))
    (ok_of (by decide +kernel)) ⟨by decide +kernel, rfl⟩ (by decide +kernel) (by decide +kernel) rfl⟩

/- Steps and streams of a flight run. -/

def flightRunX : FlightRun := { q := .kernel 1, idx := 0, kind := 0, frameLimit := 0, counters := 0 }
def streamX (kind prod cons : Nat) : FStream :=
  { kind := kind, producer := prod, consumer := cons, depth := 4, prime := 0, slotBytes := 256, home := 2, hall := 0, tread := 0,
    offset := fa + 0x1000, map := [], mode := 0, format := 0, lag := 0, block := 0, countMax := 0, stamp := false, tapEvery := 1,
    elem := 0, ranges := [], flying := 1, arrived := 2, credits := 1, returning := 1 }
/-- Context 1023 runs flight 3 of two steps with a stream from step 1 to step 0 and a stream from step 0 to step 1. -/
def ctxRun (k : Nat) (z : FStep) : Ctx :=
  { ctxX with flights := [(3, { flightX [z, stepX fkAnneal] with streams := [streamX 0 1 0, streamX k 0 1], run := some flightRunX })] }
def runS16 (k : Nat) (z : FStep) : State :=
  { State.reset with
    dev := setCtx 1023 (ctxRun k z)
      (setQueue (.kernel 1) { config := 0x404, state := .active, sqTail := 1, cur := some (entry 1023 (record 0x81 [])) } readyDev) }

theorem test_compute_firing (h : Obligations.StepsFireAndEnd) :
    ∃ t, exec (.computeFiring 1023 3 0) (runS16 0 (stepX fkCompute)) = .next t :=
  ⟨_, (h (runS16 0 (stepX fkCompute)) 1023 3 0 (ctxRun 0 (stepX fkCompute)) _ flightRunX (stepX fkCompute) (by decide +kernel) rfl rfl
    rfl (by decide +kernel)).1 rfl (by decide +kernel) rfl (by decide +kernel) (by decide +kernel) (by decide +kernel)⟩

/-- A body of a FILL and, behind it, a MATMUL that asks for its drain. -/
def bodyX : List BodyEntry :=
  [{ loop := false, overlap := false, opcode := 0x21, back := 0, count := 0, desc := record 0x21 [fa + 0x800, 5, 8], out := [] },
   { loop := false, overlap := true, opcode := 0x60, back := 0, count := 0, desc := (mmDesc 0 3).take 192,
     out := (mmDesc 0 3).drop 192 }]
def bodyStep (n : Nat) (l : List BodyOp) : FStep :=
  { stepX fkCompute with body := bodyX, firing := some { next := n, loops := [], ops := l, issued := l.length } }
theorem test_body_issue (h : Obligations.StepsFireAndEnd) :
    ∃ t, exec (.bodyOpIssue 1023 3 0) (runS16 0 (bodyStep 0 [])) = .next t :=
  ⟨_, ((h (runS16 0 (bodyStep 0 [])) 1023 3 0 (ctxRun 0 (bodyStep 0 [])) _ flightRunX (bodyStep 0 []) (by decide +kernel) rfl rfl
    rfl (by decide +kernel)).2.1 _ 0 [] _ _ _ _ rfl (by decide +kernel) rfl (by decide +kernel) rfl rfl).1 { detail := 8 } 1
    (ok_at (by decide +kernel))⟩
theorem test_body_running (h : Obligations.StepsFireAndEnd) :
    ∃ t, exec (.bodyOpIssue 1023 3 0) (runS16 0 (bodyStep 1 [])) = .next t :=
  ⟨_, ((h (runS16 0 (bodyStep 1 [])) 1023 3 0 (ctxRun 0 (bodyStep 1 [])) _ flightRunX (bodyStep 1 []) (by decide +kernel) rfl rfl
    rfl (by decide +kernel)).2.1 _ 1 [] _ _ _ _ rfl (by decide +kernel) rfl (by decide +kernel) rfl rfl).2 .tiles 1
    (ok_at (by decide +kernel))⟩
theorem test_firing_end (h : Obligations.StepsFireAndEnd) :
    ∃ t, exec (.firingEnd 1023 3 0) (runS16 skDelta (bodyStep 2 [⟨0, 1, some (0, 0)⟩])) = .next t :=
  ⟨_, (h (runS16 skDelta (bodyStep 2 [⟨0, 1, some (0, 0)⟩])) 1023 3 0 (ctxRun skDelta (bodyStep 2 [⟨0, 1, some (0, 0)⟩])) _ flightRunX
    (bodyStep 2 [⟨0, 1, some (0, 0)⟩]) (by decide +kernel) rfl rfl rfl (by decide +kernel)).2.2 _ _ rfl (by decide +kernel) (by decide +kernel)
    (ok_unit (by decide +kernel))⟩

theorem test_slot_notice (h : Obligations.StreamsCarryRecords) :
    ∃ t, exec (.streamSlotNotice 1023 3 1) (runS16 0 (stepX fkCompute)) = .next t :=
  ⟨_, ((h (runS16 0 (stepX fkCompute)) 1023 3 (ctxRun 0 (stepX fkCompute)) _ flightRunX (by decide +kernel) rfl rfl).1 1 (streamX 0 0 1)
    rfl).1 (by decide +kernel) (by decide +kernel)⟩
theorem test_stream_credit (h : Obligations.StreamsCarryRecords) :
    ∃ t, exec (.streamCredit 1023 3 1) (runS16 0 (stepX fkCompute)) = .next t :=
  ⟨_, ((h (runS16 0 (stepX fkCompute)) 1023 3 (ctxRun 0 (stepX fkCompute)) _ flightRunX (by decide +kernel) rfl rfl).1 1 (streamX 0 0 1)
    rfl).2.1 (by decide +kernel)⟩
theorem test_delta_arrive (h : Obligations.StreamsCarryRecords) :
    ∃ t, exec (.deltaRecordArrive 1023 3 1) (runS16 2 (stepX fkCompute)) = .next t :=
  ⟨_, ((h (runS16 2 (stepX fkCompute)) 1023 3 (ctxRun 2 (stepX fkCompute)) _ flightRunX (by decide +kernel) rfl rfl).1 1 (streamX 2 0 1)
    rfl).2.2 _ _ rfl (by decide +kernel) (by decide +kernel) (ok_of (by decide +kernel))⟩
def frameX : FrameBuild := { epoch := 0, explicit := false, kept := [], records := 0, invalid := 0, overflow := 0 }
def ingestStep (chain : Bool) : FStep :=
  { stepX fkIngest with
    source := some { chain := chain, tag := 5, slots := 16, ring := fa + 0x4000, slotBytes := 64, tail := fa + 0x5000,
                     head := fa + 0x5040 }
    frame := some frameX, inbox := [List.replicate 64 0], consumed := 3, tailSeen := 3 }
theorem test_ingest_record (h : Obligations.StreamsCarryRecords) :
    ∃ t, exec (.ingestRecord 1023 3 0) (runS16 1 (ingestStep true)) = .next t :=
  ⟨_, (((h (runS16 1 (ingestStep true)) 1023 3 (ctxRun 1 (ingestStep true)) _ flightRunX (by decide +kernel) rfl rfl).2 0
    (ingestStep true) _ rfl rfl).1 (streamX 1 0 1) 1 frameX _ _ _ (ctxRun 1 { ingestStep true with inbox := [] }) _
    { ingestStep true with inbox := [] } (by decide +kernel) rfl (by decide +kernel) (by decide +kernel)
    (ok_of (by decide +kernel)) rfl (fun hn => nomatch hn) rfl).1 (by decide +kernel) (by decide +kernel) rfl rfl rfl⟩
/-- A record that ends its frame. -/
def closingStep : FStep := { ingestStep true with inbox := [desc 64 [(0, 8, 2 ^ 49)]] }
theorem test_ingest_end (h : Obligations.StreamsCarryRecords) :
    ∃ t, exec (.ingestRecord 1023 3 0) (runS16 1 closingStep) = .next t :=
  ⟨_, (((h (runS16 1 closingStep) 1023 3 (ctxRun 1 closingStep) _ flightRunX (by decide +kernel) rfl rfl).2 0
    closingStep _ rfl rfl).1 (streamX 1 0 1) 1 frameX _ _ _ _ _ _ (by decide +kernel) rfl (by decide +kernel)
    (by decide +kernel) (ok_of (by decide +kernel)) rfl (fun hn => nomatch hn) rfl).2 _ _ (by decide +kernel)
    (ok_unit (by decide +kernel)) (Eq.mpr (if_pos rfl) (ok_unit (by decide +kernel))) (some_get (by decide +kernel))
    (some_get (by decide +kernel)) (some_get (by decide +kernel))⟩
theorem test_tail_poll (h : Obligations.StreamsCarryRecords) :
    ∃ t, exec (.tailPoll 1023 3 0) (runS16 1 (ingestStep false)) = .next t :=
  ⟨_, ((h (runS16 1 (ingestStep false)) 1023 3 (ctxRun 1 (ingestStep false)) _ flightRunX (by decide +kernel) rfl rfl).2 0
    (ingestStep false) _ rfl rfl).2 _ _ rfl rfl (by decide +kernel) (.inl (by decide +kernel)) (ok_of (by decide +kernel))⟩

/- Boundary exchange. -/

/-- Part 1 of 3, with part 0 its parent and part 2047 its child, both boundary peers. -/
def peerX (part : Nat) : Peer :=
  { part := part, chain := part, boundary := true, parent := part == 0, child := part != 0, importFirst := 0, importCount := 1,
    exportFirst := 0, exportCount := 1 }
def boundX (r : BRun) : Boundary :=
  { part := 1, parts := 2048, stale := 0, checkEvery := 1, peers := [peerX 0, peerX 2047], imports := 1, exports := [0],
    workAddr := fa, workBytes := 4096, ring := fa, ringEntries := 64, countAddr := 0, bestAddr := 0, bestBytes := 0,
    endAddr := 0, run := r }
def ctxB (g : Run) (r : BRun) : Ctx := { ctxX with boundary := some (boundX r), run := some g }
def devB (x : Ctx) : Dev := setCtx 1023 x { readyDev with chain := { readyDev.chain with id := some 2047 } }
def boundS (x : Ctx) : State := { State.reset with dev := devB x }

def sentX : BRun := { sent := [{ part := 2047, epoch := 4, bits := [true] }] }
theorem test_frame (h : Obligations.BoundaryMessagesAreTaken) :
    ∃ t, exec (.frame 1023 2047 4 [true]) (boundS (ctxB runX {})) = .next t :=
  ⟨_, ((h.1.1 (boundS (ctxB runX {})) 1023 2047 4 runX (boundX {}) (peerX 2047) (by decide +kernel) (by decide +kernel)).1 rfl rfl (by decide +kernel)).1 _⟩
theorem test_newel (h : Obligations.BoundaryMessagesAreTaken) :
    ∃ t, exec (.newel 1023 2047 4 1 0) (boundS (ctxB runX {})) = .next t :=
  ⟨_, ((h.1.1 (boundS (ctxB runX {})) 1023 2047 4 runX (boundX {}) (peerX 2047) (by decide +kernel) (by decide +kernel)).1 rfl rfl (by decide +kernel)).2 _ _⟩
theorem test_resend (h : Obligations.BoundaryMessagesAreTaken) :
    ∃ t, exec (.resend 1023 2047 4) (boundS (ctxB runX sentX)) = .next t :=
  ⟨_, (h.1.1 (boundS (ctxB runX sentX)) 1023 2047 4 runX (boundX sentX) (peerX 2047) (by decide +kernel) (by decide +kernel)).2
    { part := 2047, epoch := 4, bits := [true] } (by decide +kernel)⟩
/-- A slot whose frame and newel have arrived. -/
def slotX (crc n : Nat) : FrameSlot := { part := 2047, epoch := 4, bits := some [true], newel := some (1, crc), resends := n }
def slotR (crc n : Nat) : BRun := { frames := [slotX crc n] }
theorem test_slot_agrees (h : Obligations.BoundaryMessagesAreTaken) :
    judgeSlot 1023 2047 4 (devB (ctxB runX (slotR (crc32c [1]) 0))) = devB (ctxB runX (slotR (crc32c [1]) 0)) :=
  (h.1.2 (devB (ctxB runX (slotR (crc32c [1]) 0))) 1023 2047 4 runX (boundX (slotR (crc32c [1]) 0)) (peerX 2047)
    (slotX (crc32c [1]) 0) [true] 1 (crc32c [1]) (by decide +kernel) (by decide +kernel) (by decide +kernel) rfl rfl).1 rfl
    (by decide +kernel)
theorem test_slot_again (h : Obligations.BoundaryMessagesAreTaken) :
    ∃ d, judgeSlot 1023 2047 4 (devB (ctxB runX (slotR 0 2))) = d :=
  ⟨_, (h.1.2 (devB (ctxB runX (slotR 0 2))) 1023 2047 4 runX (boundX (slotR 0 2)) (peerX 2047)
    (slotX 0 2) [true] 1 0 (by decide +kernel) (by decide +kernel) (by decide +kernel) rfl rfl).2.1 (.inr (by decide +kernel))
    (by decide +kernel)⟩
theorem test_slot_lost (h : Obligations.BoundaryMessagesAreTaken) :
    ∃ d, judgeSlot 1023 2047 4 (devB (ctxB runX (slotR 0 3))) = d :=
  ⟨_, (h.1.2 (devB (ctxB runX (slotR 0 3))) 1023 2047 4 runX (boundX (slotR 0 3)) (peerX 2047)
    (slotX 0 3) [true] 1 0 (by decide +kernel) (by decide +kernel) (by decide +kernel) rfl rfl).2.2 (.inr (by decide +kernel))
    (by decide +kernel)⟩
def helloX : HelloMsg :=
  { part := 2047, partCount := 2048, staleness := 0, checkEvery := 1, epochSweeps := 1, stand := false, total := 2, loopEntry := 0,
    entryCount := 1, seed := 1, quantum := 0, boundary := true, parent := true, child := false, importCount := 1, exportCount := 1 }
theorem test_hello (h : Obligations.BoundaryMessagesAreTaken) : ∃ t, exec (.hello 1023 helloX) (boundS ctxX) = .next t :=
  ⟨_, (h.2 (boundS ctxX) 1023).1 helloX rfl (by decide +kernel)⟩
theorem test_ingest (h : Obligations.BoundaryMessagesAreTaken) : ∃ t, exec (.ingest 5 15 []) (boundS ctxX) = .next t :=
  ⟨_, (h.2 (boundS ctxX) 1023).2.1 5 15 [] rfl⟩
theorem test_hello_run (h : Obligations.BoundaryMessagesAreTaken) :
    ∃ t, exec (.hello 1023 helloX) (boundS (ctxB { runX with begun := false } {})) = .next t :=
  ⟨_, ((h.2 (boundS (ctxB { runX with begun := false } {})) 1023).2.2 { runX with begun := false } (boundX {})
    (by decide +kernel)).1 helloX⟩
theorem test_check_up (h : Obligations.BoundaryMessagesAreTaken) :
    ∃ t, exec (.checkUp 1023 2047 4 1 2 3) (boundS (ctxB runX {})) = .next t :=
  ⟨_, ((h.2 (boundS (ctxB runX {})) 1023).2.2 runX (boundX {}) (by decide +kernel)).2.1 2047 4 1 2 3 (peerX 2047)
    (by decide +kernel) rfl⟩
def pointX : CheckPoint := { epoch := 4, energy := 0, boundary := some 0, spins := [], edges := [], temps := [], sentUp := true }
def verdictX : VerdictMsg :=
  { epoch := 4, energy := 0, best := 0, bestEpoch := 0, newBest := false, asymmetry := false, targetMet := false, final := false }
theorem test_verdict (h : Obligations.BoundaryMessagesAreTaken) :
    ∃ t, exec (.verdict 1023 verdictX) (boundS (ctxB runX { point := some pointX })) = .next t :=
  ⟨_, ((h.2 (boundS (ctxB runX { point := some pointX })) 1023).2.2 runX (boundX { point := some pointX }) (by decide +kernel)).2.2.1
    verdictX pointX rfl rfl (by decide +kernel)⟩
theorem test_end_notice (h : Obligations.BoundaryMessagesAreTaken) :
    ∃ t, exec (.endNotice 1023 2047 .stopFence) (boundS (ctxB runX {})) = .next t :=
  ⟨_, ((h.2 (boundS (ctxB runX {})) 1023).2.2 runX (boundX {}) (by decide +kernel)).2.2.2 2047 .stopFence rfl rfl rfl⟩

/- Links and the mirrored pair. -/

/-- Link 15 in a given condition, on a device whose chain identifier is 7. -/
def chainS (l : Link) : State :=
  { State.reset with dev := setLink 15 l { readyDev with chain := { readyDev.chain with id := some 7 } } }
def trainX (k failures : Nat) : Link := { state := .training, candidate := k, failures := failures }
theorem test_link_trained (h : Obligations.LinksTrainFailAndRetry) : ∃ t, exec (.linkTrained ⟨15, 2⟩) (chainS (trainX 8 2)) = .next t :=
  ⟨_, (h.1 (chainS (trainX 8 2)) 15 (trainX 8 2) (by decide +kernel) rfl 8 2 2 (by decide +kernel)).1 2⟩
theorem test_candidate_next (h : Obligations.LinksTrainFailAndRetry) :
    ∃ t, exec (.linkCandidateTimeout 15) (chainS (trainX 7 0)) = .next t :=
  ⟨_, (h.1 (chainS (trainX 7 0)) 15 (trainX 7 0) (by decide +kernel) rfl 7 2 1 (by decide +kernel)).2.1 (by decide +kernel)⟩
theorem test_candidate_again (h : Obligations.LinksTrainFailAndRetry) :
    ∃ t, exec (.linkCandidateTimeout 15) (chainS (trainX 8 1)) = .next t :=
  ⟨_, (h.1 (chainS (trainX 8 1)) 15 (trainX 8 1) (by decide +kernel) rfl 8 2 2 (by decide +kernel)).2.2.1 (by decide +kernel)
    (by decide +kernel)⟩
theorem test_candidate_lost (h : Obligations.LinksTrainFailAndRetry) :
    ∃ t, exec (.linkCandidateTimeout 15) (chainS (trainX 8 2)) = .next t :=
  ⟨_, (h.1 (chainS (trainX 8 2)) 15 (trainX 8 2) (by decide +kernel) rfl 8 2 2 (by decide +kernel)).2.2.2.1 (by decide +kernel)
    rfl⟩
theorem test_candidate_still_lost (h : Obligations.LinksTrainFailAndRetry) :
    ∃ t, exec (.linkCandidateTimeout 15) (chainS (trainX 8 3)) = .next t :=
  ⟨_, (h.1 (chainS (trainX 8 3)) 15 (trainX 8 3) (by decide +kernel) rfl 8 2 2 (by decide +kernel)).2.2.2.2 (by decide +kernel)
    (by decide +kernel)⟩

/-- A header of 240 bytes that is a whole message, SEQ `q`. -/
def headerX (hops : Fin 64) (dest : Fin 2048) (q : Fin 4096) : FlitHeader :=
  { vc := 1, type := 4, first := true, last := true, dest := dest, src := 3, hops := hops, length := 240, seq := q, reserved := false }
def upX : Link := { state := .up, unacked := [{ head := headerX 0 9 4095 }] }
theorem test_link_silent (h : Obligations.LinksTrainFailAndRetry) : ∃ t, exec (.linkSilent 15) (chainS upX) = .next t :=
  ⟨_, (h.2 (chainS upX) 15 upX (by decide +kernel)).1 rfl rfl⟩
def upMirror : Link := { upX with mirror := true }
theorem test_mirror_link_silent (h : Obligations.LinksTrainFailAndRetry) : ∃ t, exec (.linkSilent 15) (chainS upMirror) = .next t :=
  ⟨_, (h.2 (chainS upMirror) 15 upMirror (by decide +kernel)).2.1 _ rfl rfl rfl rfl⟩
theorem test_link_retry (h : Obligations.LinksTrainFailAndRetry) :
    ∃ t, exec (.linkRetryTimer 15) (chainS { state := .lost }) = .next t :=
  ⟨_, (h.2 (chainS { state := .lost }) 15 { state := .lost } (by decide +kernel)).2.2 rfl⟩

theorem test_flit_ack (h : Obligations.FlitsAreAcknowledgedAndForwarded) :
    ∃ t, exec (.flitAck 15 (headerX 0 9 0) ⟨4095, [0, 1, 0, 0], 2⟩) (chainS upX) = .next t :=
  ⟨_, (h (chainS upX) 15 upX (by decide +kernel) rfl).1 (headerX 0 9 0) ⟨4095, [0, 1, 0, 0], 2⟩ _ rfl⟩
theorem test_nak (h : Obligations.FlitsAreAcknowledgedAndForwarded) : ∃ t, exec (.nak 15 4094) (chainS upX) = .next t :=
  ⟨_, (h (chainS upX) 15 upX (by decide +kernel) rfl).2.1 4094 _ rfl⟩
theorem test_crc_fail (h : Obligations.FlitsAreAcknowledgedAndForwarded) : ∃ t, exec (.flitCrcFail 15 true) (chainS upX) = .next t :=
  ⟨_, (h (chainS upX) 15 upX (by decide +kernel) rfl).2.2.1 true⟩
def longHeader (t : Fin 16) : FlitHeader := { headerX 0 9 0 with length := 241, type := t }
theorem test_format_drop (h : Obligations.FlitsAreAcknowledgedAndForwarded) :
    ∃ t, exec (.flitFormatDrop 15 (longHeader 4)) (chainS upX) = .next t :=
  ⟨_, ((h (chainS upX) 15 upX (by decide +kernel) rfl).2.2.2.1 (longHeader 4) _ rfl).1 (by decide +kernel) |>.2
    (by decide +kernel) (by decide +kernel)⟩
theorem test_format_drop_idle (h : Obligations.FlitsAreAcknowledgedAndForwarded) :
    ∃ t, exec (.flitFormatDrop 15 (longHeader 0)) (chainS upX) = .next t :=
  ⟨_, ((h (chainS upX) 15 upX (by decide +kernel) rfl).2.2.2.1 (longHeader 0) _ rfl).1 (by decide +kernel) |>.1
    (by decide +kernel)⟩
theorem test_out_of_order (h : Obligations.FlitsAreAcknowledgedAndForwarded) :
    ∃ t, exec (.flitForward 15 (headerX 0 9 1)) (chainS upX) = .next t :=
  ⟨_, ((h (chainS upX) 15 upX (by decide +kernel) rfl).2.2.2.1 (headerX 0 9 1) _ rfl).2.1 (by decide +kernel)
    (by decide +kernel) (by decide +kernel)⟩
theorem test_hop_drop (h : Obligations.FlitsAreAcknowledgedAndForwarded) :
    ∃ t, exec (.flitForward 15 (headerX 63 2047 0)) (chainS upX) = .next t :=
  ⟨_, (((h (chainS upX) 15 upX (by decide +kernel) rfl).2.2.2.1 (headerX 63 2047 0) _ rfl).2.2 (by decide +kernel)
    (by decide +kernel) (by decide +kernel) (by decide +kernel) (by decide +kernel) (by decide +kernel)).1 _ rfl
    (by decide +kernel)⟩
theorem test_no_route (h : Obligations.FlitsAreAcknowledgedAndForwarded) :
    ∃ t, exec (.flitForward 15 (headerX 62 2047 0)) (chainS upX) = .next t :=
  ⟨_, (((h (chainS upX) 15 upX (by decide +kernel) rfl).2.2.2.1 (headerX 62 2047 0) _ rfl).2.2 (by decide +kernel)
    (by decide +kernel) (by decide +kernel) (by decide +kernel) (by decide +kernel) (by decide +kernel)).2.1
    (by decide +kernel) (by decide +kernel)⟩
/-- All routes lead to link 15. -/
def routedS : State :=
  { chainS upX with dev := { (chainS upX).dev with chain := { (chainS upX).dev.chain with routes := List.replicate 2048 0x8F } } }
theorem test_forward (h : Obligations.FlitsAreAcknowledgedAndForwarded) :
    ∃ t, exec (.flitForward 15 (headerX 62 2047 0)) routedS = .next t :=
  ⟨_, (((h routedS 15 upX (by decide +kernel) rfl).2.2.2.1 (headerX 62 2047 0) _ rfl).2.2 (by decide +kernel)
    (by decide +kernel) (by decide +kernel) (by decide +kernel) (by decide +kernel) (by decide +kernel)).2.2 15
    (by decide +kernel) (by decide +kernel)⟩
theorem test_link_mgmt (h : Obligations.FlitsAreAcknowledgedAndForwarded) :
    ∃ t, exec (.linkMgmt 15 (.info true 2047 2 2 true 0)) (chainS upX) = .next t :=
  ⟨_, (h (chainS upX) 15 upX (by decide +kernel) rfl).2.2.2.2.1 true true 2047 2 2 0⟩

/-- A paired device of a role, with context 1023 attached. -/
def mirrorX (role : Nat) (m : MirrorCtx) : State :=
  { State.reset with
    dev := setCtx 1023 ctxX (setLink 15 { state := .up, mirror := true }
      { readyDev with chain := { readyDev.chain with id := some 7, mirror :=
        { role := role, wired := true, linkA := 15, linkB := 14, partner := 8, vector := 2047, state := .paired, ctxs := [m] } } }) }
def attX : MirrorCtx := { ctx := 1023, checkEvery := 1 }
def mPointX : MirrorPoint :=
  { isEpoch := true, serial := 1, spins := [], bests := [], energies := [], fences := [], queues := [], completions := [] }
theorem test_beat_send (h : Obligations.MirrorTrafficIsTaken) : ∃ t, exec .mirrorBeatSend (mirrorX 1 attX) = .next t := ⟨_, h.1 _⟩
theorem test_beat (h : Obligations.MirrorTrafficIsTaken) : ∃ t, exec (.mirrorBeat 15) (mirrorX 1 attX) = .next t :=
  ⟨_, h.2.1 (mirrorX 1 attX) 15 _ rfl rfl rfl rfl⟩
theorem test_mirror_attach (h : Obligations.MirrorTrafficIsTaken) :
    ∃ t, exec (.mirrorLog 1023 (.attach (some [1]))) (mirrorX 1 attX) = .next t :=
  ⟨_, (h.2.2 (mirrorX 1 attX) 1023 rfl rfl).1 (some [1])⟩
theorem test_mirror_detach (h : Obligations.MirrorTrafficIsTaken) :
    ∃ t, exec (.mirrorLog 1023 .detach) (mirrorX 1 attX) = .next t := ⟨_, (h.2.2 (mirrorX 1 attX) 1023 rfl rfl).2.1⟩
theorem test_mirror_log (h : Obligations.MirrorTrafficIsTaken) :
    ∃ t, exec (.mirrorLog 1023 (.seed 5)) (mirrorX 2 attX) = .next t :=
  ⟨_, ((h.2.2 (mirrorX 2 attX) 1023 rfl rfl).2.2 attX rfl (by decide +kernel) rfl).1 (.seed 5) (fun _ k => nomatch k)
    (fun k => nomatch k)⟩
theorem test_mirror_state (h : Obligations.MirrorTrafficIsTaken) :
    ∃ t, exec (.mirrorState 1023 mPointX) (mirrorX 2 attX) = .next t :=
  ⟨_, ((h.2.2 (mirrorX 2 attX) 1023 rfl rfl).2.2 attX rfl (by decide +kernel) rfl).2.1 mPointX⟩
def atPoint : MirrorCtx := { attX with points := [mPointX], mark := 1 }
theorem test_mirror_point (h : Obligations.MirrorTrafficIsTaken) :
    ∃ t, exec (.mirrorPointReached 1023) (mirrorX 2 atPoint) = .next t :=
  ⟨_, ((h.2.2 (mirrorX 2 atPoint) 1023 rfl rfl).2.2 atPoint rfl (by decide +kernel) rfl).2.2 mPointX [] rfl rfl⟩

theorem test_alive_edge (h : Obligations.SilenceMakesTheMirrorTakeOverOrYield) :
    ∃ t, exec (.aliveInEdge (!State.reset.dev.boot.aliveInLevel)) State.reset = .next t :=
  ⟨_, h.1 State.reset _ (by decide +kernel)⟩
theorem test_secondary_silent (h : Obligations.SilenceMakesTheMirrorTakeOverOrYield) :
    ∃ t, exec .secondaryLinksSilent (mirrorX 2 attX) = .next t := ⟨_, ((h.2.1 (mirrorX 2 attX) rfl).1 rfl).1⟩
def deafS : State :=
  { mirrorX 2 attX with dev := { (mirrorX 2 attX).dev with boot := { readyDev.boot with aliveInEdge := some 5 } } }
theorem test_alive_timeout (h : Obligations.SilenceMakesTheMirrorTakeOverOrYield) : ∃ t, exec .aliveInTimeout deafS = .next t :=
  ⟨_, ((h.2.1 deafS rfl).1 rfl).2 5 rfl⟩
theorem test_primary_silent (h : Obligations.SilenceMakesTheMirrorTakeOverOrYield) :
    ∃ t, exec .primaryLinksSilent (mirrorX 1 attX) = .next t := ⟨_, (h.2.1 (mirrorX 1 attX) rfl).2 rfl⟩

/- The whole machine. -/

def frontS : State := { State.reset with pending := [.linkTrained ⟨3, 0⟩, .entryDispatch] }
theorem test_front (h : Obligations.StepRunsTheFrontCommand) : ∃ r, step frontS = r := ⟨_, h frontS (.linkTrained ⟨3, 0⟩) _ rfl⟩
theorem test_idle (h : Obligations.IdleStepPassesANanosecond) : ∃ t, step State.reset = .next t := ⟨_, h State.reset rfl⟩
theorem test_keeps (h : Obligations.EveryCommandAnswersAndKeepsTheQueue) :
    ∃ t, exec .entryDispatch frontS = .next t ∧ t.otp = frontS.otp := by
  obtain ⟨t, h1, -, h2, -⟩ := h .entryDispatch frontS
  exact ⟨t, h1, h2 rfl⟩
theorem test_otp (h : Obligations.OtpBitsStayAndTheLifeCycleNeverGoesBack) :
    ∃ t, step State.reset = .next t ∧ (t.otp.words.getD 1 0#32).getLsbD 31 = true ∧ t.otp.seedRow.getLsbD 0 = true :=
  ⟨_, rfl, (h.2 State.reset _ rfl).1 1 31 (by decide +kernel), (h.2 State.reset _ rfl).2.1 0 (by decide +kernel)⟩
/-- A programmed device-key generation. -/
def genS : State := { State.reset with otp := { State.reset.otp with gens := [1#512] } }
theorem test_otp_gens (h : Obligations.OtpBitsStayAndTheLifeCycleNeverGoesBack) :
    ∃ t, step genS = .next t ∧ (t.otp.gens.getD 0 0#512).getLsbD 0 = true :=
  ⟨_, rfl, (h.2 genS _ rfl).2.2.1 0 0 (by decide +kernel)⟩
def complX : Compl :=
  { status := 0, flags := 0, entry := 0, tag := 7, progress := 0, start := 0, opIndex := 0, ctx := 0, seed := 0, detail := 0,
    waitKind := 0 }
/-- Kernel queue 0, its completion ring of 16 entries at host address 0x1000. -/
def ringQ : Queue := { cqBase := 2 ^ 63 + 0x1000, config := 0x404, state := .active, phase := true }
def ringD : Dev := setQueue q0 ringQ readyDev
theorem test_ring (h : Obligations.CompletionsFollowTheRing) :
    (queueOf ((List.replicate 17 (false, complX)).foldl (fun d c => postCompl q0 c.1 c.2 d) ringD) q0).cqTail = 1 := by
  have k := (h ringD _ q0 ringQ _ (List.replicate 17 (false, complX)) (by decide +kernel) rfl rfl rfl rfl)
  exact k.1
theorem test_ring_host (h : Obligations.CompletionsFollowTheRing) :
    cellsRead 0x1000 64 (postCompl q0 false complX ringD).host.mem = complBytes q0 true (stamp ringD) complX :=
  (h ringD _ q0 ringQ _ [] (by decide +kernel) rfl rfl rfl rfl).2.2.2.2.2.2 false complX (by decide +kernel) (by decide +kernel) rfl
    (by decide +kernel)
theorem test_ring_other (h : Obligations.CompletionsFollowTheRing) :
    queueOf (postCompl q0 false complX ringD) (.kernel 15) = queueOf ringD (.kernel 15) :=
  (h ringD _ q0 ringQ _ [(false, complX)] (by decide +kernel) rfl rfl rfl rfl).2.2.2.2.2.1 (.kernel 15) (by decide +kernel)
/-- The host's mailbox holds a message. -/
def busyD : Dev := setMbox .host { mbox readyDev .host with busy := true, msg := some { command := 0x10, tag := 7, payload := [1] } } readyDev
theorem test_busy_mailbox (h : Obligations.ABusyMailboxKeepsItsMessage) :
    (mbox (mboxWrite32 .host 0 1 busyD) .host).msg = (mbox busyD .host).msg ∧
      (mbox (mboxWrite32 .host 0 1 busyD) .host).rejected = true ∧
      (mbox (mboxWriteByte .host 0 1 busyD) .host).rejected = true :=
  ⟨(h busyD .host 0 1 1 (by decide +kernel)).1.2.1, (h busyD .host 0 1 1 (by decide +kernel)).1.2.2.2 (by decide +kernel),
    (h busyD .host 0 1 1 (by decide +kernel)).2.2.2.2 (by decide +kernel)⟩
theorem test_address_host (h : Obligations.AddressesKeepTheirForm) :
    checkAddr (2 ^ 63) readyDev = .ok () readyDev ∧ ∃ e, store (2 ^ 64 - 1) [5] readyDev = e :=
  ⟨(h (2 ^ 63) readyDev (by decide)).2.1 (.inl (by decide)), _,
    (h (2 ^ 64 - 1) readyDev (by decide)).2.2.2.2 [5] (by decide) rfl rfl⟩
theorem test_address_device (h : Obligations.AddressesKeepTheirForm) :
    checkAddr (2 ^ 48 - 1) readyDev = .ok () readyDev :=
  (h (2 ^ 48 - 1) readyDev (by decide)).2.1 (.inr (by decide))
theorem test_address_bad (h : Obligations.AddressesKeepTheirForm) :
    checkAddr (2 ^ 48) readyDev = .error (.fail stBadAddress (2 ^ 48)) readyDev ∧
      wr (2 ^ 63 - 1) [5] readyDev = .error (.fail stBadAddress (2 ^ 63 - 1)) readyDev :=
  ⟨(h (2 ^ 48) readyDev (by decide)).2.2.1 (by decide) (by decide),
    ((h (2 ^ 63 - 1) readyDev (by decide)).2.2.2.1 (opEnv q0 (entry 0 []) 0) 8 [5] (by decide) (by decide)).2⟩
theorem test_moves (h : Obligations.MovesAreAcceptedByTheirRule) :
    metropolis 0 256 65535 0 = true ∧ ladderT 4095 4096 = 4095 ∧ exchangeRule 0 1 5 5 0 = true :=
  ⟨(h.1 0 256 65535 0).2.2.2.2 (by decide) (by decide), (h.2.1 4095 4096).2.2.2 (by decide),
    ((h.2.2.1 0 1 0 5 5).2.1 (by decide)).2 (by decide)⟩

end Sys2Proof.Tests
end

section
/-! PROOFS. R11: what an address names, and which addresses keep the rule. -/

namespace Sys2Proof.Proofs

open Sys2Proof Sys2Proof.Machine Sys2Proof.Laws

/- The form of an address, as bounds. -/

/-- The top bit of a `w + 1`-bit number is its upper half. -/
theorem bit_top {a w : Nat} (h : a < 2 ^ (w + 1)) : bit a w = decide (2 ^ w ≤ a) := by
  have hq : a / 2 ^ w < 2 := (Nat.div_lt_iff_lt_mul (Nat.two_pow_pos w)).2 (by rwa [Nat.mul_comm, ← Nat.pow_succ])
  have hle : 1 ≤ a / 2 ^ w ↔ 2 ^ w ≤ a := by rw [Nat.le_div_iff_mul_le (Nat.two_pow_pos w), Nat.one_mul]
  rw [Bool.eq_iff_iff, decide_eq_true_iff, ← hle]
  simp only [bit, bits, Nat.pow_one, Nat.mod_eq_of_lt hq, beq_iff_eq]
  omega

theorem isHost_eq {a : Nat} (h : a < 2 ^ 64) : isHost a = decide (2 ^ 63 ≤ a) := bit_top h

/-- Bits [62:48] of a device address are zero exactly below 2 ^ 48. -/
theorem bits_48_15_eq_zero_iff {a : Nat} (h : a < 2 ^ 63) : bits a 48 15 = 0 ↔ a < 2 ^ 48 := by
  simp only [bits]
  omega

/-- R11 as bounds: the addresses refused are those from 2 ^ 48 up to the host's half. -/
theorem addrForm_iff {a : Nat} (h : a < 2 ^ 64) : addrForm a = true ↔ 2 ^ 63 ≤ a ∨ a < 2 ^ 48 := by
  simp only [addrForm, isHost_eq h, Bool.or_eq_true, decide_eq_true_iff, beq_iff_eq]
  rcases Nat.lt_or_ge a (2 ^ 63) with hd | hh
  · rw [bits_48_15_eq_zero_iff hd]
  · simp only [hh, true_or]

/-- The host bus address of an R11 address: bits [62:0]. -/
theorem low_63_of_host {a : Nat} (h : a < 2 ^ 64) (hh : 2 ^ 63 ≤ a) : low 63 a = a - 2 ^ 63 := by
  simp only [low]
  omega

/- What the accesses do with it. -/

/-- The check fails with the address itself as its detail. -/
theorem checkAddr_bad {a : Nat} (d : Dev) (hl : 2 ^ 48 ≤ a) (hu : a < 2 ^ 63) :
    checkAddr a d = .error (.fail stBadAddress a) d := by
  have h64 : a < 2 ^ 64 := by omega
  have hf : addrForm a = false := by
    rw [← Bool.not_eq_true, addrForm_iff h64]
    omega
  rw [checkAddr_error hf, low, Nat.mod_eq_of_lt h64]

theorem rd_bad {a : Nat} (e : OpEnv) (n : Nat) {d : Dev} {x : Stop} (h : checkAddr a d = .error x d) :
    rd e a n d = .error x d := bind_error h

theorem wr_bad {a : Nat} (bs : Bytes) {d : Dev} {x : Stop} (h : checkAddr a d = .error x d) :
    wr a bs d = .error x d := bind_error h

/-- A step that acts for no context is not suppressed. -/
theorem actorHushed_of_none {d : Dev} (h : d.actor = none) : actorHushed d = false := by
  simp only [actorHushed, h]

/-- R337, R438: an unsuppressed store in host memory sets its cells and counts its bytes. -/
theorem store_host {a : Nat} (bs : Bytes) {d : Dev} (hh : isHost a = true) (hq : d.host.quiesced = false)
    (hs : actorHushed d = false) :
    store a bs d = { d with host := { d.host with mem := cellsSet (low 63 a) bs d.host.mem }
                            tele := { d.tele with txBytes := satAdd 64 d.tele.txBytes bs.length } } := by
  simp [store, hostStore, hh, hq, hs]

/-- Settles O58: each clause is the bound form of R11 carried through the check, the accesses and the store. -/
theorem addressesKeepTheirForm : Obligations.AddressesKeepTheirForm := by
  intro a d h64
  refine ⟨isHost_eq h64, fun hok => checkAddr_ok ((addrForm_iff h64).2 hok), checkAddr_bad d, ?_, ?_⟩
  · intro e n bs hl hu
    have hbad := checkAddr_bad d hl hu
    exact ⟨rd_bad e n hbad, wr_bad bs hbad⟩
  · intro bs hh hq hact
    have hhost : isHost a = true := by rw [isHost_eq h64, decide_eq_true_iff]; exact hh
    rw [store_host bs hhost hq (actorHushed_of_none hact), low_63_of_host h64 hh]
    rfl

end Sys2Proof.Proofs
end

section
/-! PROOFS. R111: the generator's test vectors. -/

namespace Sys2Proof.Proofs

open Sys2Proof Sys2Proof.Machine

/- The generator as three parts: the keyed first state, the six rounds, and the variate of the last state. -/

/-- The six rounds of R110, the key words taking turns. -/
def genRounds (k0 k1 : Nat) (g : Gen) : Gen :=
  genRound k1 5 (genRound k0 4 (genRound k1 3 (genRound k0 2 (genRound k1 1 (genRound k0 0 g)))))

/-- The variate R110 returns from the last state. -/
def genVariate (g : Gen) : Nat := (g.x0 ^^^ g.x1 ^^^ g.x2 ^^^ g.x3) / 65536 % 65536

theorem treadVariate_eq (seed : Nat) (c : Counter) :
    treadVariate seed c = genVariate (genRounds (seedKey0 seed) (seedKey1 seed) (genStart c)) := rfl

/- The value of each part from the values of what goes into it, so that no round is evaluated twice. -/

theorem genRound_of_parts {k k' r : Nat} {g g' z : Gen} (hk : k = k') (hg : g = g') (hz : genRound k' r g' = z) :
    genRound k r g = z := by
  rw [hk, hg, hz]

theorem genRounds_of_parts {k0 k1 k0' k1' : Nat} {g g' z : Gen} (h0 : k0 = k0') (h1 : k1 = k1') (hg : g = g')
    (hz : genRounds k0' k1' g' = z) : genRounds k0 k1 g = z := by
  rw [h0, h1, hg, hz]

theorem treadVariate_of_parts {seed k0 k1 : Nat} {c : Counter} {g z : Gen} (h0 : seedKey0 seed = k0)
    (h1 : seedKey1 seed = k1) (hg : genStart c = g) (hz : genRounds k0 k1 g = z) : treadVariate seed c = genVariate z := by
  rw [treadVariate_eq, genRounds_of_parts h0 h1 hg hz]

/- The keys of seed 1, which both tables use. -/

theorem seedKey0_one : seedKey0 1 = 0xB5A31C46 := by decide

theorem seedKey1_one : seedKey1 1 = 0x4E2D97F8 := by decide

/- Table 4.7: the counter whose fields are all 0, round by round. -/

theorem genStart_zero : genStart { domain := 0 } = ⟨0, 0, 0, 0⟩ := by decide

theorem vector1_round0 :
    genRound 0xB5A31C46 0 ⟨0, 0, 0, 0⟩ = ⟨0x20FD4E0A, 0xF1BB3186, 0xD8425EDF, 0xBBFBA93C⟩ := by decide

theorem vector1_round1 :
    genRound 0x4E2D97F8 1 ⟨0x20FD4E0A, 0xF1BB3186, 0xD8425EDF, 0xBBFBA93C⟩ =
      ⟨0x916DBDFD, 0xC5F5FD8B, 0x6F5F1A2B, 0xD866E02F⟩ := by decide

theorem vector1_round2 :
    genRound 0xB5A31C46 2 ⟨0x916DBDFD, 0xC5F5FD8B, 0x6F5F1A2B, 0xD866E02F⟩ =
      ⟨0xBE26DDFA, 0xC3E31478, 0x80678A14, 0xD9089A89⟩ := by decide

theorem vector1_round3 :
    genRound 0x4E2D97F8 3 ⟨0xBE26DDFA, 0xC3E31478, 0x80678A14, 0xD9089A89⟩ =
      ⟨0x58AA3F97, 0xEB157F08, 0xDF823B9B, 0x4E36A848⟩ := by decide

theorem vector1_round4 :
    genRound 0xB5A31C46 4 ⟨0x58AA3F97, 0xEB157F08, 0xDF823B9B, 0x4E36A848⟩ =
      ⟨0x6241567C, 0x16C5BDB6, 0x33051AFF, 0xE0E12810⟩ := by decide

theorem vector1_round5 :
    genRound 0x4E2D97F8 5 ⟨0x6241567C, 0x16C5BDB6, 0x33051AFF, 0xE0E12810⟩ =
      ⟨0xE72AD647, 0xF2FD2C3F, 0xCD35D537, 0x15F19263⟩ := by decide

theorem vector1_rounds :
    genRounds 0xB5A31C46 0x4E2D97F8 ⟨0, 0, 0, 0⟩ = ⟨0xE72AD647, 0xF2FD2C3F, 0xCD35D537, 0x15F19263⟩ := by
  rw [genRounds, vector1_round0, vector1_round1, vector1_round2, vector1_round3, vector1_round4, vector1_round5]

theorem vector1_variate : treadVariate 1 { domain := 0 } = 52499 :=
  treadVariate_of_parts seedKey0_one seedKey1_one genStart_zero vector1_rounds

/- Table 4.8: a counter whose DRAW crosses the boundary between x2 and x3. -/

/-- The counter of Table 4.8. -/
def vector2Counter : Counter :=
  { domain := 0, part := 0, block := 2, replica := 1, sweep := 5, spin := 3, draw := 9 }

theorem genStart_vector2 : genStart vector2Counter = ⟨0x00000005, 0x00010000, 0x20003002, 0x00000001⟩ := by decide

theorem vector2_rounds :
    genRounds 0xB5A31C46 0x4E2D97F8 ⟨0x00000005, 0x00010000, 0x20003002, 0x00000001⟩ =
      ⟨0xC2FD33BA, 0xB955D1BE, 0x8BA6549F, 0xA89C3FBF⟩ := by decide

theorem vector2_variate : treadVariate 1 vector2Counter = 22674 :=
  treadVariate_of_parts seedKey0_one seedKey1_one genStart_vector2 vector2_rounds

/-- Settles O59: Table 4.7 round by round from the keys of seed 1, then Table 4.8, each variate read from its last
state. -/
theorem theGeneratorGivesItsTestVectors : Obligations.TheGeneratorGivesItsTestVectors := by
  unfold Obligations.TheGeneratorGivesItsTestVectors
  have h0 := genRound_of_parts seedKey0_one genStart_zero vector1_round0
  have h1 := genRound_of_parts seedKey1_one h0 vector1_round1
  have h2 := genRound_of_parts seedKey0_one h1 vector1_round2
  have h3 := genRound_of_parts seedKey1_one h2 vector1_round3
  have h4 := genRound_of_parts seedKey0_one h3 vector1_round4
  have h5 := genRound_of_parts seedKey1_one h4 vector1_round5
  have hy := genRounds_of_parts seedKey0_one seedKey1_one genStart_vector2 vector2_rounds
  exact ⟨seedKey0_one, seedKey1_one, h0, h1, h2, h3, h4, h5, vector1_variate, vector1_variate, genStart_vector2, hy,
    vector2_variate, vector2_variate⟩

end Sys2Proof.Proofs
end

section
/-! PROOFS. R321, R322: the jumps of COND and LOOP, and the checks of their targets. -/

namespace Sys2Proof.Proofs

open Sys2Proof Sys2Proof.Machine Sys2Proof.Laws

/- A record with its indirect operands replaced: its opcode and its INDIRECT bits (R324). -/

theorem leNat_replicate_zero (n : Nat) : leNat (List.replicate n 0) = 0 := by
  induction n with
  | zero => rfl
  | succ n ih => rw [List.replicate_succ, leNat, ih]; rfl

/-- The two bytes at offset 6 are zero; a record too short to hold them ends in zeros. -/
theorem recIndirect_directRec (y : Bytes) : recIndirect (directRec y) = 0 := by
  have hrec : directRec y = y.take 6 ++ (List.replicate 2 0 ++ y.drop 8) := List.append_assoc ..
  rw [recIndirect, u16, fld, hrec]
  rcases Nat.lt_or_ge y.length 6 with hshort | hlong
  · have htake : y.take 6 = y := List.take_of_length_le (by omega)
    have hdrop : y.drop 8 = [] := List.drop_eq_nil_of_le (by omega)
    rw [htake, hdrop, List.append_nil, List.drop_append, List.drop_eq_nil_of_le (by omega), List.nil_append,
      List.drop_replicate, List.take_replicate, leNat_replicate_zero]
  · rw [List.drop_left' (List.length_take_of_le hlong), List.take_left' List.length_replicate, leNat_replicate_zero]

theorem recOpcode_directRec (y : Bytes) : recOpcode (directRec y) = recOpcode y := by
  cases y <;> rfl

theorem recOpcode_withOpnd {r : Bytes} (h : recOpcode r ≠ 0) (w v : Nat) :
    recOpcode (withOpnd r w v) = recOpcode r := by
  cases r with
  | nil => exact absurd rfl h
  | cons b t => simp [recOpcode, u8, fld, withOpnd, Nat.add_comm 8]

/-- The reads of indirect operands keep the opcode. -/
theorem resolve_keeps_opcode {env : OpEnv} {e : Entry} {l : List Nat} {r y : Bytes} {d d' : Dev}
    (hr : recOpcode r ≠ 0) (h : resolve env e r l d = .ok y d') : recOpcode y = recOpcode r := by
  induction l generalizing r d with
  | nil => cases h; rfl
  | cons w ws ih =>
    unfold resolve at h
    split at h
    · obtain ⟨v, d1, -, hrest⟩ := bind_inv h
      have hw := recOpcode_withOpnd hr w v
      rw [← hw]
      exact ih (hw ▸ hr) hrest
    · exact ih hr h

theorem opRuns_indirect {s : State} {q : QRef} {code : Nat} {e : Entry} {o : Nat} {r x : Bytes} {d : Dev}
    (h : OpRuns s q code e o r x d) : recIndirect x = 0 := by
  obtain ⟨y, -, rfl⟩ := h.operands
  exact recIndirect_directRec y

theorem opRuns_opcode {s : State} {q : QRef} {code : Nat} {e : Entry} {o : Nat} {r x : Bytes} {d : Dev}
    (h : OpRuns s q code e o r x d) (hc : code ≠ 0) : recOpcode x = code := by
  obtain ⟨y, hy, rfl⟩ := h.operands
  rw [recOpcode_directRec, resolve_keeps_opcode (h.opcode ▸ hc) hy, h.opcode]

/-- The operands of an op that runs pass the checks of its own opcode. -/
theorem opRuns_checks {s : State} {q : QRef} {code : Nat} {e : Entry} {o : Nat} {r x : Bytes} {d : Dev}
    (h : OpRuns s q code e o r x d) (hc : code ≠ 0) : operandChecks code o e.next e.opCount x = none := by
  have hv := h.values
  rw [Option.or_eq_none_iff, opRuns_opcode h hc] at hv
  exact hv.2

/- The checks of TARGET in Table 13.4. -/

theorem firstBad_eq_none_iff {l : List (Bool × Bad)} : firstBad l = none ↔ ∀ p ∈ l, p.1 = true := by
  simp [firstBad]

theorem bit_zero (w : Nat) : bit 0 w = false := by simp [bit, bits]

theorem cond_target_of_checks {o i n : Nat} {x : Bytes} (hx : recIndirect x = 0)
    (h : operandChecks 0x03 o i n x = none) : i < bits (opnd x 2) 16 16 ∧ bits (opnd x 2) 16 16 ≤ n := by
  simp only [operandChecks, firstBad_eq_none_iff, hx, bit_zero, List.forall_mem_cons] at h
  obtain ⟨-, -, -, htarget, -⟩ := h
  simpa using htarget

theorem loop_target_of_checks {o i n : Nat} {x : Bytes} (hx : recIndirect x = 0)
    (h : operandChecks 0x04 o i n x = none) : bits (opnd x 1) 0 16 < i := by
  simp only [operandChecks, firstBad_eq_none_iff, hx, bit_zero, List.forall_mem_cons] at h
  obtain ⟨-, -, htarget, -⟩ := h
  simpa using htarget

/- COND. -/

theorem bodyCond_ok {env : OpEnv} {x : Bytes} {d d' : Dev} {v : Nat} (h : rd64 env (opnd x 0) d = .ok v d') :
    bodyCond env x d =
      .ok (.jump { detail := v, seed := ofBool (condTest (bits (opnd x 2) 0 3) (bit (opnd x 2) 3) v (opnd x 1)) }
        (if condTest (bits (opnd x 2) 0 3) (bit (opnd x 2) 3) v (opnd x 1) then bits (opnd x 2) 16 16
         else env.idx + 1)) d' := by
  unfold bodyCond
  rw [bind_ok h]
  rfl

/-- The six tests of unsigned numbers; a test on the numbers as integers is the test on the numbers. -/
theorem condTest_unsigned (v c : Nat) :
    (condTest 0 false v c = decide (v = c)) ∧ (condTest 1 false v c = decide (v ≠ c)) ∧
    (condTest 2 false v c = decide (v < c)) ∧ (condTest 3 false v c = decide (v ≤ c)) ∧
    (condTest 4 false v c = decide (c < v)) ∧ (condTest 5 false v c = decide (c ≤ v)) :=
  ⟨decide_eq_decide.2 Int.ofNat_inj, (congrArg not (decide_eq_decide.2 Int.ofNat_inj)).trans decide_not.symm,
    decide_eq_decide.2 Int.ofNat_lt, decide_eq_decide.2 Int.ofNat_le, decide_eq_decide.2 Int.ofNat_lt,
    decide_eq_decide.2 Int.ofNat_le⟩

/-- The six tests of signed numbers. -/
theorem condTest_signed (v c : Nat) :
    (condTest 0 true v c = decide (toInt 64 v = toInt 64 c)) ∧
    (condTest 1 true v c = decide (toInt 64 v ≠ toInt 64 c)) ∧
    (condTest 2 true v c = decide (toInt 64 v < toInt 64 c)) ∧
    (condTest 3 true v c = decide (toInt 64 v ≤ toInt 64 c)) ∧
    (condTest 4 true v c = decide (toInt 64 c < toInt 64 v)) ∧
    (condTest 5 true v c = decide (toInt 64 c ≤ toInt 64 v)) :=
  ⟨rfl, decide_not.symm, rfl, rfl, rfl, rfl⟩

theorem entryOpen_of_next_eq {e : Entry} (h : e.next = e.opCount) : entryOpen e = false := by
  simp [entryOpen, entryDone, h]

theorem exec_cond {s : State} {q : QRef} {e : Entry} {o : Nat} {r x : Bytes} {d d' : Dev} {v : Nat}
    (h : OpRuns s q 0x03 e o r x d) (hrd : rd64 (opEnv q e o) (opnd x 0) d = .ok v d') :
    exec (.cond q) s = .next
      (if condTest (bits (opnd x 2) 0 3) (bit (opnd x 2) 3) v (opnd x 1) then
        opEnds q e o r { detail := v, seed := 1 } 1 (bits (opnd x 2) 16 16) d' s
       else opEnds q e o r { detail := v, seed := 0 } 1 (e.next + 1) d' s) := by
  have hrow : exec (.cond q) s = _ := opRow_jump h (bodyCond_ok hrd)
  rw [hrow]
  cases condTest (bits (opnd x 2) 0 3) (bit (opnd x 2) 3) v (opnd x 1) <;> rfl

/-- Settles O7: the check of TARGET that an op which runs has passed, the row's jump, and the tests case by case. -/
theorem condChoosesTheNextOp : Obligations.CondChoosesTheNextOp := by
  refine ⟨?_, ?_, fun v c => ?_, fun e he => entryOpen_of_next_eq he⟩
  · intro s q e o r x d d' v h hrd
    obtain ⟨hlo, hhi⟩ := cond_target_of_checks (opRuns_indirect h) (opRuns_checks h (by decide))
    exact ⟨hlo, hhi, exec_cond h hrd⟩
  · intro o i n x hx hbad
    exact Option.isSome_iff_ne_none.2 fun hnone => hbad (cond_target_of_checks hx hnone)
  · obtain ⟨h0, h1, h2, h3, h4, h5⟩ := condTest_unsigned v c
    exact ⟨h0, h1, h2, h3, h4, h5, condTest_signed v c⟩

/- LOOP. -/

theorem bodyLoop_zero {env : OpEnv} {x : Bytes} {d d' : Dev} (h : rd64 env (opnd x 0) d = .ok 0 d') :
    bodyLoop env x d = .ok (.jump { detail := 0 } (env.idx + 1)) d' := by
  unfold bodyLoop
  rw [bind_ok h]
  rfl

theorem bodyLoop_counts {env : OpEnv} {x : Bytes} {d d1 d2 : Dev} {v : Nat} (h : rd64 env (opnd x 0) d = .ok v d1)
    (hv : v ≠ 0) (hw : devWrite (opnd x 0) (leBytes 8 (v - 1)) d1 = .ok () d2) :
    bodyLoop env x d =
      .ok (.jump { detail := v - 1 } (if v - 1 = 0 then env.idx + 1 else bits (opnd x 1) 0 16)) d2 := by
  unfold bodyLoop
  rw [bind_ok h, if_neg hv, bind_ok hw]
  rfl

/-- Settles O8: the check of TARGET that an op which runs has passed, and the row's jump for a count of 0 and above. -/
theorem loopCountsDown : Obligations.LoopCountsDown := by
  refine ⟨?_, ?_⟩
  · intro s q e o r x d d1 v h hrd
    refine ⟨loop_target_of_checks (opRuns_indirect h) (opRuns_checks h (by decide)), ?_, ?_⟩
    · rintro rfl
      exact opRow_jump h (bodyLoop_zero hrd)
    · intro d2 hv hw
      have hone : v = 1 ↔ v - 1 = 0 := by omega
      simp only [hone]
      exact opRow_jump h (bodyLoop_counts hrd hv hw)
  · intro o i n x hx hbad
    exact Option.isSome_iff_ne_none.2 fun hnone => hbad (loop_target_of_checks hx hnone)

end Sys2Proof.Proofs
end

section
/-! PROOFS. R348, R367, R380: what every command does to the queue of commands and to OTP, and the life cycle. -/

namespace Sys2Proof.Proofs

open Sys2Proof Sys2Proof.Machine

/- The front of the queue. -/

theorem step_front {s : State} {c : Instr} {rest : List Instr} (h : s.pending = c :: rest) :
    step s = exec c { s with pending := rest } := by
  rw [step, h]

theorem step_idle {s : State} (h : s.pending = []) :
    step s = .next (withDev s { s.dev with clock := s.dev.clock + 1 }) := by
  cases s
  cases h
  rfl

/-- Settles O1: the equation of `step` for a queue that is not empty. -/
theorem stepRunsTheFrontCommand : Obligations.StepRunsTheFrontCommand := fun _ _ _ h => step_front h

/-- Settles O2: the equation of `step` for the empty queue. -/
theorem idleStepPassesANanosecond : Obligations.IdleStepPassesANanosecond := fun _ h => step_idle h

/- OTP only gains bits. -/

/-- Every bit that reads 1 stays 1, and the unique identifier stays. -/
structure OtpGrows (o o' : Otp) : Prop where
  words : ∀ i b : Nat, (o.words.getD i 0#32).getLsbD b = true → (o'.words.getD i 0#32).getLsbD b = true
  seedRow : ∀ b : Nat, o.seedRow.getLsbD b = true → o'.seedRow.getLsbD b = true
  gens : ∀ i b : Nat, (o.gens.getD i 0#512).getLsbD b = true → (o'.gens.getD i 0#512).getLsbD b = true
  uniqueId : o'.uniqueId = o.uniqueId

theorem OtpGrows.refl (o : Otp) : OtpGrows o o := ⟨fun _ _ h => h, fun _ h => h, fun _ _ h => h, rfl⟩

theorem OtpGrows.trans {o o' o'' : Otp} (h : OtpGrows o o') (g : OtpGrows o' o'') : OtpGrows o o'' :=
  ⟨fun i b k => g.words i b (h.words i b k), fun b k => g.seedRow b (h.seedRow b k),
    fun i b k => g.gens i b (h.gens i b k), g.uniqueId.trans h.uniqueId⟩

/-- Bits set in one element of a list of words: every bit that was set stays set. -/
theorem getLsbD_modAt_or {w : Nat} {l : List (BitVec w)} {i b : Nat} (j : Nat) (v : BitVec w)
    (h : (l.getD i 0#w).getLsbD b = true) : ((modAt j (fun x => x ||| v) l).getD i 0#w).getLsbD b = true := by
  rw [List.getD_eq_getElem?_getD] at h ⊢
  rw [modAt, List.getElem?_modify]
  cases hx : l[i]? with
  | none => simp [hx] at h
  | some x =>
    rw [hx] at h
    by_cases hj : j = i
    · simpa [hj] using Or.inl h
    · simpa [hj] using h

theorem programWord_grows (i : Nat) (o : Otp) : OtpGrows o (programWord i o) :=
  ⟨fun _ _ h => getLsbD_modAt_or i _ h, fun _ h => h, fun _ _ h => h, rfl⟩

theorem programSeed_grows (v : BitVec 256) (o : Otp) : OtpGrows o (programSeed v o) :=
  ⟨fun _ _ h => h, fun b h => by simp [programSeed, h], fun _ _ h => h, rfl⟩

theorem programGen_grows {o o' : Otp} {group g : Nat} {data : Bytes} {back : Option Bytes} {good : Bool}
    (h : programGen o group data back = some (o', g, good)) : OtpGrows o o' := by
  unfold programGen at h
  obtain ⟨k, -, hk⟩ := Option.map_eq_some_iff.1 h
  cases hk
  exact ⟨fun _ _ h => h, fun _ h => h, fun _ _ h => getLsbD_modAt_or _ _ h, rfl⟩

theorem programResult_grows (o : Otp) (group : Nat) (data : Bytes) (back : Option Bytes) :
    OtpGrows o (programResult o group data back).1 := by
  unfold programResult
  cases h : programGen o group data back with
  | none => exact .refl o
  | some x => exact programGen_grows h

theorem settingBody_grows (back : Option Bytes) (o : Otp) (env : MailEnv) (p : Bytes) :
    OtpGrows o (settingBody back o env p).1 := by
  unfold settingBody
  split
  · exact .refl o
  · split
    · exact .refl o
    · split
      · exact .refl o
      · split
        · exact .refl o
        · exact programResult_grows ..

theorem raiseFloorBody_grows (back : Option Bytes) (o : Otp) (d : Dev) (p : Bytes) :
    OtpGrows o (raiseFloorBody back o d p).1 := by
  unfold raiseFloorBody
  split
  · exact .refl o
  · split
    · exact .refl o
    · split
      · exact .refl o
      · dsimp only
        split
        · exact .refl o
        · exact programResult_grows ..

theorem advanceTo_grows (t : Nat) (ch : Chan) (o : Otp) (d : Dev) : OtpGrows o (advanceTo t ch o d).1 := by
  unfold advanceTo
  dsimp only
  split
  · exact (programSeed_grows ..).trans (programWord_grows ..)
  · exact programWord_grows ..

/- The life-cycle state follows from which words are entered. -/

theorem wordEntered_mono {v w : BitVec 32} (h : ∀ b, v.getLsbD b = true → w.getLsbD b = true)
    (hv : wordEntered v = true) : wordEntered w = true := by
  have hle : (setBits v).length ≤ (setBits w).length := by
    rw [setBits, setBits, ← List.countP_eq_length_filter, ← List.countP_eq_length_filter]
    exact List.countP_mono_left (fun b _ => h b)
  simp only [wordEntered, decide_eq_true_iff] at hv ⊢
  omega

theorem lifecycleOf_mono {o o' : Otp} (h : OtpGrows o o') : lifecycleOf o ≤ lifecycleOf o' := by
  have hw (i : Nat) : wordEntered (o.words.getD i 0#32) = true → wordEntered (o'.words.getD i 0#32) = true :=
    wordEntered_mono (h.words i)
  have h0 := hw 0
  have h1 := hw 1
  have h2 := hw 2
  simp only [lifecycleOf, lcReturn, lcSealed, lcMaker, lcBlank]
  grind

/-- The words count as entered by their ones. -/
theorem lifecycleOf_of_ones {o : Otp} {ones : Nat → Nat}
    (h : ∀ i : Nat, ones i = ((List.range 32).filter (fun b => (o.words.getD i 0#32).getLsbD b)).length) :
    lifecycleOf o = if 24 ≤ ones 2 then 3 else if 24 ≤ ones 1 then 2 else if 24 ≤ ones 0 then 1 else 0 := by
  have hentered (i : Nat) : wordEntered (o.words.getD i 0#32) = decide (24 ≤ ones i) := by
    rw [h]
    rfl
  simp only [lifecycleOf, hentered, decide_eq_true_eq]
  rfl

/- Commands as effects on the state. -/

/-- From `s` the effect neither sees nor changes the commands that wait, and takes OTP along `R`. -/
def Serves (R : Otp → Otp → Prop) (f : State → State) (s : State) : Prop :=
  (∀ l : List Instr, f { s with pending := l } = { f s with pending := l }) ∧ R s.otp (f s).otp

/-- A command that answers a next state by such an effect. -/
def Answers (R : Otp → Otp → Prop) (g : State → Host.Outcome State Fault Refusal) : Prop :=
  ∀ s : State, ∃ f : State → State, Serves R f s ∧ ∀ l : List Instr, g { s with pending := l } = .next (f { s with pending := l })

theorem Serves.keeps_pending {R : Otp → Otp → Prop} {f : State → State} {s : State} (h : Serves R f s) :
    (f s).pending = s.pending := by
  have hs : f s = { f s with pending := s.pending } := h.1 s.pending
  rw [hs]

theorem Serves.mono {R Q : Otp → Otp → Prop} {f : State → State} {s : State} (h : Serves R f s)
    (hi : ∀ o o', R o o' → Q o o') : Serves Q f s :=
  ⟨h.1, hi _ _ h.2⟩

theorem Answers.mono {R Q : Otp → Otp → Prop} {g : State → Host.Outcome State Fault Refusal} (h : Answers R g)
    (hi : ∀ o o', R o o' → Q o o') : Answers Q g := fun s =>
  let ⟨f, hf, hg⟩ := h s
  ⟨f, hf.mono hi, hg⟩

theorem answers_of_serves {R : Otp → Otp → Prop} {g : State → Host.Outcome State Fault Refusal} (f : State → State)
    (hf : ∀ s, Serves R f s) (hg : ∀ s, g s = .next (f s)) : Answers R g :=
  fun s => ⟨f, hf s, fun _ => hg _⟩

/-- A command that changes the device only, by what OTP and device are. -/
theorem answers_of_device {g : State → Host.Outcome State Fault Refusal} (f : Otp → Dev → Dev)
    (h : ∀ s, g s = .next { s with dev := f s.otp s.dev }) : Answers Eq g :=
  answers_of_serves (fun s => { s with dev := f s.otp s.dev }) (fun _ => ⟨fun _ => rfl, rfl⟩) h

/-- The device that an outcome goes on with. -/
def nextDev (d : Dev) : Host.Outcome State Fault Refusal → Dev
  | .next t => t.dev
  | _ => d

/-- As `answers_of_device`, the effect read off the command itself. -/
theorem answers_of_nextDev {g : State → Host.Outcome State Fault Refusal}
    (h : ∀ s, g s = .next { s with dev := nextDev s.dev (g ⟨[], s.otp, s.dev⟩) }) : Answers Eq g :=
  answers_of_device (fun o d => nextDev d (g ⟨[], o, d⟩)) h

/- The four commands that program OTP. -/

theorem serveOtp_serves (ch : Chan) (c : MailCmd) (mine : Bytes → Bool)
    (body : Otp → Dev → MailEnv → Bytes → Otp × Act (Option Bytes)) (s : State)
    (h : ∀ env p, OtpGrows s.otp (body s.otp s.dev env p).1) :
    Serves OtpGrows (fun s => serveOtp ch c mine (fun o => body o s.dev) s) s := by
  unfold Serves serveOtp
  dsimp only
  cases mailDue s.dev ch c.code with
  | none => exact ⟨fun _ => rfl, .refl _⟩
  | some g =>
    dsimp only
    split
    · cases mailChecks c s.dev ch g.payload with
      | some x => exact ⟨fun _ => rfl, .refl _⟩
      | none => exact ⟨fun _ => rfl, h _ _⟩
    · exact ⟨fun _ => rfl, .refl _⟩

theorem answers_calWriteSetting (ch : Chan) (back : Option Bytes) :
    Answers OtpGrows (exec (.calWriteSetting ch back)) :=
  answers_of_serves _ (fun s => serveOtp_serves ch _ _ (fun o _ => settingBody back o) s fun _ _ => settingBody_grows ..)
    fun _ => rfl

theorem answers_raiseFloor (ch : Chan) (back : Option Bytes) : Answers OtpGrows (exec (.raiseFloor ch back)) :=
  answers_of_serves _
    (fun s => serveOtp_serves ch _ _ (fun o d _ p => raiseFloorBody back o d p) s fun _ _ => raiseFloorBody_grows ..)
    fun _ => rfl

theorem lifecycleServe_serves (ch : Chan) (p : Bytes) (s : State) : Serves OtpGrows (lifecycleServe ch p) s := by
  unfold Serves lifecycleServe
  dsimp only
  cases nonzeroIn p 1 7 with
  | some o => exact ⟨fun _ => rfl, .refl _⟩
  | none =>
    dsimp only
    split
    · split
      · exact ⟨fun _ => rfl, advanceTo_grows _ ch _ s.dev⟩
      · exact ⟨fun _ => rfl, .refl _⟩
    · split
      · split
        · exact ⟨fun _ => rfl, advanceTo_grows _ ch _ s.dev⟩
        · exact ⟨fun _ => rfl, .refl _⟩
      · split
        · split
          · exact ⟨fun _ => rfl, advanceTo_grows _ ch _ s.dev⟩
          · exact ⟨fun _ => rfl, .refl _⟩
        · exact ⟨fun _ => rfl, .refl _⟩

/-- A refused message changes the device only. -/
theorem respondFail_serves (ch : Chan) (st detail : Nat) (s : State) :
    Serves OtpGrows (fun s => { s with dev := respondFail ch st detail s.dev }) s :=
  ⟨fun _ => rfl, .refl _⟩

theorem answers_lifecycleAdvance (ch : Chan) : Answers OtpGrows (exec (.lifecycleAdvance ch)) := by
  intro s
  show ∃ f, _ ∧ ∀ l : List Instr, execLifecycleAdvance ch { s with pending := l } = _
  unfold execLifecycleAdvance
  dsimp only
  cases mailDue s.dev ch 0x41 with
  | none => exact ⟨id, ⟨fun _ => rfl, .refl _⟩, fun _ => rfl⟩
  | some g =>
    dsimp only
    split
    · exact ⟨_, respondFail_serves .., fun _ => rfl⟩
    · split
      · exact ⟨_, lifecycleServe_serves .., fun _ => rfl⟩
      · exact ⟨_, respondFail_serves .., fun _ => rfl⟩

/-- KEYGEN programs a row that is all zeros. -/
theorem keygenRow_grows (o : Otp) (v : BitVec 256) :
    OtpGrows o (if o.seedRow = 0 then { o with seedRow := v } else o) := by
  split
  · next h => exact ⟨fun _ _ h => h, fun b hb => by simp [h] at hb, fun _ _ h => h, rfl⟩
  · exact .refl o

theorem mailArrives_serves (ch : Chan) (b : Bytes) (s : State) : Serves OtpGrows (mailArrives ch b) s := by
  unfold Serves mailArrives
  dsimp only
  cases (mbox (nextRequest s.dev) ch).msg with
  | none => exact ⟨fun _ => rfl, .refl _⟩
  | some g =>
    dsimp only
    by_cases hrng : g.command = 0x50
    · simp only [if_pos hrng]
      exact ⟨fun _ => trivial, .refl _⟩
    · by_cases hkey : attestMode g.payload = 4
      · simp only [if_neg hrng, if_pos hkey]
        by_cases hzero : (decide (s.otp.seedRow = 0) && decide (seedNat b = 0)) = true
        · simp only [if_pos hzero]
          exact ⟨fun _ => trivial, .refl _⟩
        · simp only [if_neg hzero]
          exact ⟨fun _ => trivial, keygenRow_grows ..⟩
      · simp only [if_neg hrng, if_neg hkey]
        exact ⟨fun _ => trivial, .refl _⟩

theorem serveEntropy_serves (s : State) : Serves OtpGrows serveEntropy s := by
  unfold Serves serveEntropy
  dsimp only
  cases s.dev.ent.waiting with
  | nil => exact ⟨fun _ => rfl, .refl _⟩
  | cons x t =>
    cases x with
    | op q i n =>
      dsimp only
      cases generate n s.dev <;> exact ⟨fun _ => rfl, .refl _⟩
    | mail ch n =>
      dsimp only
      cases generate n s.dev with
      | none => exact ⟨fun _ => rfl, .refl _⟩
      | some x => exact mailArrives_serves ch x.1 { s with dev := x.2 }

theorem answers_entropyRequest : Answers OtpGrows (exec .entropyRequest) :=
  answers_of_serves (fun s => { serveEntropy s with dev := wakeFences (serveHeld (serveEntropy s).dev) })
    (fun s => by
      obtain ⟨hblind, hotp⟩ := serveEntropy_serves s
      exact ⟨fun l => congrArg (fun z : State => { z with dev := wakeFences (serveHeld z.dev) }) (hblind l), hotp⟩)
    fun _ => rfl

/- Every command. -/

/-- A command that does not program OTP changes the device only. -/
theorem answers_of_not_programsOtp {c : Instr} (h : programsOtp c = false) : Answers Eq (exec c) := by
  cases c with
  | calWriteSetting | raiseFloor | lifecycleAdvance | entropyRequest => cases h
  | _ => exact answers_of_nextDev fun _ => rfl

/-- Every command answers, and OTP only gains bits. -/
theorem answers_grows (c : Instr) : Answers OtpGrows (exec c) := by
  cases h : programsOtp c with
  | false => exact (answers_of_not_programsOtp h).mono fun o o' e => e ▸ OtpGrows.refl o
  | true =>
    cases c with
    | calWriteSetting ch back => exact answers_calWriteSetting ch back
    | raiseFloor ch back => exact answers_raiseFloor ch back
    | lifecycleAdvance ch => exact answers_lifecycleAdvance ch
    | entropyRequest => exact answers_entropyRequest
    | _ => cases h

/-- A step, of a command or idle, only adds bits to OTP. -/
theorem step_otp_grows {s t : State} (h : step s = .next t) : OtpGrows s.otp t.otp := by
  cases hp : s.pending with
  | nil =>
    rw [step_idle hp] at h
    cases h
    exact .refl _
  | cons c rest =>
    obtain ⟨f, hf, hg⟩ := answers_grows c s
    rw [step_front hp, hg] at h
    cases h
    rw [hf.1]
    exact hf.2

/-- Settles O54: OTP grows along every command, and the life-cycle state rises with its words. -/
theorem otpBitsStayAndTheLifeCycleNeverGoesBack : Obligations.OtpBitsStayAndTheLifeCycleNeverGoesBack := by
  refine ⟨fun o ones h => lifecycleOf_of_ones h, fun s t h => ?_⟩
  have hgrows := step_otp_grows h
  exact ⟨hgrows.words, hgrows.seedRow, hgrows.gens, hgrows.uniqueId, lifecycleOf_mono hgrows⟩

/-- Settles O53: each command's effect is blind to the queue, and the commands that do not program OTP leave it. -/
theorem everyCommandAnswersAndKeepsTheQueue : Obligations.EveryCommandAnswersAndKeepsTheQueue := by
  intro c s
  have hnext {R : Otp → Otp → Prop} {f : State → State} (hf : Serves R f s)
      (hg : ∀ l : List Instr, exec c { s with pending := l } = .next (f { s with pending := l })) (l : List Instr) :
      exec c { s with pending := l } = .next { f s with pending := l } := (hg l).trans (congrArg _ (hf.1 l))
  cases hc : programsOtp c with
  | false =>
    obtain ⟨f, hf, hg⟩ := answers_of_not_programsOtp hc s
    exact ⟨f s, hg s.pending, hf.keeps_pending, fun _ => hf.2.symm, hnext hf hg⟩
  | true =>
    obtain ⟨f, hf, hg⟩ := answers_grows c s
    exact ⟨f s, hg s.pending, hf.keeps_pending, nofun, hnext hf hg⟩

end Sys2Proof.Proofs
end

section
/-! PROOFS. R72, R73, R103, R105: acceptance of moves, temperatures of rungs, exchange of rungs. -/

namespace Sys2Proof.Proofs

open Sys2Proof Sys2Proof.Machine

theorem metropolis_iff (dE : Int) (t u : Nat) (q : Int) :
    metropolis dE t u q = true ↔ 2 ^ 24 * dE ≤ t * (tableL u + q) := decide_eq_true_iff

theorem heatBath_iff (dE : Int) (t u : Nat) : heatBath dE t u = true ↔ 2 ^ 24 * dE < t * tableH u :=
  decide_eq_true_iff

theorem exchangeRule_iff (a b u : Nat) (x y : Int) :
    exchangeRule a b x y u = true ↔ 2 ^ 24 * ((b : Int) - a) * (y - x) ≤ a * b * tableL u := decide_eq_true_iff

/-- A move that does not raise the energy is always accepted. -/
theorem metropolis_of_nonpos {dE q : Int} (t u : Nat) (hE : dE ≤ 0) (hq : 0 ≤ q) : metropolis dE t u q = true := by
  rw [metropolis_iff]
  have hright : 0 ≤ (t : Int) * (tableL u + q) :=
    Int.mul_nonneg (Int.natCast_nonneg t) (Int.add_nonneg (Int.natCast_nonneg _) hq)
  omega

/-- At temperature 0 the Metropolis rule asks only that the energy does not rise. -/
theorem metropolis_zero_iff (dE : Int) (u : Nat) (q : Int) : metropolis dE 0 u q = true ↔ dE ≤ 0 := by
  rw [metropolis_iff, Int.natCast_zero, Int.zero_mul]
  omega

/-- At temperature 0 the heat-bath rule asks that the energy falls. -/
theorem heatBath_zero_iff (dE : Int) (u : Nat) : heatBath dE 0 u = true ↔ dE < 0 := by
  rw [heatBath_iff, Int.natCast_zero, Int.zero_mul]
  omega

theorem ladderT_le (t k : Nat) : ladderT t k ≤ 16777215 := Nat.min_le_left ..

theorem ladderT_one (t : Nat) : ladderT t 4096 = min 16777215 t := by
  rw [ladderT, Nat.mul_div_cancel t (by decide)]

theorem ladderT_zero (t : Nat) : ladderT t 0 = 0 := by simp [ladderT]

theorem ladderT_of_lt {t k : Nat} (h : t * k < 16777216 * 4096) : ladderT t k = t * k / 4096 := by
  have hq : t * k / 4096 < 16777216 := Nat.div_lt_of_lt_mul (by rwa [Nat.mul_comm 4096])
  exact Nat.min_eq_right (by omega)

theorem exchangeRule_same (a u : Nat) (x y : Int) : exchangeRule a a x y u = true := by
  rw [exchangeRule_iff, Int.sub_self, Int.mul_zero, Int.zero_mul]
  exact Int.mul_nonneg (Int.mul_nonneg (Int.natCast_nonneg a) (Int.natCast_nonneg a)) (Int.natCast_nonneg _)

/-- With the colder rung at temperature 0 the rungs swap when the energy above is not higher. -/
theorem exchangeRule_zero_iff {b : Nat} (u : Nat) (x y : Int) (hb : 0 < b) :
    exchangeRule 0 b x y u = true ↔ y ≤ x := by
  have hpos : (0 : Int) < 2 ^ 24 * (b : Int) := by omega
  rw [exchangeRule_iff, Int.natCast_zero, Int.sub_zero, Int.zero_mul, Int.zero_mul]
  constructor
  · intro h
    have hnot : ¬(0 < y - x) := fun hlt => Int.not_lt.2 h (Int.mul_pos hpos hlt)
    omega
  · intro h
    have hmul := Int.mul_le_mul_of_nonneg_left (show y - x ≤ 0 by omega) (Int.le_of_lt hpos)
    rwa [Int.mul_zero] at hmul

/-- Settles O60: the rules as inequalities, their cases at temperature 0, and the printed entries of the tables. -/
theorem movesAreAcceptedByTheirRule : Obligations.MovesAreAcceptedByTheirRule := by
  refine ⟨fun dE t u q => ?_, fun t k => ?_, fun a b u x y => ?_, by decide +kernel, by decide +kernel,
    by decide +kernel, by decide +kernel, by decide +kernel, by decide +kernel⟩
  · exact ⟨metropolis_iff .., heatBath_iff .., metropolis_zero_iff .., heatBath_zero_iff .., metropolis_of_nonpos t u⟩
  · exact ⟨ladderT_one t, ladderT_zero t, ladderT_le t k, ladderT_of_lt⟩
  · exact ⟨exchangeRule_same .., exchangeRule_zero_iff u x y, exchangeRule_iff ..⟩

end Sys2Proof.Proofs
end

section
/-! PROOFS. R343: what register writes do to a mailbox that is BUSY. -/

namespace Sys2Proof.Proofs

open Sys2Proof Sys2Proof.Machine Sys2Proof.Laws

/-- Buffer, message and BUSY of a mailbox stand as they were. -/
structure KeepsMessage (m n : Mailbox) : Prop where
  buf : n.buf = m.buf
  msg : n.msg = m.msg
  busy : n.busy = m.busy

theorem KeepsMessage.refl (m : Mailbox) : KeepsMessage m m := ⟨rfl, rfl, rfl⟩

/-- GO while BUSY sets REJECTED and nothing else. -/
theorem goWrite_busy {ch : Chan} {d : Dev} (h : (mbox d ch).busy = true) :
    goWrite ch d = setMbox ch { mbox d ch with rejected := true } d := by
  simp [goWrite, h]

theorem bufferWrite_busy {ch : Chan} {d : Dev} (o : Nat) (bs : Bytes) (h : (mbox d ch).busy = true) :
    bufferWrite ch o bs d = d := by
  simp [bufferWrite, h]

/-- A control word that keeps the message, and then GO if it is written: GO finds the mailbox still BUSY. -/
theorem keepsMessage_goWrite {ch : Chan} {d : Dev} {n : Mailbox} (go : Bool) (h : (mbox d ch).busy = true)
    (hn : KeepsMessage (mbox d ch) n) :
    KeepsMessage (mbox d ch) (mbox (if go then goWrite ch (setMbox ch n d) else setMbox ch n d) ch) := by
  have hbusy : (mbox (setMbox ch n d) ch).busy = true := by rw [mbox_setMbox_same, hn.busy, h]
  cases go with
  | false => simpa using hn
  | true =>
    rw [if_pos rfl, goWrite_busy hbusy, mbox_setMbox_same, mbox_setMbox_same]
    exact ⟨hn.buf, hn.msg, hn.busy⟩

theorem goWrite_rejects {ch : Chan} {d : Dev} {n : Mailbox} (h : n.busy = true) :
    (mbox (goWrite ch (setMbox ch n d)) ch).rejected = true := by
  have hbusy : (mbox (setMbox ch n d) ch).busy = true := by rw [mbox_setMbox_same, h]
  rw [goWrite_busy hbusy, mbox_setMbox_same]

theorem mboxWrite32_keepsMessage {ch : Chan} {d : Dev} (o v : Nat) (h : (mbox d ch).busy = true) :
    KeepsMessage (mbox d ch) (mbox (mboxWrite32 ch o v d) ch) := by
  unfold mboxWrite32
  dsimp only
  split
  · exact keepsMessage_goWrite _ h ⟨rfl, rfl, rfl⟩
  · split
    · rw [mbox_setMbox_same]
      exact ⟨rfl, rfl, rfl⟩
    · split
      · rw [bufferWrite_busy _ _ h]
        exact .refl _
      · exact .refl _

theorem mboxWriteByte_keepsMessage {ch : Chan} {d : Dev} (o : Nat) (b : Byte) (h : (mbox d ch).busy = true) :
    KeepsMessage (mbox d ch) (mbox (mboxWriteByte ch o b d) ch) := by
  unfold mboxWriteByte
  dsimp only
  split
  · rw [bufferWrite_busy _ _ h]
    exact .refl _
  · split
    · exact keepsMessage_goWrite _ h ⟨rfl, rfl, rfl⟩
    · split
      · rw [mbox_setMbox_same]
        exact ⟨rfl, rfl, rfl⟩
      · split
        · rw [mbox_setMbox_same]
          exact ⟨rfl, rfl, rfl⟩
        · split
          · rw [mbox_setMbox_same]
            exact ⟨rfl, rfl, rfl⟩
          · exact .refl _

theorem mboxWrite32_go {ch : Chan} {d : Dev} {v : Nat} (h : (mbox d ch).busy = true) (hv : bit v 0 = true) :
    (mbox (mboxWrite32 ch 0 v d) ch).rejected = true := by
  simp only [mboxWrite32, hv, if_true]
  exact goWrite_rejects h

theorem mboxWriteByte_go {ch : Chan} {d : Dev} {b : Byte} (h : (mbox d ch).busy = true) (hb : b.getLsbD 0 = true) :
    (mbox (mboxWriteByte ch 0 b d) ch).rejected = true := by
  have hlow : ¬ (0x40 ≤ 0 ∧ 0 < 0x1050) := by decide
  simp only [mboxWriteByte, if_neg hlow, hb, if_true]
  exact goWrite_rejects h

/-- Settles O57: word and byte writes keep the message, and GO finds the mailbox BUSY. -/
theorem aBusyMailboxKeepsItsMessage : Obligations.ABusyMailboxKeepsItsMessage := by
  intro d ch o v b h
  have hword := mboxWrite32_keepsMessage o v h
  have hbyte := mboxWriteByte_keepsMessage o b h
  exact ⟨⟨hword.buf, hword.msg, hword.busy.trans h, mboxWrite32_go h⟩,
    hbyte.buf, hbyte.msg, hbyte.busy.trans h, mboxWriteByte_go h⟩

end Sys2Proof.Proofs
end

section
/-! PROOFS. R298: the completion ring, slot by slot. -/

namespace Sys2Proof.Proofs

open Sys2Proof Sys2Proof.Machine Sys2Proof.Laws

@[simp] theorem length_leBytes (k n : Nat) : (leBytes k n).length = k := by
  induction k generalizing n with
  | zero => rfl
  | succ k ih => rw [leBytes, List.length_cons, ih]

@[simp] theorem length_complBytes (q : QRef) (phase : Bool) (now : Nat) (c : Compl) :
    (complBytes q phase now c).length = 64 := by
  simp [complBytes]

/- What a store and a signalled vector leave. -/

theorem queueOf_congr {d e : Dev} (h : e.cur = d.cur) (q : QRef) : queueOf e q = queueOf d q := by
  cases q <;> simp only [queueOf, h]

@[simp] theorem emitMsi_cur (v : Nat) (d : Dev) : (emitMsi v d).cur = d.cur := by
  unfold emitMsi
  split
  · rfl
  · split <;> rfl

@[simp] theorem signal_cur (v : Nat) (d : Dev) : (signal v d).cur = d.cur := by
  unfold signal
  split
  · rfl
  · dsimp only
    split
    · rfl
    · exact emitMsi_cur v d

theorem emitMsi_hostMem (v : Nat) (d : Dev) : (emitMsi v d).host.mem = d.host.mem := by
  unfold emitMsi
  split
  · rfl
  · split <;> rfl

/-- A message to the host changes no byte of host memory. -/
theorem signal_hostMem (v : Nat) (d : Dev) : (signal v d).host.mem = d.host.mem := by
  unfold signal
  split
  · rfl
  · dsimp only
    split
    · rfl
    · exact emitMsi_hostMem v d

@[simp] theorem hostStore_cur (a : Nat) (bs : Bytes) (d : Dev) : (hostStore a bs d).cur = d.cur := by
  unfold hostStore
  split <;> rfl

@[simp] theorem store_cur (a : Nat) (bs : Bytes) (d : Dev) : (store a bs d).cur = d.cur := by
  unfold store
  split
  · exact hostStore_cur ..
  · rfl

@[simp] theorem curatorStore_cur (a : Nat) (bs : Bytes) (d : Dev) : (curatorStore a bs d).cur = d.cur := by
  unfold curatorStore
  split
  · exact store_cur ..
  · rfl

theorem asCtx_signal_cur (k v : Nat) (d : Dev) : (asCtx k (signal v) d).cur = d.cur := signal_cur v _

theorem asCtx_curatorStore_cur (k a : Nat) (bs : Bytes) (d : Dev) : (asCtx k (curatorStore a bs) d).cur = d.cur :=
  curatorStore_cur a bs _

/- One completion. -/

/-- The queue's other fields that a completion changes: the completions counted, the notice owed, and CQ_HEAD. -/
def posted (x : Queue) (seen : Nat) (owed : Bool) (head : Nat) : Queue :=
  { x with
    cqTail := (x.cqTail + 1) % cqSize x
    phase := if (x.cqTail + 1) % cqSize x = 0 then !x.phase else x.phase
    irqSeen := seen, unsignalled := owed, cqHead := head }

/-- A completion advances CQ_TAIL in its queue and turns PHASE where CQ_TAIL wraps. -/
theorem queueOf_postCompl_same (q : QRef) (irq : Bool) (c : Compl) (d : Dev) :
    ∃ seen owed head, queueOf (postCompl q irq c d) q = posted (queueOf d q) seen owed head := by
  unfold postCompl
  dsimp only
  have hset (x : Queue) (e : Dev) (b : Bool) (f : Dev → Dev) (hf : (f (setQueue q x e)).cur = (setQueue q x e).cur) :
      queueOf (if b = true then f (setQueue q x e) else setQueue q x e) q = x := by
    split
    · rw [queueOf_congr hf, queueOf_setQueue_same]
    · rw [queueOf_setQueue_same]
  rw [hset _ _ _ _ (asCtx_signal_cur ..)]
  split <;> exact ⟨_, _, _, rfl⟩

theorem queueOf_postCompl_other {p q : QRef} (irq : Bool) (c : Compl) (d : Dev) (h : p ≠ q) :
    queueOf (postCompl q irq c d) p = queueOf d p := by
  unfold postCompl
  dsimp only
  have hset (x : Queue) (e : Dev) (he : e.cur = d.cur) : queueOf (setQueue q x e) p = queueOf d p := by
    rw [queueOf_setQueue_other x e h, queueOf_congr he]
  split
  · exact (queueOf_congr (asCtx_signal_cur ..) p).trans (hset _ _ (asCtx_curatorStore_cur ..))
  · exact hset _ _ (asCtx_curatorStore_cur ..)

/- Completions counted from ENABLE. -/

/-- Queue `y` is queue `x`, as it was enabled, after `k` completions. -/
structure RingAt (x : Queue) (k : Nat) (y : Queue) : Prop where
  tail : y.cqTail = k % cqSize x
  phase : y.phase = decide (k / cqSize x % 2 = 0)
  config : y.config = x.config
  base : y.cqBase = x.cqBase
  cur : y.cur = x.cur

theorem RingAt.size {x y : Queue} {k : Nat} (h : RingAt x k y) : cqSize y = cqSize x := by
  rw [cqSize, cqSize, h.config]

theorem ringAt_zero {x : Queue} (ht : x.cqTail = 0) (hp : x.phase = true) : RingAt x 0 x :=
  ⟨by rw [ht, Nat.zero_mod], by simp [hp], rfl, rfl, rfl⟩

/-- The pass changes exactly where the next slot is slot 0. -/
theorem RingAt.posted {x y : Queue} {k : Nat} (h : RingAt x k y) (seen : Nat) (owed : Bool) (head : Nat) :
    RingAt x (k + 1) (posted y seen owed head) := by
  have htail : (y.cqTail + 1) % cqSize y = (k + 1) % cqSize x := by rw [h.size, h.tail, Nat.mod_add_mod]
  refine ⟨htail, ?_, h.config, h.base, h.cur⟩
  have hphase : (Proofs.posted y seen owed head).phase = if (k + 1) % cqSize x = 0 then !y.phase else y.phase := by
    rw [← htail]
    rfl
  rw [hphase, h.phase, Nat.succ_div]
  simp only [Nat.dvd_iff_mod_eq_zero]
  split
  · rw [← decide_not, decide_eq_decide]
    omega
  · rfl

theorem ringAt_postCompl {x : Queue} {k : Nat} {q : QRef} {d : Dev} (irq : Bool) (c : Compl)
    (h : RingAt x k (queueOf d q)) : RingAt x (k + 1) (queueOf (postCompl q irq c d) q) := by
  obtain ⟨seen, owed, head, hq⟩ := queueOf_postCompl_same q irq c d
  exact hq ▸ h.posted seen owed head

theorem ringAt_foldl {x : Queue} {q : QRef} (l : List (Bool × Compl)) {k : Nat} {d : Dev}
    (h : RingAt x k (queueOf d q)) :
    RingAt x (k + l.length) (queueOf (l.foldl (fun d c => postCompl q c.1 c.2 d) d) q) := by
  induction l generalizing k d with
  | nil => exact h
  | cons c l ih =>
    have hl := ih (ringAt_postCompl c.1 c.2 h)
    rwa [Nat.add_right_comm] at hl

theorem queueOf_foldl_other {p q : QRef} (l : List (Bool × Compl)) (d : Dev) (h : p ≠ q) :
    queueOf (l.foldl (fun d c => postCompl q c.1 c.2 d) d) p = queueOf d p := by
  induction l generalizing d with
  | nil => rfl
  | cons c l ih => exact (ih _).trans (queueOf_postCompl_other c.1 c.2 d h)

/- The bytes in a ring of host memory. -/

/-- A host address goes on within its 2 ^ 63 bytes. -/
theorem host_add {a n : Nat} (ha : isHost a = true) (hn : low 63 a + n < 2 ^ 63) :
    isHost (a + n) = true ∧ low 63 (a + n) = low 63 a + n := by
  simp only [isHost, bit, bits, low, beq_iff_eq] at ha hn ⊢
  omega

/-- Without a mirrored context no context is suppressed. -/
theorem hushed_of_no_mirror {d : Dev} (h : d.chain.mirror.ctxs = []) (c : Nat) : hushed d c = false := by
  simp [hushed, mirrorCtx, h]

/-- A completion in host memory: its bytes go to the slot at CQ_TAIL. -/
theorem postCompl_hostMem {q : QRef} {d : Dev} (irq : Bool) (c : Compl)
    (hh : isHost ((queueOf d q).cqBase + 64 * (queueOf d q).cqTail) = true) (hq : d.host.quiesced = false)
    (hm : d.chain.mirror.ctxs = []) :
    (postCompl q irq c d).host.mem = cellsSet (low 63 ((queueOf d q).cqBase + 64 * (queueOf d q).cqTail))
      (complBytes q (queueOf d q).phase (stamp d) c) d.host.mem := by
  have hhush (e : Dev) (he : e.chain.mirror.ctxs = []) : actorHushed e = false := by
    unfold actorHushed
    split
    · exact hushed_of_no_mirror he _
    · rfl
  have hstore (e : Dev) (bs : Bytes) (he : e.chain.mirror.ctxs = []) (hqe : e.host = d.host) :
      (curatorStore ((queueOf d q).cqBase + 64 * (queueOf d q).cqTail) bs e).host.mem =
        cellsSet (low 63 ((queueOf d q).cqBase + 64 * (queueOf d q).cqTail)) bs d.host.mem := by
    rw [curatorStore, hh, Bool.true_or, if_pos rfl, store_host bs hh (by rw [hqe, hq]) (hhush e he), hqe]
  unfold postCompl
  dsimp only
  have hset (x : Queue) (e : Dev) (b : Bool) (n k : Nat) :
      (if b = true then asCtx k (signal n) (setQueue q x e) else setQueue q x e).host.mem = e.host.mem := by
    split
    · simp [asCtx, signal_hostMem]
    · simp
  rw [hset]
  exact hstore _ _ (by simp [modMirrorCtx, modMirror, hm]) rfl

/-- Settles O55: the ring's place after k completions, the queues apart, and the bytes of completion k. -/
theorem completionsFollowTheRing : Obligations.CompletionsFollowTheRing := by
  rintro d d' q x y l rfl ht hp rfl rfl
  have hring := ringAt_foldl l (ringAt_zero ht hp)
  rw [Nat.zero_add] at hring
  refine ⟨hring.tail, hring.phase, hring.config, hring.base, hring.cur, fun p => queueOf_foldl_other l d, ?_⟩
  intro irq c hh hq hm hroom
  have hslot : l.length % cqSize (queueOf d q) < cqSize (queueOf d q) := Nat.mod_lt _ (Nat.two_pow_pos _)
  obtain ⟨hhost, hlow⟩ := host_add (n := 64 * (l.length % cqSize (queueOf d q))) hh (by omega)
  rw [postCompl_hostMem irq c (by rwa [hring.base, hring.tail]) hq hm, hring.base, hring.tail, hring.phase, hlow]
  have hbytes := cellsRead_cellsSet (low 63 (queueOf d q).cqBase + 64 * (l.length % cqSize (queueOf d q)))
    (complBytes q (decide (l.length / cqSize (queueOf d q) % 2 = 0))
      (stamp (l.foldl (fun d c => postCompl q c.1 c.2 d) d)) c)
    (l.foldl (fun d c => postCompl q c.1 c.2 d) d).host.mem
  rwa [length_complBytes] at hbytes

end Sys2Proof.Proofs
end

section
/-! PROOFS. R325, R326, R328, R329, R337: the control ops on fences, and COPY, FILL and RNG_FILL. -/

namespace Sys2Proof.Proofs

open Sys2Proof Sys2Proof.Machine Sys2Proof.Laws

/- Reads of host memory that ask for a completion. -/

/-- Nothing has been read yet: no byte is there. -/
theorem gotRead_nil {n : Nat} (a : Nat) (hn : n ≠ 0) : gotRead [] a n = none := by
  obtain ⟨k, rfl⟩ := Nat.exists_eq_succ_of_ne_zero hn
  simp [gotRead, List.range_succ_eq_map]

theorem addrForm_of_isHost {a : Nat} (h : isHost a = true) : addrForm a = true := by simp [addrForm, h]

/-- An op's first read of host memory asks for it, where host requests may leave. -/
theorem rd_host {q : QRef} {e : Entry} {o a n : Nat} {d : Dev} (hh : isHost a = true) (hn : n ≠ 0) :
    rd (opEnv q e o) a n d =
      .error (if (hostWaits d && !hushed d e.ctx) = true then .notYet else .host (low 63 a) n) d := by
  have hok : (opEnv q e o).hostOk = false := rfl
  have hgot : gotRead (opEnv q e o).got a n = none := gotRead_nil a hn
  have hbad : (opEnv q e o).badRead = none := rfl
  have hctx : (opEnv q e o).ctx = e.ctx := rfl
  unfold rd
  rw [bind_ok (checkAddr_ok (addrForm_of_isHost hh)), if_pos hh]
  simp only [hostRead, hok, hgot, hbad, hctx, Bool.false_eq_true, if_false]
  rw [bind_ok get_ok]
  split <;> rfl

theorem rd_host_asks {q : QRef} {e : Entry} {o a n : Nat} {d : Dev} (hh : isHost a = true) (hw : hostWaits d = false)
    (hn : n ≠ 0) : rd (opEnv q e o) a n d = .error (.host (low 63 a) n) d := by
  rw [rd_host hh hn, hw, Bool.false_and, if_neg Bool.false_ne_true]

/-- An op row whose body asks for bytes of host memory. -/
theorem opRow_asks {s : State} {q : QRef} {code : Nat} {e : Entry} {o a n : Nat} {r x : Bytes} {d d' : Dev} {body : Body}
    (h : OpRuns s q code e o r x d) (hb : body (opEnv q e o) x d = .error (.host (low 63 a) n) d') :
    opRow q code body s = .next (opAsks q e o r a n d' s) := by
  have hm : isOpcode code s.dev e r = true := by simp [isOpcode, h.opcode]
  rw [opRow, onMem, onDev, issueOp_runs h hm, hb]; rfl

/- Fences. -/

theorem rd64_error {env : OpEnv} {a : Nat} {d d' : Dev} {x : Stop} (h : rd env a 8 d = .error x d') :
    rd64 env a d = .error x d' := bind_error h

theorem bodyWaitFence_ok {env : OpEnv} {x : Bytes} {d d' : Dev} {v : Nat} (h : rd64 env (opnd x 0) d = .ok v d') :
    bodyWaitFence env x d =
      .ok (if opnd x 1 ≤ v then .done { detail := v } 1 else .running (.fence (opnd x 0) (opnd x 1)) 0) d' := by
  unfold bodyWaitFence
  rw [bind_ok h]
  split <;> rfl

theorem exec_waitFence {s : State} {q : QRef} {e : Entry} {o v : Nat} {r x : Bytes} {d d' : Dev}
    (h : OpRuns s q 0x01 e o r x d) (hrd : rd64 (opEnv q e o) (opnd x 0) d = .ok v d') :
    exec (.waitFence q) s =
      .next (if opnd x 1 ≤ v then opOk q e o r v d' s else opWaits q e o r (.fence (opnd x 0) (opnd x 1)) 0 d' s) := by
  have hbody := bodyWaitFence_ok hrd
  split
  · next hmet =>
    rw [if_pos hmet] at hbody
    exact opRow_done h hbody
  · next hmet =>
    rw [if_neg hmet] at hbody
    exact opRow_running h hbody

theorem exec_waitFence_host {s : State} {q : QRef} {e : Entry} {o : Nat} {r x : Bytes} {d : Dev}
    (h : OpRuns s q 0x01 e o r x d) (hh : isHost (opnd x 0) = true) (hw : hostWaits d = false) :
    exec (.waitFence q) s = .next (opAsks q e o r (opnd x 0) 8 d s) :=
  opRow_asks h (bind_error (rd64_error (rd_host_asks hh hw (by decide))))

/-- The waits that a poll looks at. -/
def waitsOnFence (j : OpIssue) : Bool :=
  match j.wait with
  | .fence _ _ => true
  | _ => false

/-- Elements that a fold passes over may be left out. -/
theorem foldl_skip {α β : Type} {p : α → Bool} {f : β → α → β} (h : ∀ b x, p x = false → f b x = b) (l : List α) (b : β) :
    l.foldl f b = (l.filter p).foldl f b := by
  induction l generalizing b with
  | nil => rfl
  | cons x t ih =>
    cases hp : p x with
    | false => simp [hp, h b x hp, ih]
    | true => simp [hp, ih]

theorem fenceReads_met {c : Nat} {q : QRef} {i a t : Nat} {b : Bytes} {d d' : Dev}
    (h : hostReadNow c a 8 d = .ok b d') (ht : t ≤ leNat b) :
    fenceReads c q i a t d = opSteps q 1 (opOutcome q i { detail := leNat b } d') := by
  simp only [fenceReads, h, if_pos ht]

/-- A poll of an entry with one wait on a host fence reads that fence. -/
theorem pollFences_one {q : QRef} {e : Entry} {i : OpIssue} {a t : Nat} {d : Dev} (he : (queueOf d q).cur = some e)
    (hi : i.wait = .fence a t) (ha : isHost a = true)
    (hgoes : (hostWaits d = false ∧ d.host.quiesced = false) ∨ hushed d e.ctx = true)
    (hone : e.issues.filter waitsOnFence = [i]) : pollFences q d = fenceReads e.ctx q i.idx a t d := by
  have hgate : ((hostWaits d || d.host.quiesced) && !hushed d e.ctx) = false := by
    rcases hgoes with ⟨hw, hq⟩ | hh
    · simp [hw, hq]
    · simp [hh]
  simp only [pollFences, he, hgate, Bool.false_eq_true, if_false]
  rw [foldl_skip (p := waitsOnFence), hone]
  · simp only [List.foldl_cons, List.foldl_nil, hi, ha, if_true]
  · intro d j hj
    cases hw : j.wait with
    | fence => simp [waitsOnFence, hw] at hj
    | _ => rfl

theorem exec_waitFencePoll {s : State} {q : QRef} {e : Entry} {i : OpIssue} {a t : Nat} {b : Bytes} {d' : Dev}
    (he : (queueOf s.dev q).cur = some e) (hi : i.wait = .fence a t) (ha : isHost a = true)
    (hgoes : (hostWaits s.dev = false ∧ s.dev.host.quiesced = false) ∨ hushed s.dev e.ctx = true)
    (hone : e.issues.filter waitsOnFence = [i]) (hrd : hostReadNow e.ctx a 8 s.dev = .ok b d') (ht : t ≤ leNat b) :
    exec (.waitFencePoll q) s = .next (withDev s (opSteps q 1 (opOutcome q i.idx { detail := leNat b } d'))) := by
  rw [← fenceReads_met hrd ht, ← pollFences_one he hi ha hgoes hone]
  rfl

/-- The fence of SIGNAL_FENCE has the form of an address: its op has passed the checks of Table 13.4. -/
theorem signal_addrForm {s : State} {q : QRef} {e : Entry} {o : Nat} {r x : Bytes} {d : Dev}
    (h : OpRuns s q 0x02 e o r x d) : addrForm (opnd x 0) = true := by
  have hchecks := opRuns_checks h (by decide)
  simp only [operandChecks, firstBad_eq_none_iff, opRuns_indirect h, bit_zero, List.forall_mem_cons] at hchecks
  obtain ⟨-, hform, -⟩ := hchecks
  simpa using hform

theorem signal_writes_device {s : State} {q : QRef} {e : Entry} {o : Nat} {r x : Bytes} {d d' : Dev}
    (h : OpRuns s q 0x02 e o r x d) (hmode : bit (opnd x 2) 0 = false) (hd : isHost (opnd x 0) = false)
    (hw : devWrite (opnd x 0) (leBytes 8 (opnd x 1)) d = .ok () d') :
    bodySignalFence (opEnv q e o) x d = .ok (.done { detail := opnd x 1 } 1) d' := by
  unfold bodySignalFence
  simp only [hmode, hd, Bool.false_eq_true, if_false]
  rw [bind_ok ((wr_device (signal_addrForm h) hd).trans hw)]
  rfl

theorem signal_writes_host {q : QRef} {e : Entry} {o : Nat} {x : Bytes} {d : Dev} (hmode : bit (opnd x 2) 0 = false)
    (hh : isHost (opnd x 0) = true) (hw : hostHolds d = false) :
    bodySignalFence (opEnv q e o) x d = .ok (.done { detail := opnd x 1 } 1)
      (noteFence e.ctx (opnd x 0) (opnd x 1) (hostStore (opnd x 0) (leBytes 8 (opnd x 1)) d)) := by
  unfold bodySignalFence
  simp only [hmode, hh, Bool.false_eq_true, if_false, if_true]
  rw [bind_ok (wr_host hh hw), bind_ok change_ok]
  rfl

theorem signal_adds_device {q : QRef} {e : Entry} {o v : Nat} {x : Bytes} {d d1 d2 : Dev}
    (hmode : bit (opnd x 2) 0 = true) (hd : isHost (opnd x 0) = false)
    (hr : rd64 (opEnv q e o) (opnd x 0) d = .ok v d1)
    (hw : devWrite (opnd x 0) (leBytes 8 ((v + opnd x 1) % 2 ^ 64)) d1 = .ok () d2) :
    bodySignalFence (opEnv q e o) x d = .ok (.done { detail := (v + opnd x 1) % 2 ^ 64 } 1) d2 := by
  unfold bodySignalFence
  simp only [hmode, hd, Bool.false_eq_true, if_false, if_true]
  rw [bind_ok hr, low, bind_ok hw]
  rfl

theorem signal_adds_host {q : QRef} {e : Entry} {o : Nat} {x : Bytes} {d : Dev} (hmode : bit (opnd x 2) 0 = true)
    (hh : isHost (opnd x 0) = true) (hreq : d.host.atomicReq = true) (hw : hostWaits d = false) :
    bodySignalFence (opEnv q e o) x d = .error (.host (low 63 (opnd x 0)) 8) d := by
  unfold bodySignalFence
  simp only [hmode, hh, if_true]
  rw [bind_ok get_ok, bind_ok (requireFmt_true hreq),
    bind_error (rd64_error (rd_host_asks (q := q) (e := e) (o := o) hh hw (by decide)))]

/-- Settles O6: each body's outcome carried through its row, the poll through the one wait it finds. -/
theorem waitsAndFencesAct : Obligations.WaitsAndFencesAct := by
  refine ⟨fun s q e o r x d h => opRow_done h rfl, fun s q e o r x d h => ?_, ?_, fun s q e o r x d h => ?_⟩
  · exact ⟨fun d' v => exec_waitFence h, exec_waitFence_host h⟩
  · intro s q e i a t b d' he hi ha hgoes hone
    exact exec_waitFencePoll he hi ha hgoes hone
  · refine ⟨fun d' hm hd hw => ?_, fun hm hh hw => ?_, fun d1 d2 v hm hd hr hw => ?_, fun hm hh hreq hw => ?_⟩
    · exact opRow_done h (signal_writes_device h hm hd hw)
    · exact opRow_done h (signal_writes_host hm hh hw)
    · exact opRow_done h (signal_adds_device hm hd hr hw)
    · exact opRow_asks h (signal_adds_host hm hh hreq hw)

/- Transfers. -/

/-- A read that meets no uncorrectable word is whole. -/
theorem readPart_of_devRead {a n : Nat} {d d' : Dev} {bs : Bytes} (h : devRead a n d = .ok bs d') :
    readPart a n d = .ok (bs, none) d' := by
  unfold devRead at h
  obtain ⟨⟨x, bad⟩, e, hpart, hrest⟩ := bind_inv h
  cases bad with
  | some w => cases hrest
  | none => cases hrest; exact hpart

theorem wrPart_of_devWrite {a : Nat} {bs : Bytes} {d d' : Dev} (hd : isHost a = false)
    (h : devWrite a bs d = .ok () d') : wrPart a bs d = .ok none d' := by
  unfold devWrite at h
  obtain ⟨⟨⟩, e1, hrange, hrest⟩ := bind_inv h
  rw [bind_ok get_ok] at hrest
  unfold wrPart
  simp only [hd, Bool.false_eq_true, if_false]
  rw [bind_ok hrange, bind_ok get_ok]
  cases hw : readWords (partWords a bs.length) e1 with
  | mk bad d2 =>
    simp only [hw] at hrest ⊢
    cases bad with
    | some w => cases hrest
    | none => cases hrest; rfl

/-- A write that meets no uncorrectable word is whole. -/
theorem wrPart_of_wr {a : Nat} {bs : Bytes} {d d' : Dev} (h : wr a bs d = .ok () d') : wrPart a bs d = .ok none d' := by
  cases hh : isHost a with
  | true =>
    unfold wrPart
    simp only [hh, if_true]
    rw [bind_ok h]
    rfl
  | false =>
    have hwr := h
    unfold wr at h
    obtain ⟨⟨⟩, e, hform, -⟩ := bind_inv h
    obtain ⟨hf, rfl⟩ := checkAddr_inv hform
    exact wrPart_of_devWrite hh ((wr_device hf hh).symm.trans hwr)

theorem checkDest_addrForm {a n : Nat} {d : Dev} (h : checkDest a n d = .ok () d) : addrForm a = true := by
  unfold checkDest at h
  obtain ⟨⟨⟩, e, hform, -⟩ := bind_inv h
  exact (checkAddr_inv hform).1

theorem bodyCopy_device {env : OpEnv} {x bs : Bytes} {d d1 d2 : Dev} (hn : bytesInRange (opnd x 2) = true)
    (hsrc : addrForm (opnd x 1) = true) (hov : overlaps (opnd x 0) (opnd x 2) (opnd x 1) (opnd x 2) = false)
    (hdest : checkDest (opnd x 0) (opnd x 2) d = .ok () d) (hd : isHost (opnd x 1) = false)
    (hr : devRead (opnd x 1) (opnd x 2) d = .ok bs d1) (hw : wr (opnd x 0) bs d1 = .ok () d2) :
    bodyCopy env x d = .ok (.done { detail := opnd x 2 } (transferSteps (opnd x 2))) d2 := by
  unfold bodyCopy
  dsimp only
  rw [bind_ok (requireFmt_true hn), bind_ok (checkAddr_ok (checkDest_addrForm hdest)), bind_ok (checkAddr_ok hsrc),
    bind_ok (requireFmt_true (by rw [hov]; rfl)), bind_ok hdest, hd, if_neg Bool.false_ne_true,
    bind_ok (readPart_of_devRead hr), bind_ok (wrPart_of_wr hw)]
  rfl

theorem bodyCopy_host {q : QRef} {e : Entry} {o : Nat} {x : Bytes} {d : Dev} (hn : bytesInRange (opnd x 2) = true)
    (hov : overlaps (opnd x 0) (opnd x 2) (opnd x 1) (opnd x 2) = false)
    (hdest : checkDest (opnd x 0) (opnd x 2) d = .ok () d) (hh : isHost (opnd x 1) = true) (hw : hostWaits d = false) :
    bodyCopy (opEnv q e o) x d = .error (.host (low 63 (opnd x 1)) (opnd x 2)) d := by
  have hpos : opnd x 2 ≠ 0 := by
    simp only [bytesInRange, Bool.and_eq_true, decide_eq_true_iff] at hn
    omega
  have hread : hostRead (opEnv q e o) (opnd x 1) (opnd x 2) d = .error (.host (low 63 (opnd x 1)) (opnd x 2)) d := by
    have hrd := rd_host_asks (q := q) (e := e) (o := o) hh hw hpos
    unfold rd at hrd
    rwa [bind_ok (checkAddr_ok (addrForm_of_isHost hh)), if_pos hh] at hrd
  unfold bodyCopy
  dsimp only
  rw [bind_ok (requireFmt_true hn), bind_ok (checkAddr_ok (checkDest_addrForm hdest)),
    bind_ok (checkAddr_ok (addrForm_of_isHost hh)), bind_ok (requireFmt_true (by rw [hov]; rfl)), bind_ok hdest, hh,
    if_pos rfl, bind_error hread]

theorem bodyFill_ok {env : OpEnv} {x : Bytes} {d d' : Dev} (hn : bytesInRange (opnd x 2) = true)
    (hdest : checkDest (opnd x 0) (opnd x 2) d = .ok () d)
    (hw : wrPart (opnd x 0) (fillBytes (opnd x 0) (opnd x 2) (opnd x 1)) d = .ok none d') :
    bodyFill env x d = .ok (.done { detail := opnd x 2 } (transferSteps (opnd x 2))) d' := by
  unfold bodyFill
  rw [bind_ok (requireFmt_true hn), bind_ok hdest, bind_ok hw]
  rfl

theorem bodyRngFill_ok {q : QRef} {e : Entry} {o : Nat} {x : Bytes} {c : Ctx} {d d' : Dev} (hc : ctxIs d e c)
    (hrange : bits (opnd x 3) 16 16 + bits (opnd x 3) 32 16 ≤ 640)
    (hplaced : rangePlaced c (bits (opnd x 3) 0 8) (bits (opnd x 3) 16 16) (bits (opnd x 3) 32 16) = true)
    (hfree : ∀ i < bits (opnd x 3) 32 16,
      accessWaits d (scratchAddr (bits (opnd x 3) 0 8) (bits (opnd x 3) 16 16 + i)) = false)
    (hdest : checkDest (opnd x 0) (opnd x 1) d = .ok () d) (hseed : opnd x 2 ≠ 0)
    (hw : wr (opnd x 0) (rngBytes (opnd x 2) (opnd x 1)) d = .ok () d') :
    bodyRngFill (opEnv q e o) x d =
      .ok (.done { detail := opnd x 1 / 2, seed := opnd x 2 } (transferSteps (opnd x 1))) d' := by
  have hany : (List.range (bits (opnd x 3) 32 16)).any
      (fun i => accessWaits d (scratchAddr (bits (opnd x 3) 0 8) (bits (opnd x 3) 16 16 + i))) = false := by
    simpa using hfree
  have hdraw : seedOf (opEnv q e o) (opnd x 2) d = .ok (opnd x 2, false) d := by
    unfold seedOf
    rw [if_pos hseed]
    rfl
  unfold bodyRngFill
  dsimp only
  rw [bind_ok (needCtx_ok hc), bind_ok (requireFmt_true (decide_eq_true hrange)), bind_ok (require_true hplaced),
    bind_ok get_ok]
  simp only [hany, Bool.false_eq_true, if_false]
  rw [bind_ok hdest, bind_ok hdraw, bind_ok hw]
  rfl

/-- Settles O9: the checks passed one by one, then the bytes moved whole. -/
theorem memoryOpsStoreTheirBytes : Obligations.MemoryOpsStoreTheirBytes := by
  refine ⟨fun s q e o r x d h hn hsrc hov hdest => ⟨?_, ?_⟩, ?_, ?_⟩
  · intro bs d1 d2 hd hr hw
    exact opRow_done h (bodyCopy_device hn hsrc hov hdest hd hr hw)
  · intro hh hw
    exact opRow_asks h (bodyCopy_host hn hov hdest hh hw)
  · intro s q e o r x d d' h hn hdest hw
    exact opRow_done h (bodyFill_ok hn hdest (wrPart_of_wr hw))
  · intro s q e o r x d d' c h hc hterm hrange hplaced hfree hdest hseed hw
    exact opRow_done h (bodyRngFill_ok ⟨hc, hterm⟩ hrange hplaced hfree hdest hseed hw)

end Sys2Proof.Proofs
end

section
/-! PROOFS. R316, R318, R319: how an op with its final status ends, and what its end leaves. R328: the bytes of FILL. -/

namespace Sys2Proof.Proofs

open Sys2Proof Sys2Proof.Machine Sys2Proof.Laws

/- The end of an op of a context that is not mirrored. -/

theorem reported_cur {n : Nat} {d : Dev} : (reported n d).2.cur = d.cur := by
  unfold reported
  split <;> rfl

/-- No part of the mirror's protocol comes before the end. -/
theorem endOp_unmirrored {q : QRef} {idx : Nat} {e : Entry} {i : OpIssue} {out : OpOut} {d : Dev}
    (he : (queueOf d q).cur = some e) (hi : openIssue e idx = some i) (hw : i.wait = .out out)
    (hm : mirrorCtx d e.ctx = none) : endOp q idx d = finishOp q idx out i.record e d := by
  obtain ⟨_, _, wait⟩ := i
  cases hw
  simp only [endOp, he, hi, yieldedCtx, forwards, hushed, hm, Bool.false_eq_true, if_false, Bool.false_and]

/-- An op with its final status does not wait: OP_END goes straight to its end. -/
theorem exec_opEnd_out {s : State} {q : QRef} {op : Fin 32768} {e : Entry} {i : OpIssue} {out : OpOut}
    (he : (queueOf s.dev q).cur = some e) (hi : openIssue e op.val = some i) (hw : i.wait = .out out) :
    exec (.opEnd q op) s = .next (withMem s (pumpQueue q (endOp q op.val s.dev))) := by
  obtain ⟨_, _, wait⟩ := i
  cases hw
  have hheld : stillHeld q op.val s.dev = false := by simp only [stillHeld, he, hi]
  have hfeed : feedOp q op.val s.dev = s.dev := by
    simp only [feedOp, hostWaiter, he, hi, readsHost, Bool.false_eq_true, if_false]
  have hsettle : settleOp q op.val s.dev = s.dev := by simp only [settleOp, he, hi]
  show Host.Outcome.next (withMem s (endNow q op.val
    (if stillHeld q op.val s.dev then runAgain q op.val s.dev else feedOp q op.val s.dev))) = _
  rw [hheld, if_neg Bool.false_ne_true, hfeed, endNow, hsettle]

theorem finishOp_silent {q : QRef} {idx : Nat} {out o : OpOut} {r : Bytes} {e x : Entry} {d d' : Dev}
    (hd : reported out.detail d = (o.detail, d')) (ho : o = { out with detail := o.detail })
    (he : (queueOf d' q).cur = some x) (hr : recComplete r = false) :
    finishOp q idx out r e d = modIssue q idx (fun i => { i with wait := .ended o })
      (setEntry q (some { x with failed := x.failed || !stGood o.status }) d') := by
  have hstatus : out.status = o.status := by rw [ho]
  unfold finishOp
  simp only [hd, ← ho, hr, he, Bool.false_eq_true, if_false]
  rw [hstatus]

theorem finishOp_complete {q : QRef} {idx : Nat} {out o : OpOut} {r : Bytes} {e x : Entry} {d d' : Dev}
    (hd : reported out.detail d = (o.detail, d')) (ho : o = { out with detail := o.detail })
    (he : (queueOf d' q).cur = some x) (hr : recComplete r = true) (hroom : complRoom d' q = true) :
    finishOp q idx out r e d = modIssue q idx (fun i => { i with wait := .ended o })
      (setEntry q (some { x with failed := x.failed || !stGood o.status })
        (postCompl q e.irq (opCompl d' e idx o) d')) := by
  have hcur : (queueOf (postCompl q e.irq (opCompl d' e idx o) d') q).cur = some x := by
    obtain ⟨seen, owed, head, hq⟩ := queueOf_postCompl_same q e.irq (opCompl d' e idx o) d'
    rw [hq]
    exact he
  have hstatus : out.status = o.status := by rw [ho]
  unfold finishOp
  simp only [hd, ← ho, hr, hroom, hcur, if_true]
  rw [hstatus]

theorem finishOp_full {q : QRef} {idx : Nat} {out o : OpOut} {r : Bytes} {e : Entry} {d d' : Dev}
    (hd : reported out.detail d = (o.detail, d')) (hr : recComplete r = true) (hroom : complRoom d' q = false) :
    finishOp q idx out r e d = setQueue q { queueOf d' q with cqWait := true } d' := by
  unfold finishOp
  simp only [hd, hr, hroom, if_true, Bool.false_eq_true, if_false]

/-- Settles O33: OP_END reaches `finishOp`, whose three cases the record and the ring decide. -/
theorem opsEndWithTheirStatus : Obligations.OpsEndWithTheirStatus := by
  intro s q op e i out o d he hi hw hm hd ho
  have hend := (exec_opEnd_out he hi hw).trans (congrArg (fun d => Host.Outcome.next (withMem s (pumpQueue q d)))
    (endOp_unmirrored he hi hw hm))
  have hcur : (queueOf d q).cur = some e := by
    have hsame : d.cur = s.dev.cur := by
      rw [← reported_cur (n := out.detail) (d := s.dev), hd]
    rw [queueOf_congr hsame, he]
  refine ⟨fun hr => ?_, fun hr hroom => ?_, fun hr hroom => ?_⟩
  · rw [hend, finishOp_silent hd ho hcur hr]
    rfl
  · rw [hend, finishOp_complete hd ho hcur hr hroom]
    rfl
  · rw [hend, finishOp_full hd hr hroom]

/- What the end of an op without COMPLETE leaves. -/

/-- Device memory and the host side are as before. -/
structure KeepsMemory (d e : Dev) : Prop where
  mem : e.mem = d.mem
  host : e.host = d.host

theorem KeepsMemory.refl (d : Dev) : KeepsMemory d d := ⟨rfl, rfl⟩

theorem KeepsMemory.trans {d e f : Dev} (h : KeepsMemory d e) (g : KeepsMemory e f) : KeepsMemory d f :=
  ⟨g.mem.trans h.mem, g.host.trans h.host⟩

theorem KeepsMemory.of_work {d e : Dev} (h : OnlyWork d e) : KeepsMemory d e := by
  obtain ⟨_, _, rfl⟩ := h
  exact ⟨rfl, rfl⟩

theorem KeepsMemory.of_chain {d e : Dev} (h : OnlyChain d e) : KeepsMemory d e := by
  obtain ⟨_, _, rfl⟩ := h
  exact ⟨rfl, rfl⟩

theorem modMirrorCtx_only (c : Nat) (f : MirrorCtx → MirrorCtx) (d : Dev) : OnlyChain d (modMirrorCtx c f d) :=
  ⟨_, d.tele, rfl⟩

theorem sendMirror_only (m : Msg) (d : Dev) : OnlyChain d (sendMirror m d) := by
  unfold sendMirror
  split
  · exact queueFlits_only ..
  · exact .refl d

theorem sendPoint_only (c : Nat) (isEpoch states : Bool) (epoch : Nat) (d : Dev) :
    OnlyChain d (sendPoint c isEpoch states epoch d) := by
  unfold sendPoint
  split
  · exact .refl d
  · exact (sendMirror_only ..).trans (modMirrorCtx_only ..)

theorem reported_keepsMemory (n : Nat) (d : Dev) : KeepsMemory d (reported n d).2 := by
  unfold reported
  split <;> exact ⟨rfl, rfl⟩

theorem finishOp_keepsMemory {q : QRef} {idx : Nat} {o : OpOut} {r : Bytes} {e : Entry} {d : Dev}
    (hr : recComplete r = false) : KeepsMemory d (finishOp q idx o r e d) := by
  unfold finishOp
  simp only [hr, Bool.false_eq_true, if_false]
  refine (reported_keepsMemory o.detail d).trans (KeepsMemory.trans ?_ (.of_work (modIssue_only ..)))
  split
  · exact .of_work (setEntry_only ..)
  · exact .refl _

theorem endOp_keepsMemory {q : QRef} {idx : Nat} {e : Entry} {i : OpIssue} {d : Dev}
    (he : (queueOf d q).cur = some e) (hi : openIssue e idx = some i) (hr : recComplete i.record = false) :
    KeepsMemory d (endOp q idx d) := by
  obtain ⟨_, r, wait⟩ := i
  have hpoint (f : OpIssue → OpIssue) {x : Dev} (h : OnlyChain d x) : KeepsMemory d (modIssue q idx f x) :=
    (KeepsMemory.of_chain h).trans (.of_work (modIssue_only ..))
  have hfinish (o : OpOut) {x : Dev} (h : OnlyChain d x) : KeepsMemory d (finishOp q idx o r e x) :=
    (KeepsMemory.of_chain h).trans (finishOp_keepsMemory hr)
  simp only [endOp, he, hi]
  split
  · exact .refl d
  · cases wait with
    | out o =>
      dsimp only
      split
      · exact hpoint _ (sendPoint_only ..)
      · split
        · split
          · exact hpoint _ (modMirrorCtx_only ..)
          · exact .refl d
        · exact hfinish _ (.refl d)
    | ack o =>
      dsimp only
      split
      · exact .refl d
      · split
        · split
          · exact hfinish _ (modMirrorCtx_only ..)
          · exact .refl d
        · exact hfinish _ (.refl d)
    | _ => exact .refl d

theorem setEntry_cur (q : QRef) (e : Option Entry) (d : Dev) : (queueOf (setEntry q e d) q).cur = e := by
  rw [setEntry, queueOf_setQueue_same]

/-- The open issues of an op give way to its new one. -/
theorem openIssue_replaced {i : OpIssue} {k : Nat} (e : Entry) (n : Nat) (hk : i.idx = k) (hi : issueOpen i = true) :
    openIssue { e with
      issues := e.issues.filter (fun j => !(j.idx == k && issueOpen j)) ++ [i], next := n } k = some i := by
  subst hk
  have hnew : (i.idx == i.idx && issueOpen i) = true := by rw [beq_self_eq_true, hi, Bool.and_self]
  have hfresh : (e.issues.filter (fun j => !(j.idx == i.idx && issueOpen j))).find?
      (fun j => j.idx == i.idx && issueOpen j) = none := by
    rw [List.find?_eq_none]
    intro j hj
    have hj' := (List.mem_filter.1 hj).2
    rwa [Bool.not_eq_true', ← Bool.not_eq_true] at hj'
  rw [openIssue, List.find?_append, hfresh, Option.none_or,
    List.find?_cons_of_pos (p := fun j => j.idx == i.idx && issueOpen j) hnew]

/-- An issue that is added is the open issue of its op. -/
theorem addIssue_open {q : QRef} {i : OpIssue} {n : Nat} {e : Entry} {d : Dev} (he : (queueOf d q).cur = some e)
    (hi : issueOpen i = true) :
    ∃ e' j, (queueOf (addIssue q i n d) q).cur = some e' ∧ openIssue e' i.idx = some j ∧ j.record = i.record := by
  unfold addIssue
  simp only [he]
  exact ⟨_, _, setEntry_cur .., openIssue_replaced e n rfl hi, rfl⟩

@[simp] theorem queueOf_modCtx (c : Nat) (f : Ctx → Ctx) (d : Dev) (q : QRef) : queueOf (modCtx c f d) q = queueOf d q := by
  unfold modCtx
  split
  · exact queueOf_setCtx ..
  · rfl

theorem opSteps_cur (q : QRef) (n : Nat) (d : Dev) : (queueOf (opSteps q n d) q).cur = (queueOf d q).cur := by
  unfold opSteps
  split
  · rfl
  · dsimp only
    split <;> simp

/-- An op without COMPLETE that ends at once: memory and the host side are as its own effect left them. -/
theorem opEnds_keepsMemory {q : QRef} {e x : Entry} {o n k : Nat} {r : Bytes} {out : OpOut} {d : Dev} {s : State}
    (he : (queueOf d q).cur = some x) (hr : recComplete r = false) (hheld : d.host.held = []) :
    KeepsMemory d (opEnds q e o r out n k d s).dev := by
  obtain ⟨e', j, hcur, hj, hrec⟩ := addIssue_open (q := q) (i := opIssue e o r (.out out)) (n := k)
    (d := { d with actor := none }) (e := x) he rfl
  have hwork : KeepsMemory d (opSteps q n (addIssue q (opIssue e o r (.out out)) k { d with actor := none })) :=
    KeepsMemory.trans (e := { d with actor := none }) ⟨rfl, rfl⟩ (.of_work ((addIssue_only ..).trans (opSteps_only ..)))
  have hend := hwork.trans (endOp_keepsMemory (idx := e.next) (by rw [opSteps_cur, hcur]) hj (by rw [hrec]; exact hr))
  rw [opEnds, withMem_unheld (by rw [hend.host, hheld])]
  exact hend.trans (.of_work (wakeFences_only _))

/- FILL. -/

/-- Indirect operands lie in device memory: reads that meet no memory error leave the device. -/
theorem resolve_quiet {q : QRef} {e : Entry} {o : Nat} {l : List Nat} {r y : Bytes} {d d' : Dev}
    (hi : d.fc.injected = []) (hb : d.mem.writeback = []) (h : resolve (opEnv q e o) e r l d = .ok y d') : d' = d := by
  induction l generalizing r with
  | nil => cases h; rfl
  | cons w ws ih =>
    unfold resolve at h
    split at h
    · obtain ⟨v, d1, hv, hrest⟩ := bind_inv h
      obtain ⟨bs, d2, hrd, hd2⟩ := bind_inv hv
      cases hd2
      have hsame : d1 = d := by
        cases hh : isHost (e.paramAddr + opnd r w) with
        | false =>
          have hrd' := hrd
          obtain ⟨⟨⟩, d3, hform, -⟩ := bind_inv hrd'
          obtain ⟨hf, -⟩ := checkAddr_inv hform
          rw [rd_device hf hh] at hrd
          exact readWords_quiet hi hb (devRead_inv hrd).2
        | true =>
          rw [rd_host hh (by decide)] at hrd
          cases hrd
      subst hsame
      exact ih hrest
    · exact ih h

theorem fillBytes_getD {a n p b : Nat} (ha : a ≤ b) (hb : b < a + n) :
    (fillBytes a n p).getD (b - a) 0 = BitVec.ofNat 8 (p / 2 ^ (8 * (b % 8))) := by
  have hlt : b - a < n := by omega
  have hat : a + (b - a) = b := by omega
  rw [List.getD_eq_getElem?_getD, fillBytes, List.getElem?_map, List.getElem?_range hlt, Option.map_some,
    Option.getD_some, hat]

@[simp] theorem length_fillBytes (a n p : Nat) : (fillBytes a n p).length = n := by simp [fillBytes]

/-- Settles O56: the issue and its end leave memory, and the store of the body writes the destination byte by byte. -/
theorem fillReachesExactlyItsBytes : Obligations.FillReachesExactlyItsBytes := by
  intro s t q e o r x d d' h hn hd hdest hw hr hinj hwb hheld hexec
  have hrow := opRow_done h (bodyFill_ok (env := opEnv q e o) hn hdest (wrPart_of_devWrite hd hw))
  obtain rfl : _ = t := Host.Outcome.next.inj (hrow.symm.trans hexec)
  obtain ⟨y, hy, -⟩ := h.operands
  obtain rfl : d = acting e s.dev := resolve_quiet hinj hwb hy
  obtain ⟨d1, hwords, rfl⟩ := devWrite_inv hw
  obtain rfl : d1 = acting e s.dev := readWords_quiet hinj hwb hwords
  have hkeeps : KeepsMemory (devStore (opnd x 0) (fillBytes (opnd x 0) (opnd x 2) (opnd x 1)) (acting e s.dev))
      (opEnds q e o r { detail := opnd x 2 } (transferSteps (opnd x 2)) (e.next + 1)
        (devStore (opnd x 0) (fillBytes (opnd x 0) (opnd x 2) (opnd x 1)) (acting e s.dev)) s).dev :=
    opEnds_keepsMemory (by rw [queueOf_devStore]; exact h.due.entry) hr hheld
  rw [hkeeps.mem, hkeeps.host]
  refine ⟨fun a hlo hhi => ?_, fun a hout => ?_, rfl⟩
  · rw [memByte_devStore, length_fillBytes, if_pos ⟨hlo, hhi⟩, fillBytes_getD hlo hhi]
  · rw [memByte_devStore, length_fillBytes, if_neg (by omega)]
    rfl

end Sys2Proof.Proofs
end

section
/-! PROOFS. R289 to R295, R301 to R306: doorbells, the registers of kernel queues, interrupt vectors, dispatch, watch,
and the actions of QUEUE_CTL. -/

namespace Sys2Proof.Proofs

open Sys2Proof Sys2Proof.Machine Sys2Proof.Laws

/- The state that a command answers. -/

theorem next_dev {s : State} {d d' : Dev} (h : d = d') :
    (.next (withDev s d) : Host.Outcome State Fault Refusal) = .next (withDev s d') := by rw [h]

theorem next_mem {s : State} {d d' : Dev} (h : d = d') :
    (.next (withMem s d) : Host.Outcome State Fault Refusal) = .next (withMem s d') := by rw [h]

/- Doorbells. -/

theorem low_of_lt {w n : Nat} (h : n < 2 ^ w) : low w n = n := Nat.mod_eq_of_lt h

theorem badDoorbell_false {v size : Nat} (hv : v < 2 ^ 16) (hs : v < size) : badDoorbell v size = false := by
  have hhigh : bits v 16 16 = 0 := by simp only [bits]; omega
  simp [badDoorbell, hhigh, low_of_lt hv, hs]

theorem badDoorbell_true {v size : Nat} (hv : v < 2 ^ 32) (h : 2 ^ 16 ≤ v ∨ size ≤ v % 2 ^ 16) :
    badDoorbell v size = true := by
  rw [badDoorbell, Bool.or_eq_true, bne_iff_ne, decide_eq_true_iff, bits, low]
  rcases h with h | h
  · exact .inl (by omega)
  · exact .inr h

section
variable {q : QRef} {v : Nat} {d : Dev} (hu : unboundUser d q = false)
include hu

theorem sqTailWrite_good (hv : v < 2 ^ 16) (hs : v < sqSize (queueOf d q)) :
    sqTailWrite q v d = setQueue q
      { queueOf d q with sqTail := v, wake := (queueOf d q).wake || (queueOf d q).state == .idle } d := by
  simp only [sqTailWrite, hu, badDoorbell_false hv hs, low_of_lt hv, Bool.false_eq_true, if_false]

theorem cqHeadWrite_good (hv : v < 2 ^ 16) (hs : v < cqSize (queueOf d q)) :
    cqHeadWrite q v d = resumeQueue q (setQueue q { queueOf d q with cqHead := v } d) := by
  simp only [cqHeadWrite, hu, badDoorbell_false hv hs, low_of_lt hv, Bool.false_eq_true, if_false]

theorem sqTailWrite_bad (hv : v < 2 ^ 32) (h : 2 ^ 16 ≤ v ∨ sqSize (queueOf d q) ≤ v % 2 ^ 16) :
    sqTailWrite q v d = doorbellError q v d := by
  simp only [sqTailWrite, hu, badDoorbell_true hv h, Bool.false_eq_true, if_false, if_true]

theorem cqHeadWrite_bad (hv : v < 2 ^ 32) (h : 2 ^ 16 ≤ v ∨ cqSize (queueOf d q) ≤ v % 2 ^ 16) :
    cqHeadWrite q v d = doorbellError q v d := by
  simp only [cqHeadWrite, hu, badDoorbell_true hv h, Bool.false_eq_true, if_false, if_true]

end

/- The registers of kernel queues. -/

/-- ENABLE is kept by the mask of CONFIG. -/
theorem bit_configMask {v : Nat} (h : bit v 31 = true) : bits (configMask v) 31 1 = 1 := by
  have h0 : bits v 0 5 < 2 ^ 5 := Nat.mod_lt _ (by decide)
  have h8 : bits v 8 5 < 2 ^ 5 := Nat.mod_lt _ (by decide)
  have h16 : bits v 16 11 < 2 ^ 11 := Nat.mod_lt _ (by decide)
  have h28 : bits v 28 2 < 2 ^ 2 := Nat.mod_lt _ (by decide)
  rw [configMask, beq_iff_eq.1 h, bits]
  omega

/-- CONFIG with ENABLE set is what is left of it without ENABLE, with ENABLE. -/
theorem sub_enable_add {c : Nat} (h : bits c 31 1 = 1) : c - bits c 31 1 * 2 ^ 31 + 2 ^ 31 = c := by
  rw [h]
  simp only [bits] at h
  omega

theorem enabledQueue_config {x : Queue} {v : Nat} (h : bit v 31 = true) :
    (enabledQueue { x with config := configMask v }).config = configMask v := sub_enable_add (bit_configMask h)

theorem kernelConfigWrite_enables {k : Fin 16} {v : Nat} {d : Dev} (ho : hostOwns d = true) (hv : bit v 31 = true)
    (hs : (queueOf d (.kernel k)).state = .disabled)
    (hr : ringsOk (queueOf d (.kernel k)).sqBase (queueOf d (.kernel k)).cqBase (configMask v) = true) :
    kernelConfigWrite k v d =
      setQueue (.kernel k) (enabledQueue { queueOf d (.kernel k) with config := configMask v }) d := by
  simp only [kernelConfigWrite, ho, hv, hs, hr, Bool.not_true, Bool.false_eq_true, if_false, if_true]

theorem kernelConfigWrite_disables {k : Fin 16} {v : Nat} {d : Dev} (ho : hostOwns d = true) (hv : bit v 31 = false)
    (hs : (queueOf d (.kernel k)).state ≠ .disabled) :
    kernelConfigWrite k v d = stopQueue (.kernel k) stAbortedDisabled true (setQueue (.kernel k)
      { queueOf d (.kernel k) with
        config := bits (queueOf d (.kernel k)).config 0 16 + bits (configMask v) 16 15 * 2 ^ 16 } d) := by
  simp only [kernelConfigWrite, ho, hv, hs, Bool.not_true, Bool.false_eq_true, if_false]

/-- Settles O3: the range of a doorbell's value, and the branch of the CONFIG write. -/
theorem queueRegistersAct : Obligations.QueueRegistersAct := by
  refine ⟨fun s q v hr hb hu => ?_, fun s k v hr hb ho => ?_⟩
  · have hgate {f : Dev → Dev} {d' : Dev} (hf : f s.dev = d') :
        (if (hostReach s.dev && s.dev.boot.ready) = true then f s.dev else s.dev) = d' := by simp only [hr, hb, hf,
          Bool.and_self, if_true]
    refine ⟨fun hv hs => ?_, fun hv hs => ?_, fun h => ?_, fun h => ?_⟩
    · exact next_dev (hgate (sqTailWrite_good hu hv hs))
    · exact next_mem (hgate (cqHeadWrite_good hu hv hs))
    · exact next_dev (hgate (sqTailWrite_bad hu v.isLt h))
    · exact next_mem (hgate (cqHeadWrite_bad hu v.isLt h))
  · have hgate {b : Bool} {f : Dev → Dev} {d' : Dev} (hb' : b = true) (hf : f s.dev = d') :
        (if (hostReach s.dev && s.dev.boot.ready && b) = true then f s.dev else s.dev) = d' := by simp only [hr, hb, hf,
          hb', Bool.and_self, if_true]
    refine ⟨fun hv hs hok => ?_, fun hv hs => ?_, ?_⟩
    · have hwrite := kernelConfigWrite_enables ho hv hs hok
      unfold enabledQueue at hwrite
      rw [show disabledConfig { queueOf s.dev (.kernel k) with config := configMask v.toNat } + 2 ^ 31 =
        configMask v.toNat from enabledQueue_config (x := queueOf s.dev (.kernel k)) hv] at hwrite
      exact next_dev (hgate hv hwrite)
    · exact next_mem (hgate (by rw [hv]; rfl) (kernelConfigWrite_disables ho hv hs))
    · have habort : kernelAbort k s.dev = stopQueue (.kernel k) stAborted false s.dev := if_pos ho
      exact next_mem ((if_pos (by rw [hr, hb]; rfl)).trans habort)

/- Interrupt vectors. -/

theorem emitMsi_sends {v : Nat} {d : Dev} (hq : d.host.quiesced = false) (hw : hostWaits d = false) :
    emitMsi v d = { d with host := { d.host with
      sent := d.host.sent ++ [{ vector := v, addr := (msixOf d v).addr, data := (msixOf d v).data }] } } := by
  simp only [emitMsi, hq, hw, Bool.false_eq_true, if_false]

theorem unmask_quiet {v : Nat} {d : Dev} (hp : (msixOf d v).pending = false) :
    unmask v d = setMsix v { msixOf d v with masked := false } d := by
  simp only [unmask, hp, Bool.false_and, Bool.false_eq_true, if_false]

theorem unmask_pending {v : Nat} {d : Dev} (hp : (msixOf d v).pending = true) (hm : d.host.msixMaskAll = false)
    (he : d.host.msixEnable = true) :
    unmask v d = emitMsi v (setMsix v { msixOf d v with masked := false, pending := false } d) := by
  simp only [unmask, hp, hm, he, Bool.not_false, Bool.and_self, if_true]

theorem exec_msixUnmask {s : State} {v : Fin 2048} (hr : hostReach s.dev = true) (hb : s.dev.boot.ready = true) :
    exec (.msixUnmask v) s = .next (withDev s (unmask v.val s.dev)) :=
  next_dev (if_pos (by rw [hr, hb]; rfl))

/-- Settles O4: the message that leaves carries the address and data of the vector just unmasked. -/
theorem unmaskingSendsThePendingMessage : Obligations.UnmaskingSendsThePendingMessage := by
  intro s v hr hb
  refine ⟨fun hp => by rw [exec_msixUnmask hr hb, unmask_quiet hp], fun hp hm he hq hw => ⟨_, exec_msixUnmask hr hb, ?_⟩⟩
  rw [unmask_pending hp hm he, emitMsi_sends (d := setMsix v.val _ s.dev) hq hw]
  refine ⟨msixOf_setMsix_same .., ?_⟩
  rw [msixOf_setMsix_same]
  rfl

/- Dispatch in turn. -/

/-- Round robin over 16 takes the number that comes first after the last one. -/
theorem roundRobin_first {p : Nat → Bool} {last k : Nat} (hk : k < 16) (hp : p k = true)
    (hmin : ∀ j < 16, p j = true → (k + 15 - last % 16) % 16 ≤ (j + 15 - last % 16) % 16) :
    roundRobin 16 last p = some k := by
  have hturn : (last + 1 + (k + 15 - last % 16) % 16) % 16 = k := by omega
  have hfind : (List.range 16).find? (p ∘ fun i => (last + 1 + i) % 16) = some ((k + 15 - last % 16) % 16) := by
    rw [List.find?_range_eq_some]
    refine ⟨by rw [Function.comp_apply, hturn, hp], List.mem_range.2 (Nat.mod_lt _ (by decide)), fun i hi => ?_⟩
    rw [Bool.not_eq_true', Function.comp_apply, ← Bool.not_eq_true]
    intro hpi
    have hle := hmin _ (Nat.mod_lt _ (by decide)) hpi
    omega
  rw [roundRobin, List.find?_map, hfind, Option.map_some, hturn]

theorem finOfNat_val {n : Nat} [NeZero n] (k : Fin n) : Fin.ofNat n k.val = k := Fin.ext (Nat.mod_eq_of_lt k.isLt)

theorem pickQueue_kernel {d : Dev} {k : Fin 16} (hk : fetchable d (.kernel k) = true)
    (hmin : ∀ j : Fin 16, fetchable d (.kernel j) = true →
      (k.val + 15 - d.cur.lastKernel % 16) % 16 ≤ (j.val + 15 - d.cur.lastKernel % 16) % 16) :
    pickQueue d = some (.kernel k) := by
  have hfirst : roundRobin 16 d.cur.lastKernel (fun k => fetchable d (.kernel (Fin.ofNat 16 k))) = some k.val := by
    refine roundRobin_first k.isLt (by rw [finOfNat_val]; exact hk) fun j hj hp => ?_
    exact hmin ⟨j, hj⟩ (by rwa [← finOfNat_val (⟨j, hj⟩ : Fin 16)])
  simp only [pickQueue, hfirst, finOfNat_val]

theorem dispatchNext_kernel {d : Dev} {k : Fin 16} (hb : d.boot.ready = true) (hs : d.fc.safeState = false)
    (h3 : d.host.d3 = false) (hp : pickQueue d = some (.kernel k)) :
    dispatchNext d = { dispatch (.kernel k) d with cur := { (dispatch (.kernel k) d).cur with lastKernel := k.val } } := by
  simp only [dispatchNext, hb, hs, h3, hp, Bool.not_true, Bool.or_self, Bool.false_eq_true, if_false]

theorem finishEntry_completes {q : QRef} {e : Entry} {d : Dev} (he : (queueOf d q).cur = some e)
    (hd : entryDone e = true) (hq : entryQuiet e = true) (hy : yieldedCtx d e.ctx = false) (hr : complRoom d q = true) :
    finishEntry q d = settleQueue q (setQueue q
      { queueOf (postCompl q e.irq (terminalCompl d e) d) q with cur := none, cqWait := false }
      (postCompl q e.irq (terminalCompl d e) d)) := by
  simp only [finishEntry, he, hd, hq, hy, hr, Bool.not_false, Bool.and_self, if_true]

/-- Settles O5: the queue whose turn it is, the entry's end, and the sample of every queue. -/
theorem workIsDispatchedCompletedAndWatched : Obligations.WorkIsDispatchedCompletedAndWatched := by
  refine ⟨fun s k hb hs h3 hk hmin => ?_, fun s q e he hd hq hy hr => ?_, fun s => rfl⟩
  · exact next_dev (dispatchNext_kernel hb hs h3 (pickQueue_kernel hk hmin))
  · exact next_mem (congrArg (pumpQueue q) (finishEntry_completes he hd hq hy hr))

/- QUEUE_CTL. -/

theorem queueDescr_ok {env : OpEnv} {x b : Bytes} {d d1 : Dev} (hd : descriptor env x 64 d = .ok b d1)
    (hb : queueCtlBad b = none) : queueDescr env x d = .ok b d1 := by
  unfold queueDescr
  rw [bind_ok hd, hb]
  rfl

theorem modCtx_of_some {c : Nat} {x : Ctx} {f : Ctx → Ctx} {d : Dev} (h : ctxOf d c = some x) :
    modCtx c f d = setCtx c (f x) d := by
  simp only [modCtx, h]

theorem ctlCtx_ok {b : Bytes} {c : Ctx} {d : Dev} (h : ctxOf d (bits (u16 b 6) 0 10) = some c) :
    ctlCtx b d = .ok (bits (u16 b 6) 0 10, c) d := by
  unfold ctlCtx
  rw [bind_ok get_ok]
  simp only [h]
  rfl

theorem ctlWait_ok {w : OpWait} {done : Dev → Bool} {d : Dev} :
    ctlWait w done d = .ok (if done d = true then .done { detail := anyDetail } 1 else .running w 0) d := by
  unfold ctlWait
  rw [bind_ok get_ok]
  split <;> rfl

theorem ctlCreate_ok {b : Bytes} {c : Ctx} {d : Dev} (hs : addrForm (u64 b 8) = true) (hc : addrForm (u64 b 0x10) = true)
    (hb : (queueOf d (ctlQueue b)).bound = false) (hx : ctxOf d (bits (u16 b 6) 0 10) = some c) :
    ctlCreate b d = .ok (.done { detail := anyDetail } 1) (setQueue (ctlQueue b)
      { sqBase := u64 b 8, cqBase := u64 b 0x10, config := u32 b 0x18, irqCount := u16 b 0x1C,
        context := bits (u16 b 6) 0 10, bound := true } d) := by
  unfold ctlCreate
  rw [bind_ok get_ok, bind_ok (checkAddr_ok hs), bind_ok (checkAddr_ok hc), bind_ok (require_true (by rw [hb]; rfl)),
    bind_ok (ctlCtx_ok hx)]
  rfl

theorem ctlDestroy_ok {b : Bytes} {d : Dev} (hb : (queueOf d (ctlQueue b)).bound = true)
    (hs : (queueOf d (ctlQueue b)).state = .disabled) :
    ctlDestroy b d = .ok (.done { detail := anyDetail } 1) (setQueue (ctlQueue b) {} d) := by
  unfold ctlDestroy
  rw [bind_ok get_ok, bind_ok (requireFmt_true hb), bind_ok (require_true (by rw [hs]; rfl)), bind_ok change_ok]
  rfl

theorem ctlEnable_ok {b : Bytes} {d : Dev} (hb : (queueOf d (ctlQueue b)).bound = true)
    (hs : (queueOf d (ctlQueue b)).state = .disabled) (hc : ctxClosed d (queueOf d (ctlQueue b)).context = false) :
    ctlEnable b d = .ok (.done { detail := anyDetail } 1) (setQueue (ctlQueue b)
      { enabledQueue (queueOf d (ctlQueue b)) with configError := false, doorbellError := false } d) := by
  unfold ctlEnable
  rw [bind_ok get_ok, bind_ok (requireFmt_true hb), bind_ok (require_true (by rw [hs, hc]; rfl)), bind_ok change_ok]
  rfl

theorem ctlDisable_ok {b : Bytes} {d : Dev} (hb : (queueOf d (ctlQueue b)).bound = true) :
    ctlDisable b d = .ok
      (if (queueOf (stopQueue (ctlQueue b) stAbortedDisabled true d) (ctlQueue b)).state = .disabled then
        .done { detail := anyDetail } 1 else .running (.queue (ctlQueue b) false) 0)
      (stopQueue (ctlQueue b) stAbortedDisabled true d) := by
  unfold ctlDisable
  rw [bind_ok get_ok, bind_ok (requireFmt_true hb), bind_ok change_ok, ctlWait_ok]
  simp only [beq_iff_eq]

theorem ctlAbort_ok {b : Bytes} {d : Dev} (hb : (queueOf d (ctlQueue b)).bound = true)
    (hs : (queueOf d (ctlQueue b)).state ≠ .disabled) :
    ctlAbort b d = .ok
      (if (queueOf (stopQueue (ctlQueue b) stAborted false d) (ctlQueue b)).flush = none then
        .done { detail := anyDetail } 1 else .running (.queue (ctlQueue b) true) 0)
      (stopQueue (ctlQueue b) stAborted false d) := by
  unfold ctlAbort
  rw [bind_ok get_ok, bind_ok (requireFmt_true hb), bind_ok (require_true (bne_iff_ne.2 hs)), bind_ok change_ok, ctlWait_ok]
  simp only [Option.isNone_iff_eq_none]

theorem ctlCtxDisable_ok {b : Bytes} {c : Ctx} {d d2 : Dev} (hx : ctxOf d (bits (u16 b 6) 0 10) = some c)
    (hd2 : d2 = stopCtxQueues (bits (u16 b 6) 0 10) stAbortedDisabled
      (setCtx (bits (u16 b 6) 0 10) { c with disabled := true } d)) :
    ctlCtxDisable b d = .ok
      (if (boundQueues d2 (bits (u16 b 6) 0 10)).all (fun k => (queueOf d2 k).state == .disabled) = true then
        .done { detail := anyDetail } 1 else .running (.ctxQueues (bits (u16 b 6) 0 10)) 0) d2 := by
  rw [hd2, ← modCtx_of_some (f := fun c => { c with disabled := true }) hx]
  unfold ctlCtxDisable
  rw [bind_ok (ctlCtx_ok hx)]
  dsimp only
  rw [bind_ok change_ok, ctlWait_ok]

theorem ctlCtxEnable_ok {b : Bytes} {c : Ctx} {d : Dev} (hx : ctxOf d (bits (u16 b 6) 0 10) = some c) :
    ctlCtxEnable b d = .ok (.done { detail := anyDetail } 1)
      (setCtx (bits (u16 b 6) 0 10) { c with disabled := false, terminated := false } d) := by
  rw [← modCtx_of_some (f := fun c => { c with disabled := false, terminated := false }) hx]
  unfold ctlCtxEnable
  rw [bind_ok (ctlCtx_ok hx)]
  rfl

/-- The action of QUEUE_CTL of a number (Table 12.3). -/
def ctlAction (b : Bytes) (act : Nat) : Act OpRes :=
  match act with
  | 0 => ctlCreate b
  | 1 => ctlDestroy b
  | 2 => ctlEnable b
  | 3 => ctlDisable b
  | 4 => ctlAbort b
  | 5 => ctlCtxDisable b
  | 6 => ctlCtxEnable b
  | _ => ctlWatch b

theorem queueCtlBody_action {env : OpEnv} {x b : Bytes} {d d1 : Dev} (h : queueDescr env x d = .ok b d1) :
    queueCtlBody env x d = ctlAction b (bits (u16 b 2) 0 4) d1 := by
  unfold queueCtlBody
  rw [bind_ok h]
  rfl

/-- QUEUE_CTL runs an action: the row's number is the descriptor's. -/
structure CtlRuns (s : State) (q : QRef) (e : Entry) (o : Nat) (r x b : Bytes) (d1 : Dev) : Prop where
  runs : ∃ d, OpRuns s q 0xC8 e o r x d ∧ queueDescr (opEnv q e o) x d = .ok b d1
  names : queueAction s.dev (operandsNow s.dev e r) = bits (u16 b 2) 0 4

theorem queueCtlRow_done {s : State} {q : QRef} {e : Entry} {o act : Nat} {r x b : Bytes} {d1 d2 : Dev}
    (h : CtlRuns s q e o r x b d1) (ha : bits (u16 b 2) 0 4 = act)
    (hb : ctlAction b act d1 = .ok (.done { detail := anyDetail } 1) d2) :
    queueCtlRow q act s = .next (opOk q e o r anyDetail d2 s) := by
  obtain ⟨⟨d, hr, hd⟩, hn⟩ := h
  subst ha
  exact actionRow_done hr hn ((queueCtlBody_action hd).trans hb)

/-- An action that ends at once where a condition holds, and waits where it does not. -/
theorem queueCtlRow_ite {s : State} {q : QRef} {e : Entry} {o act : Nat} {r x b : Bytes} {d1 d2 : Dev} {p : Prop}
    [Decidable p] {w : OpWait} (h : CtlRuns s q e o r x b d1) (ha : bits (u16 b 2) 0 4 = act)
    (hb : ctlAction b act d1 = .ok (if p then .done { detail := anyDetail } 1 else .running w 0) d2) :
    queueCtlRow q act s =
      .next (if p then opOk q e o r anyDetail d2 s else opWaits q e o r w 0 d2 s) := by
  split
  · next hp => exact queueCtlRow_done h ha (by rw [hb, if_pos hp])
  · next hp =>
    rw [if_neg hp] at hb
    obtain ⟨⟨d, hr, hd⟩, hn⟩ := h
    subst ha
    exact actionRow_running hr hn ((queueCtlBody_action hd).trans hb)

/-- Settles O10: the descriptor read and checked, each action by the lemma about it. -/
theorem queueControlActs : Obligations.QueueControlActs := by
  refine ⟨fun s q e o r x b d d1 hr hd hb hn => ?_, fun s q e o r x b d d1 hr hd hb hn => ?_⟩
  · have h : CtlRuns s q e o r x b d1 := ⟨⟨d, hr, queueDescr_ok hd hb⟩, hn⟩
    refine ⟨fun c ha hs hc hu hx => ?_, fun ha hu hs => ?_, fun ha hu hs hc => ?_, fun ha hu => ?_, fun ha hu hs => ?_⟩
    · exact queueCtlRow_done h ha (ctlCreate_ok hs hc hu hx)
    · exact queueCtlRow_done h ha (ctlDestroy_ok hu hs)
    · exact queueCtlRow_done h ha (ctlEnable_ok hu hs hc)
    · exact queueCtlRow_ite h ha (ctlDisable_ok hu)
    · exact queueCtlRow_ite h ha (ctlAbort_ok hu hs)
  · have h : CtlRuns s q e o r x b d1 := ⟨⟨d, hr, queueDescr_ok hd hb⟩, hn⟩
    refine ⟨fun c d2 ha hx hd2 => ?_, fun c ha hx => ?_, fun ha => ?_⟩
    · exact queueCtlRow_ite h ha (ctlCtxDisable_ok hx hd2)
    · exact queueCtlRow_done h ha (ctlCtxEnable_ok hx)
    · exact queueCtlRow_done h ha rfl

/- Contexts. -/

theorem bodyContextCreate_ok {env : OpEnv} {x : Bytes} {d : Dev} (h : ctxOf d env.ctx = none) :
    bodyContextCreate env x d = .ok (.done { detail := anyDetail } 1) (setCtx env.ctx {} d) := by
  unfold bodyContextCreate
  rw [bind_ok get_ok, bind_ok (require_true (by rw [h]; rfl)), bind_ok (require_true (by rw [h]; rfl)), bind_ok change_ok]
  rfl

theorem bodyContextDestroy_ok {env : OpEnv} {x : Bytes} {c : Ctx} {d : Dev} (h : ctxOf d env.ctx = some c)
    (hq : ∀ k ∈ boundQueues d env.ctx, (queueOf d k).state = .disabled) (ho : openOps d env.ctx (env.q, env.idx) = []) :
    bodyContextDestroy env x d = .ok (.done { detail := anyDetail } 1) (destroyCtx env.ctx d) := by
  have hall : (boundQueues d env.ctx).all (fun q => (queueOf d q).state == .disabled) = true := by
    simpa using hq
  unfold bodyContextDestroy
  rw [bind_ok get_ok, bind_ok (require_true (by rw [h]; rfl)), bind_ok (require_true hall),
    bind_ok (require_true (by rw [ho]; rfl)), bind_ok change_ok]
  rfl

/-- What follows both branches follows their choice. -/
theorem ite_then {α β : Type} {p : Prop} [Decidable p] {f g : Act α} {k : α → Act β} :
    (if p then f >>= k else g >>= k) = (if p then f else g) >>= k := by
  split <;> rfl

/-- The context with the placement and save area of a PLACE descriptor. -/
def placed (h raw : Bytes) (c : Ctx) : Ctx :=
  { c with place := hallRecords (u8 h 2) raw, saveBase := u64 h 0x10, saveBytes := u64 h 0x18 }

theorem lowestBad_nil {l : List (Nat × Bool)} (h : ∀ p ∈ l, p.2 = true) : lowestBad l = none := by
  rw [lowestBad, Option.map_eq_none_iff, List.find?_eq_none]
  intro p hp
  rw [h p hp]
  decide

theorem bodyPlace_ok {q : QRef} {e : Entry} {o : Nat} {x h raw : Bytes} {c : Ctx} {d d1 d2 : Dev}
    (hc : ctxOf d e.ctx = some c) (hd : descriptor (opEnv q e o) x 64 d = .ok h d1)
    (h0 : u16 h 0 = 3) (h2 : u8 h 2 ≤ 16) (h3 : nonzeroIn h 3 5 = none) (h8 : u8 h 2 ≠ 0 ∨ u64 h 8 = 0)
    (hraw : if u8 h 2 = 0 then raw = [] ∧ d2 = d1 else rd (opEnv q e o) (u64 h 8) (16 * u8 h 2) d1 = .ok raw d2)
    (hgood : placeBad d.mem h (hallRecords (u8 h 2) raw) (chunks 16 (u8 h 2) raw) = none)
    (hfree : placeBusy d2 e.ctx c (placed h raw c) (q, e.next) (hallRecords (u8 h 2) raw) = none)
    (hfits : 66560 * treadsPlaced (hallRecords (u8 h 2) raw) ≤ u64 h 0x18) :
    bodyPlace (opEnv q e o) x d =
      .ok (.done { detail := anyDetail } 1) (leaveUnits (modCtx e.ctx (placed h raw) d2)) := by
  have hctx : ctxOf d (opEnv q e o).ctx = some c := hc
  have hhead : lowestBad [(0, u16 h 0 == 3), (2, decide (u8 h 2 ≤ 16)), (3, (nonzeroIn h 3 5).isNone),
      (8, u8 h 2 != 0 || u64 h 8 == 0)] = none :=
    lowestBad_nil (by simpa [h0, h2, h3] using h8)
  have hrecs : (if u8 h 2 = 0 then (pure [] : Act Bytes) else rd (opEnv q e o) (u64 h 8) (16 * u8 h 2)) d1 =
      .ok raw d2 := by
    split
    · next hz =>
      rw [if_pos hz] at hraw
      obtain ⟨rfl, rfl⟩ := hraw
      rfl
    · next hz => rwa [if_neg hz] at hraw
  have hbusy : placeBusy d2 (opEnv q e o).ctx c (placed h raw c) ((opEnv q e o).q, (opEnv q e o).idx)
      (hallRecords (u8 h 2) raw) = none := hfree
  unfold placed at hbusy
  unfold bodyPlace
  rw [bind_ok get_ok]
  simp only [hctx]
  rw [bind_ok pure_ok, bind_ok hd]
  simp only [hhead]
  rw [ite_then, bind_ok hrecs]
  simp only [hgood]
  rw [bind_ok get_ok]
  simp only [hbusy]
  rw [bind_ok (require_true (decide_eq_true hfits)), bind_ok change_ok]
  rfl

/-- Settles O11: the bodies' checks passed in their order. -/
theorem contextsAreCreatedPlacedAndDestroyed : Obligations.ContextsAreCreatedPlacedAndDestroyed := by
  refine ⟨⟨fun s q e o r x d h hc => ?_, fun s q e o r x d c h hc hq ho => ?_⟩, ?_⟩
  · exact opRow_done h (bodyContextCreate_ok hc)
  · exact opRow_done h (bodyContextDestroy_ok hc hq ho)
  · intro s q e o r x h raw d d1 d2 c hr hc hd h0 h2 h3 h8 hraw hgood hfree hfits
    exact opRow_done hr (bodyPlace_ok hc hd h0 h2 h3 h8 hraw hgood hfree hfits)

end Sys2Proof.Proofs
end

section
/-! PROOFS. R265 to R268, R431 to R433, R437: the actions of POWER_STATE, SELFTEST and CALIBRATE. -/

namespace Sys2Proof.Proofs

open Sys2Proof Sys2Proof.Machine Sys2Proof.Laws

/- POWER_STATE. -/

/-- The action of POWER_STATE of a number. -/
def powerAct (f : List MarchFinding) (env : OpEnv) (b : Bytes) (act : Nat) : Act OpRes :=
  match act with
  | 0 => do
    change (fun d => setPower { d.power with presetNext := presetMhz (bits (u16 b 6) 0 2) } d)
    doneOk 0
  | 1 => do
    change (fun d =>
      let next := (setBits (BitVec.ofNat 16 (u16 b 4))).foldl (fun l h => setAt h (u16 b 8) l) d.power.hallCeilNext
      setPower { d.power with hallCeilNext := next } d)
    doneOk 0
  | 2 => hallsOff (u16 b 4) (bit (u16 b 2) 3)
  | 3 => hallsOn (u16 b 4) f
  | 4 => setVf env (u16 b 0xA) (u16 b 0xC) (u64 b 0x10)
  | _ => clearVf (u16 b 0xA) (u16 b 0xC)

theorem powerBody_action {f : List MarchFinding} {env : OpEnv} {x b : Bytes} {d d1 : Dev}
    (hd : descriptor env x 64 d = .ok b d1) (hb : powerDescrBad b = none) :
    powerBody f env x d = powerAct f env b (bits (u16 b 2) 0 3) d1 := by
  unfold powerBody
  rw [bind_ok hd]
  simp only [hb]
  rfl

theorem powerRow_done {s : State} {q : QRef} {f : List MarchFinding} {e : Entry} {o act detail : Nat} {r x b : Bytes}
    {d d1 d2 : Dev} (h : OpRuns s q 0xC3 e o r x d) (hd : descriptor (opEnv q e o) x 64 d = .ok b d1)
    (hb : powerDescrBad b = none) (hn : powerAction s.dev (operandsNow s.dev e r) = act) (ha : bits (u16 b 2) 0 3 = act)
    (hf : powerAct f (opEnv q e o) b act d1 = .ok (.done { detail := detail } 1) d2) :
    powerRow q act f s = .next (opOk q e o r detail d2 s) := by
  subst ha
  exact actionRow_done h hn ((powerBody_action hd hb).trans hf)

theorem bits_zero (n w : Nat) : bits n 0 w = n % 2 ^ w := by rw [bits, Nat.pow_zero, Nat.div_one]

theorem presetMhz_eq (n : Nat) : presetMhz (bits n 0 2) = [2000, 1600, 1000, 400].getD (n % 4) 0 := by
  have hall : ∀ p < 4, presetMhz p = [2000, 1600, 1000, 400].getD p 0 := by decide
  rw [bits_zero]
  exact hall _ (Nat.mod_lt _ (by decide))

theorem setVf_ok {env : OpEnv} {first n addr : Nat} {t : Bytes} {d d2 : Dev} (hr : rd env addr (32 * n) d = .ok t d2)
    (ht : tablesBad t n = none) (he : expertOn d2 exPower = true) :
    setVf env first n addr d = .ok (.done { detail := anyDetail } 1) { d2 with power := { d2.power with
      expertNext := (List.range n).foldl
        (fun m i => tabSet (first + i) (some (vfPoints ((t.drop (32 * i)).take 32))) m) d2.power.expertNext } } := by
  have hexpert : needExpert exPower d2 = .ok () d2 := (bind_ok get_ok).trans (require_true he)
  unfold setVf
  rw [bind_ok hr]
  simp only [ht]
  rw [bind_ok hexpert]
  rfl

/-- Settles O12: each action's change of what the next period end reads. -/
theorem powerStateSetsWhatThePeriodEndTakes : Obligations.PowerStateSetsWhatThePeriodEndTakes := by
  intro s q e o r x b d d1 h hd hb hn
  refine ⟨fun ha => ?_, fun ha => ?_, fun t d2 ha hr ht he => ?_, fun ha => ?_⟩
  · have hrow := powerRow_done (f := []) h hd hb (hn.trans ha) ha rfl
    rwa [presetMhz_eq] at hrow
  · exact powerRow_done h hd hb (hn.trans ha) ha rfl
  · exact powerRow_done h hd hb (hn.trans ha) ha (setVf_ok hr ht he)
  · exact powerRow_done h hd hb (hn.trans ha) ha rfl

/- HALL_OFF and HALL_ON. -/

/-- The contexts placed in halls end, where there are any (R432). -/
def hallsCleared (halls : List Nat) (d : Dev) : Dev :=
  if halls.all (fun h => (placedInHall d h).isNone) then d
  else (d.ctxs.filter (fun p => halls.any (usesHall p.2))).foldl
    (fun d p => if p.2.terminated then d else terminateCtx p.1 stAbortedDisabled d) d

/-- The halls of a mask that leave service. -/
def hallsLeft (halls : List Nat) (d : Dev) : List Nat := halls.filter (fun h => d.avail.halls.getLsbD h)

theorem hallsOff_ok {mask : Nat} {force : Bool} {d : Dev}
    (hp : force = true ∨ ∀ h ∈ setBits (BitVec.ofNat 16 mask), placedInHall d h = none) :
    hallsOff mask force d = .ok
      (.done { detail := (hallsLeft (setBits (BitVec.ofNat 16 mask)) d).foldl (fun m h => m + 2 ^ h) 0 } 1)
      ((hallsLeft (setBits (BitVec.ofNat 16 mask)) d).foldl
        (fun d h => settleRail (hallWing h) (setPower
          { (setAvail { d.avail with halls := setBit d.avail.halls h false } d).power with
            islands := (setAvail { d.avail with halls := setBit d.avail.halls h false } d).power.islands.map (fun p =>
              if p.1 / 40 = h then (p.1, { p.2 with gated := true, cls := 0, relock := none, waits := none }) else p) }
          (setAvail { d.avail with halls := setBit d.avail.halls h false } d)))
        (hallsCleared (setBits (BitVec.ofNat 16 mask)) d)) := by
  unfold hallsOff
  rw [bind_ok get_ok]
  dsimp only
  cases hfind : (setBits (BitVec.ofNat 16 mask)).findSome? (fun h => (placedInHall d h).map (fun p => (h, p))) with
  | none =>
    have hall : (setBits (BitVec.ofNat 16 mask)).all (fun h => (placedInHall d h).isNone) = true := by
      simpa using hfind
    simp only [hallsCleared, hall, if_true]
    rfl
  | some y =>
    obtain ⟨h, g, c⟩ := y
    have hall : (setBits (BitVec.ofNat 16 mask)).all (fun h => (placedInHall d h).isNone) = false := by
      rw [← Bool.not_eq_true]
      intro hall
      have hnone := (List.findSome?_eq_none_iff (p := fun h => (placedInHall d h).map (fun p => (h, p)))).2
        (fun h hh => by simpa using List.all_eq_true.1 hall h hh)
      rw [hfind] at hnone
      cases hnone
    rcases hp with rfl | hp
    · simp only [hallsCleared, hall, Bool.false_eq_true, if_false, if_true]
      rfl
    · exact absurd (List.all_eq_true.2 fun h hh => by rw [hp h hh]; rfl) (Bool.eq_false_iff.1 hall)

/-- Settles O13: HALL_OFF's halls cleared and left, HALL_ON's halls reset and marched. -/
theorem hallsGoOffAndOn : Obligations.HallsGoOffAndOn := by
  refine ⟨fun s q e o r x b d d1 d2 h hd hb hn ha hp hd2 => ?_, fun s q f e o r x b d d1 d2 h hd hb hn ha hd2 => ?_⟩
  · subst hd2
    exact powerRow_done h hd hb hn ha (hallsOff_ok hp)
  · subst hd2
    exact powerRow_done h hd hb hn ha rfl

/- SELFTEST and CALIBRATE. -/

theorem marchChecked_ok {base : Nat} {b : Bytes} {d : Dev} (hh : marchHeaderBad b = none)
    (hm : marchModeBad (marchAsk b) = false) (hi : resultInside d (marchAsk b) = false)
    (hp : (marchAsk b).preserving = true ∨ ∀ u ∈ (marchAsk b).units, unitPlaced d u = false)
    (hr : (marchAsk b).result = 0 ∨ checkDest (marchAsk b).result 16448 d = .ok () d) :
    marchChecked base b d = .ok (marchAsk b) d := by
  have hplaced : ((marchAsk b).preserving || !((marchAsk b).units.any (unitPlaced d))) = true := by
    rw [Bool.or_eq_true, Bool.not_eq_true', List.any_eq_false]
    exact hp.imp_right fun h u hu => by rw [h u hu]; decide
  unfold marchChecked
  simp only [hh]
  rw [bind_ok (requireFmt_true (by rw [hm]; rfl)), bind_ok get_ok, bind_ok (requireFmt_true (by rw [hi]; rfl)),
    bind_ok (require_true hplaced)]
  split
  · rfl
  · next hz =>
    rw [bind_ok (hr.resolve_left hz)]
    rfl

theorem bodySelftest_starts {env : OpEnv} {x b : Bytes} {d d1 : Dev} (hd : descriptor env x 64 d = .ok b d1)
    (ha : marchChecked 0 b d1 = .ok (marchAsk b) d1) (ht : marchTests d1 (marchAsk b) ≠ []) :
    bodySelftest env x d = .ok (.running .march 0) (marchStart (.op env.q env.idx) (marchAsk b) d1) := by
  unfold bodySelftest
  rw [bind_ok hd, bind_ok ha, bind_ok get_ok, bind_ok change_ok]
  rw [if_neg (by simpa using ht)]
  rfl

theorem mem_setBits {w : Nat} {m : BitVec w} {i : Nat} : i ∈ setBits m ↔ m.getLsbD i = true := by
  rw [setBits, List.mem_filter, List.mem_range, and_iff_right_iff_imp]
  exact BitVec.lt_of_getLsbD

theorem bit_eq_testBit (n i : Nat) : bit n i = n.testBit i := by
  rw [bit, bits, Nat.testBit_eq_decide_div_mod_eq]
  exact Bool.eq_iff_iff.2 (beq_iff_eq.trans decide_eq_true_iff.symm)

theorem mem_setBits_ofNat {w n i : Nat} : i ∈ setBits (BitVec.ofNat w n) ↔ i < w ∧ bit n i = true := by
  rw [mem_setBits, BitVec.getLsbD_ofNat, Bool.and_eq_true, decide_eq_true_iff, bit_eq_testBit]

/-- What CALIBRATE counts where no channel fails: channels, links and trims. -/
def calibrated (b : Bytes) (d : Dev) : Nat :=
  (if bit (u16 b 2) 2 then ((setBits (BitVec.ofNat 32 (u32 b 8))).filter (fun c => d.mem.mapping.contains c)).length
    else 0) * 2 ^ 16 +
  (if bit (u16 b 2) 3 then (setBits (BitVec.ofNat 16 (u16 b 6))).length else 0) * 2 ^ 24 +
  ofBool (bit (u16 b 2) 0) * 2 ^ 40

/-- CALIBRATE without canary sweeps and without a failed channel. -/
theorem calibrateBody_ok {failed : Nat} {env : OpEnv} {x b : Bytes} {d d1 : Dev}
    (hd : descriptor env x 64 d = .ok b d1) (hb : calibrateBad b = none) (hs : bit (u16 b 2) 1 = false)
    (hf : ∀ c : Nat, c < 32 → c ∈ d1.mem.mapping → bit (u32 b 8) c = true → bit failed c = false) :
    calibrateBody failed env x d = .ok (.done { detail := calibrated b d1 } 1)
      (if bit (u16 b 2) 0 then { d1 with power := { d1.power with trimsFresh := d1.clock } } else d1) := by
  have hbad : (if bit (u16 b 2) 2 = true then
      (setBits (BitVec.ofNat 32 (u32 b 8))).filter (fun c => d1.mem.mapping.contains c) else []).filter
        (fun c => bit failed c) = [] := by
    rw [List.filter_eq_nil_iff]
    intro c hc
    split at hc
    · obtain ⟨hset, hmap⟩ := List.mem_filter.1 hc
      obtain ⟨hlt, hbit⟩ := mem_setBits_ofNat.1 hset
      rw [hf c hlt (List.contains_iff_mem.1 hmap) hbit]
      decide
    · cases hc
  unfold calibrateBody
  rw [bind_ok hd]
  simp only [hb]
  rw [bind_ok get_ok]
  simp only [hs, hbad, Bool.false_eq_true, if_false, List.flatMap_nil, List.foldl_nil, List.length_nil, Nat.sub_zero,
    Nat.zero_add, List.isEmpty_nil, if_true]
  rw [bind_ok change_ok, apply_ite List.length, apply_ite List.length]
  rfl

/-- Settles O14: the march request that starts, and the calibration with no failed channel. -/
theorem selfTestAndCalibrateRun : Obligations.SelfTestAndCalibrateRun := by
  refine ⟨fun s q e o r x b d d1 h hd hh hm hi hp hr ht => ?_, fun s q f e o r x b d d1 h hd hb hs hf => ?_⟩
  · exact opRow_running h (bodySelftest_starts hd (marchChecked_ok hh hm hi hp hr) ht)
  · exact opRow_done h (calibrateBody_ok hd hb hs hf)

end Sys2Proof.Proofs
end

section
/-! PROOFS. R18, R23, R253, R255, R263, R268, R420 to R436: power, clocks, memories and march tests. -/

namespace Sys2Proof.Proofs

open Sys2Proof Sys2Proof.Machine Sys2Proof.Laws

/- Islands. -/

theorem islandOf_setIsland_same (i : Nat) (x : IslandSt) (d : Dev) : islandOf (setIsland i x d) i = x :=
  tabGet_tabSet_same ..

theorem islandOf_setIsland_other {i j : Nat} (x : IslandSt) (d : Dev) (h : i ≠ j) :
    islandOf (setIsland j x d) i = islandOf d i := tabGet_tabSet_other _ _ _ _ _ h

/-- What no island's own move touches: the power settings without the islands, the wings' voltages, the tables, and the
note that the cap is not met. -/
def settings (p : Power) : Power :=
  { p with islands := [], setpoint := [], rail := [], expertVf := [], expertNext := [], capUnmet := false }

theorem settings_moveTo (i f : Nat) (d : Dev) : settings (moveTo i f d).power = settings d.power := by
  unfold moveTo
  dsimp only
  split
  · rfl
  · split <;> rfl

theorem settings_retarget (i : Nat) (d : Dev) : settings (retarget i d).power = settings d.power := by
  unfold retarget
  dsimp only
  split
  · rfl
  · exact settings_moveTo ..

theorem settings_foldl {α : Type} {f : Dev → α → Dev} (h : ∀ d x, settings (f d x).power = settings d.power) (l : List α)
    (d : Dev) : settings (l.foldl f d).power = settings d.power := by
  induction l generalizing d with
  | nil => rfl
  | cons x t ih => exact (ih _).trans (h d x)

theorem settings_applyVf (d : Dev) : settings (applyVf d).power = settings d.power := by
  have hfold := settings_foldl (f := fun d (p : Nat × Option (List (Nat × Nat))) =>
    match p.2 with
    | some t =>
      setIsland p.1 { islandOf d p.1 with tune := 0 } (setPower { d.power with expertVf := tabSet p.1 t d.power.expertVf } d)
    | none => setPower { d.power with expertVf := tabDel p.1 d.power.expertVf } d)
    (fun d p => by dsimp only; split <;> rfl) d.power.expertNext d
  exact hfold

theorem power_thermHigh {temps : List Int} {d : Dev} (h : ∀ t ∈ temps, t < 420) : (thermHigh temps d).power = d.power := by
  have hcool : temps.any (fun t => decide (420 ≤ t)) = false := by
    rw [List.any_eq_false]
    intro t ht
    have hlt := h t ht
    simpa using hlt
  unfold thermHigh
  rw [hcool, if_neg Bool.false_ne_true]
  split <;> rfl

/-- The cap's one action changes the class ceilings and the throttle count only; a ceiling rises by one step at most. -/
theorem capStep_only (p : Power) : ∃ t o f n, t ≤ max p.ceilT (min 2000 (p.ceilT + 100)) ∧
    capStep p = { p with ceilT := t, ceilO := o, ceilF := f, throttle := n } := by
  have hsame : ∃ t o f n, t ≤ max p.ceilT (min 2000 (p.ceilT + 100)) ∧
      p = { p with ceilT := t, ceilO := o, ceilF := f, throttle := n } :=
    ⟨p.ceilT, p.ceilO, p.ceilF, p.throttle, Nat.le_max_left .., rfl⟩
  unfold capStep
  split
  · split
    · exact ⟨lowerStep p.ceilT, _, _, _, by unfold lowerStep; omega, rfl⟩
    · split
      · exact ⟨p.ceilT, _, _, _, Nat.le_max_left .., rfl⟩
      · split
        · exact ⟨p.ceilT, _, _, _, Nat.le_max_left .., rfl⟩
        · exact hsame
  · split
    · split
      · exact ⟨p.ceilT, _, _, _, Nat.le_max_left .., rfl⟩
      · split
        · exact ⟨p.ceilT, _, _, _, Nat.le_max_left .., rfl⟩
        · split
          · exact ⟨raiseStep p.ceilT, _, _, _, Nat.le_max_right .., rfl⟩
          · exact hsame
    · exact hsame

/-- The power settings that a period end puts in force, before its steps on the ceilings. -/
def periodTaken (x : PeriodSample) (p : Power) : Power :=
  { p with
    seq := low 32 (p.seq + 1), powerW := x.powerW, cap := p.capNext, preset := p.presetNext, hallCeil := p.hallCeilNext,
    temps := x.temps, railMv := x.railMv, railMa := x.railMa }

/-- A period end takes the settings that wait and steps the ceilings; what follows in it moves islands and rails only. -/
theorem settings_periodEnd {x : PeriodSample} {d : Dev} (hb : d.boot.ready = true) (hc : ∀ t ∈ x.temps, t < 420) :
    ∃ p : Power, settings p = settings d.power ∧
      settings (periodEnd x d).power = settings (thermSteps x.temps (capStep (periodTaken x p))) := by
  have htaken : settings ((liveIslands (applyVf d)).foldl
      (fun e i => setIsland i { islandOf e i with cls := classify x.busy e i } e) (applyVf d)).power = settings d.power :=
    (settings_foldl (f := fun e i => setIsland i { islandOf e i with cls := classify x.busy e i } e) (fun _ _ => rfl) _
      _).trans (settings_applyVf d)
  refine ⟨_, htaken, ?_⟩
  unfold periodEnd
  rw [hb, Bool.not_true, if_neg Bool.false_ne_true]
  dsimp only
  rw [settings_foldl (f := fun d w => settleRail w d) (fun _ _ => rfl),
    settings_foldl (f := fun d i => retarget i d) (fun d i => settings_retarget i d), power_thermHigh hc]
  split <;> rfl

theorem period_ends {s : State} {x : PeriodSample} (hb : s.dev.boot.ready = true) (hc : ∀ t ∈ x.temps, t < 420) :
    (periodEnd x s.dev).power.seq = (s.dev.power.seq + 1) % 2 ^ 32 ∧ (periodEnd x s.dev).power.powerW = x.powerW ∧
      (periodEnd x s.dev).power.cap = s.dev.power.capNext ∧ (periodEnd x s.dev).power.preset = s.dev.power.presetNext ∧
      (periodEnd x s.dev).power.hallCeil = s.dev.power.hallCeilNext ∧ (periodEnd x s.dev).power.temps = x.temps ∧
      (periodEnd x s.dev).power.ceilT ≤ max s.dev.power.ceilT (min 2000 (s.dev.power.ceilT + 100)) := by
  obtain ⟨p, hp, h⟩ := settings_periodEnd hb hc
  obtain ⟨t, o, f, n, hle, hstep⟩ := capStep_only (periodTaken x p)
  have hseq : p.seq = s.dev.power.seq := (congrArg Power.seq hp :)
  have hcap : p.capNext = s.dev.power.capNext := (congrArg Power.capNext hp :)
  have hpreset : p.presetNext = s.dev.power.presetNext := (congrArg Power.presetNext hp :)
  have hhall : p.hallCeilNext = s.dev.power.hallCeilNext := (congrArg Power.hallCeilNext hp :)
  have hceil : p.ceilT = s.dev.power.ceilT := (congrArg Power.ceilT hp :)
  rw [hstep] at h
  refine ⟨?_, congrArg Power.powerW h, ?_, ?_, ?_, congrArg Power.temps h, ?_⟩
  · exact (congrArg Power.seq h).trans (congrArg (fun n => low 32 (n + 1)) hseq)
  · exact (congrArg Power.cap h).trans hcap
  · exact (congrArg Power.preset h).trans hpreset
  · exact (congrArg Power.hallCeil h).trans hhall
  · rw [← hceil]
    have hT := congrArg Power.ceilT h
    exact Nat.le_trans (Nat.le_of_eq hT) hle

/- A rail that has settled. -/

/-- An island of the wing starts the relock that it waits for, where the rail allows it. -/
def startWaiting (w : Nat) (d : Dev) (i : Nat) : Dev :=
  match (islandOf d i).waits with
  | some f =>
    if hallWing (i / 40) = w ∧ f ≤ railMhz d i then
      setIsland i { islandOf d i with relock := some f, waits := none } d
    else d
  | none => d

/-- The voltages and tables that say what a rail allows. -/
structure SameRails (d e : Dev) : Prop where
  rail : e.power.rail = d.power.rail
  expert : e.power.expertVf = d.power.expertVf
  trust : e.trust = d.trust

theorem SameRails.railMhz_eq {d e : Dev} (h : SameRails d e) {i : Nat} (hi : islandOf e i = islandOf d i) :
    railMhz e i = railMhz d i := by
  simp only [railMhz, islandTable, h.rail, h.expert, h.trust, hi]

theorem startWaiting_other (w : Nat) (d : Dev) {i j : Nat} (h : i ≠ j) :
    SameRails d (startWaiting w d j) ∧ islandOf (startWaiting w d j) i = islandOf d i := by
  unfold startWaiting
  split
  · split
    · exact ⟨⟨rfl, rfl, rfl⟩, islandOf_setIsland_other _ _ h⟩
    · exact ⟨⟨rfl, rfl, rfl⟩, rfl⟩
  · exact ⟨⟨rfl, rfl, rfl⟩, rfl⟩

theorem startWaiting_starts {w : Nat} {d : Dev} {i f : Nat} (hw : hallWing (i / 40) = w)
    (hf : (islandOf d i).waits = some f) (hr : f ≤ railMhz d i) :
    startWaiting w d i = setIsland i { islandOf d i with relock := some f, waits := none } d := by
  simp only [startWaiting, hf, hw, hr, and_self, if_true]

theorem startWaiting_idle {w : Nat} {d : Dev} {i : Nat} (hf : (islandOf d i).waits = none) :
    startWaiting w d i = d := by
  simp only [startWaiting, hf]

theorem startWaiting_apart {w : Nat} {d : Dev} {i : Nat} (hw : hallWing (i / 40) ≠ w) : startWaiting w d i = d := by
  unfold startWaiting
  split
  · exact if_neg fun h => hw h.1
  · rfl

theorem foldl_startWaiting_apart {w i : Nat} (hw : hallWing (i / 40) ≠ w) (l : List Nat) (d : Dev) :
    islandOf (l.foldl (startWaiting w) d) i = islandOf d i := by
  induction l generalizing d with
  | nil => rfl
  | cons j t ih =>
    refine (ih _).trans ?_
    by_cases h : i = j
    · rw [← h, startWaiting_apart hw]
    · exact (startWaiting_other w d h).2

theorem foldl_startWaiting_idle {w i : Nat} (l : List Nat) {d : Dev} (hf : (islandOf d i).waits = none) :
    islandOf (l.foldl (startWaiting w) d) i = islandOf d i := by
  induction l generalizing d with
  | nil => rfl
  | cons j t ih =>
    have hsame : islandOf (startWaiting w d j) i = islandOf d i := by
      by_cases h : i = j
      · rw [← h, startWaiting_idle hf]
      · exact (startWaiting_other w d h).2
    exact (ih (by rw [hsame, hf])).trans hsame

theorem foldl_startWaiting_starts {w i f : Nat} {l : List Nat} {d : Dev} (hi : i ∈ l) (hw : hallWing (i / 40) = w)
    (hf : (islandOf d i).waits = some f) (hr : f ≤ railMhz d i) :
    islandOf (l.foldl (startWaiting w) d) i = { islandOf d i with relock := some f, waits := none } := by
  induction l generalizing d with
  | nil => cases hi
  | cons j t ih =>
    by_cases h : i = j
    · rw [List.foldl_cons, ← h, startWaiting_starts hw hf hr, foldl_startWaiting_idle, islandOf_setIsland_same]
      rw [islandOf_setIsland_same]
    · obtain ⟨hrails, hsame⟩ := startWaiting_other w d h
      have hstart := ih ((List.mem_cons.1 hi).resolve_left h) (by rw [hsame, hf]) (by rw [hrails.railMhz_eq hsame]; exact hr)
      rw [List.foldl_cons, hstart, hsame]

theorem rail_startWaiting (w : Nat) (l : List Nat) (d : Dev) :
    (l.foldl (startWaiting w) d).power.rail = d.power.rail := by
  induction l generalizing d with
  | nil => rfl
  | cons j t ih =>
    refine (ih _).trans ?_
    unfold startWaiting
    split
    · split <;> rfl
    · rfl

theorem mem_keys_of_tabGet? {α : Type} {k : Nat} {v : α} {t : List (Nat × α)} (h : tabGet? k t = some v) :
    k ∈ t.map (fun p => p.1) := by
  induction t with
  | nil => cases h
  | cons p t ih =>
    obtain ⟨j, w⟩ := p
    rw [List.map_cons, List.mem_cons]
    by_cases hj : j = k
    · exact .inl hj.symm
    · rw [tabGet?, if_neg hj] at h
      exact .inr (ih h)

/-- An island that waits has state. -/
theorem mem_liveIslands {d : Dev} {i f : Nat} (h : (islandOf d i).waits = some f) : i ∈ liveIslands d := by
  unfold islandOf tabGet at h
  cases hi : tabGet? i d.power.islands with
  | none =>
    rw [hi] at h
    cases h
  | some x => exact mem_keys_of_tabGet? hi

theorem exec_avsSettled (s : State) (w : Fin 4) : exec (.avsSettled w) s = .next (withMem s
    ((liveIslands s.dev).foldl (startWaiting w.val) { s.dev with power := { s.dev.power with
      rail := setAt w.val (s.dev.power.setpoint.getD w.val 650) s.dev.power.rail } })) := rfl

theorem avs_settles {s : State} {w : Fin 4} {d : Dev} (hd : d = { s.dev with power := { s.dev.power with
      rail := setAt w.val (s.dev.power.setpoint.getD w.val 650) s.dev.power.rail } }) :
    ∃ t : Dev, exec (.avsSettled w) s = .next (withMem s t) ∧ t.power.rail = d.power.rail ∧
      (∀ (i f : Nat), hallWing (i / 40) = w.val → (islandOf s.dev i).waits = some f → f ≤ railMhz d i →
        (islandOf t i).relock = some f ∧ (islandOf t i).waits = none) ∧
      (∀ i : Nat, hallWing (i / 40) ≠ w.val → islandOf t i = islandOf s.dev i) := by
  have hsame (i : Nat) : islandOf d i = islandOf s.dev i := by rw [hd]; rfl
  refine ⟨_, exec_avsSettled s w, ?_⟩
  rw [← hd]
  refine ⟨rail_startWaiting .., fun i f hw hf hr => ?_, fun i hw => ?_⟩
  · rw [foldl_startWaiting_starts (mem_liveIslands hf) hw (by rw [hsame, hf]) hr]
    exact ⟨rfl, rfl⟩
  · rw [foldl_startWaiting_apart hw, hsame]

/- One island's clock. -/

theorem relockDone_ends {i f : Nat} {d : Dev} (h : (islandOf d i).relock = some f) :
    relockDone i d = settleRail (hallWing (i / 40))
      (setIsland i { islandOf d i with mhz := min f (railMhz d i), relock := none } d) := by
  simp only [relockDone, h]

theorem canaryFail_lowers {i g : Nat} {s d d' : Dev} (hs : islandStopped s i = false)
    (hd : d = setIsland i { islandOf s i with tune := min 40 ((islandOf s i).tune + 10), limit := 5 } s)
    (hg : g = min (max 400 ((islandOf s i).mhz - 25)) (railMhz d i))
    (hd' : d' = setIsland i { islandOf d i with
      mhz := if g < 400 then 0 else g
      waits := if g < 400 then some (islandTarget d i) else (islandOf d i).waits } d) :
    canaryFail i s = logOpen 0x0A 10 (i / 40) i 0 0 (settleRail (hallWing (i / 40)) (setPower
      { d'.power with canaryFails := min (2 ^ 32 - 1) (d'.power.canaryFails + 1) } d')) := by
  unfold canaryFail
  rw [hs, if_neg Bool.false_ne_true]
  dsimp only
  rw [← hd, ← hg, ← hd']
  rfl

theorem islandWake_wakes {i f g : Nat} {d : Dev} (hx : (islandOf d i).gated = true) (ht : d.boot.thermtrip = false)
    (hh : d.avail.halls.getLsbD (i / 40) = true) (hb : d.boot.ready = true) (hf : f = islandTarget d i)
    (hg : g = min (if (islandOf d i).mhz = 0 then f else min f (islandOf d i).mhz) (railMhz d i)) :
    islandWake i d = settleRail (hallWing (i / 40)) (setIsland i
      { islandOf d i with
        gated := false, cls := 2, relock := none, mhz := if g < 400 then 0 else g
        waits := if g < f then some f else none } d) := by
  subst hf hg
  simp only [islandWake, hx, ht, hh, hb, Bool.not_false, Bool.and_self, if_true]

theorem canarySweep_quiet {i : Nat} {pass : Bool} {d : Dev}
    (h : ∀ c ∈ islandCtxs d i, ctxQuiet d c (fun h g => h == i / 40 && g == i % 40 / 2) = true) :
    canarySweep i pass d = sweepDone i
      (if pass then setIsland i { islandOf d i with tune := max (-40) ((islandOf d i).tune - 5) } d else d) :=
  if_pos (List.all_eq_true.2 h)

theorem clockGating_gates {i : Nat} {d : Dev} (h : islandBusy d i = false) :
    clockGating i d = settleRail (hallWing (i / 40))
      (setIsland i { islandOf d i with gated := true, cls := 0, relock := none, waits := none } d) :=
  if_neg (Bool.eq_false_iff.1 h)

theorem blockReset_resets {b : Block} {status : Nat} {d : Dev} (hb : d.boot.ready = true)
    (h : ∀ r ∈ d.fc.resets, blockWithin b r = false) : b ∈ (blockReset b status d).fc.resets := by
  have hany : d.fc.resets.any (fun r => blockWithin b r) = false :=
    List.any_eq_false.2 fun r hr => by rw [h r hr]; decide
  unfold blockReset
  simp only [hb, hany, Bool.not_true, Bool.false_and, Bool.or_self, Bool.false_eq_true, if_false, logEv_fc]
  exact List.mem_append_right _ (List.mem_singleton_self b)

/-- Settles O26: the settings a period end takes, the islands one by one, and THERMTRIP. -/
theorem powerFollowsItsSettings : Obligations.PowerFollowsItsSettings := by
  refine ⟨fun s x hb hc => ⟨_, rfl, period_ends hb hc⟩, ⟨fun s w d => avs_settles, fun s i f hf => ?_, ?_⟩,
    ⟨fun s i f g hx ht hh hb hf hg => ?_, fun s i h => ?_, fun s i h => ⟨?_, ?_⟩, fun s => rfl⟩,
    fun s k x hx => ?_, fun s k x hx => ?_, fun s w => ⟨rfl, fun hb h => blockReset_resets hb h⟩⟩
  · exact next_mem (relockDone_ends hf)
  · intro s i d d' g hs hd hg hd'
    exact next_dev (canaryFail_lowers hs hd hg hd')
  · exact next_mem (islandWake_wakes hx ht hh hb hf hg)
  · exact next_dev (clockGating_gates h)
  · exact next_dev (canarySweep_quiet h)
  · exact next_dev (canarySweep_quiet h)
  · exact next_mem (if_neg (Int.not_lt.2 hx))
  · exact next_mem (if_pos hx)

/- The scrubber. -/

/-- What the scrubber does with a word as it found it. -/
def scrubbed (y : Syndrome) (a : Nat) (d : Dev) : Dev :=
  match y with
  | .clean => (readWord a d).2
  | .correctable => if d.mem.ue.contains a then reportUe a false d else reportCe a false d
  | .uncorrectable =>
    reportUe a false (if d.mem.ue.contains a then d else { d with mem := { d.mem with ue := d.mem.ue ++ [a] } })

theorem scrubRead_due {a k row : Nat} {y : Syndrome} {s d : Dev} {w : Nat} (ha : a = wordOf w)
    (hk : bankRow a = some (k, row)) (hrow : row = tabGet 0 k s.mem.scrub) (hw : accessWaits s a = false)
    (hi : inService s a = true) (hj : injectionAt s a = none)
    (hd : d = { s with mem := { s.mem with scrub := tabSet k ((row + 1) % bankRows k) s.mem.scrub } }) :
    scrubRead w y s = scrubbed y a d := by
  have hdue : (row != tabGet 0 k s.mem.scrub || accessWaits s a || !inService s a) = false := by
    rw [hw, hi, hrow]
    simp
  subst ha hd
  simp only [scrubRead, hk, hdue, Bool.false_eq_true, if_false]
  split
  · next h => exact absurd (hj.symm.trans h) (by simp)
  · cases y <;> rfl

/-- The two findings on a word, where it is known to be uncorrectable and where it is not. -/
theorem scrubbed_found {a : Nat} {d : Dev} :
    (a ∉ d.mem.ue → scrubbed .correctable a d = reportCe a false d ∧
      scrubbed .uncorrectable a d = reportUe a false { d with mem := { d.mem with ue := d.mem.ue ++ [a] } }) ∧
    (a ∈ d.mem.ue → scrubbed .correctable a d = reportUe a false d ∧
      scrubbed .uncorrectable a d = reportUe a false d) := by
  refine ⟨fun h => ?_, fun h => ?_⟩
  · have hc : d.mem.ue.contains a = false := by simpa using h
    exact ⟨by rw [scrubbed, hc]; rfl, by rw [scrubbed, hc]; rfl⟩
  · have hc : d.mem.ue.contains a = true := by simpa using h
    exact ⟨by rw [scrubbed, hc]; rfl, by rw [scrubbed, hc]; rfl⟩

/- March tests. -/

theorem marchQuiet_starts {u : MarchUnit} {r : MarchReq} {rest : List MarchReq} {d : Dev} (hr : d.march.reqs = r :: rest)
    (hu : u ∈ r.deferred) (hn : unitRunning d u = false) (hq : unitQuiet d u = true) (hs : unitInService d u = true) :
    marchQuiet u d = marchFinish { d with march := { d.march with
      reqs := { r with deferred := r.deferred.filter (fun v => !(v == u)), running := r.running ++ [u] } :: rest } } := by
  have hfind : (r :: rest).findIdx? (fun r => r.deferred.contains u) = some 0 := by
    rw [List.findIdx?_cons, List.contains_iff_mem.2 hu]
    rfl
  simp only [marchQuiet, hn, hq, hr, hfind, hs, modAt, List.modify_zero_cons, Bool.not_true, Bool.or_self,
    Bool.false_eq_true, if_false, if_true]

/-- The words that a unit's test found, as it reports them. -/
def foundIn (m : Memory) (u : MarchUnit) (l : List (Nat × Bool)) : List (Nat × Bool) :=
  (l.map (fun p => (wordOf p.1, p.2))).filter (fun p => unitOf m p.1 == some u)

theorem marchUnitEnd_one {u : MarchUnit} {l here all : List (Nat × Bool)} {r : MarchReq} {s d : Dev}
    (hr : s.march.reqs = [r]) (hu : u ∈ r.running) (hh : here = foundIn s.mem u l)
    (ha : all = (if r.preserving then preservedFound s.mem u here else here))
    (hd : d = { (if r.preserving then { s with mem := preservingLeaves u all s.mem }
        else { s with mem := memMark (.unit u) none s.mem }) with
      march := { s.march with
        reqs := [{ r with
          running := r.running.filter (fun v => !(v == u)), tested := r.tested + 1
          found := if all.isEmpty then r.found else r.found ++ [{ unit := u, found := all }] }] } }) :
    marchUnitEnd u l s = marchFinish (if all.isEmpty then d else unitFails { unit := u, found := all } d) := by
  have hfind : s.march.reqs.find? (fun r => r.running.contains u) = some r := by
    rw [hr]
    exact List.find?_cons_of_pos (p := fun r : MarchReq => r.running.contains u) (List.contains_iff_mem.2 hu)
  unfold foundIn at hh
  simp only [marchUnitEnd, hfind]
  rw [← hh, ← ha, hd]
  cases r.preserving <;> simp only [zeroMark, hr, List.map_cons, List.map_nil, if_true, Bool.false_eq_true, if_false]

/-- Settles O27: the counters, the scrubber's word, the test that starts and the one that ends. -/
theorem memoryIsKeptAndTested : Obligations.MemoryIsKeptAndTested := by
  refine ⟨⟨fun s c bank => rfl, fun s c => rfl, fun s c => rfl, fun s w => rfl, ?_⟩, ?_, ?_⟩
  · intro s w a k row d ha hk hrow hw hi hj hd
    have hread (y : Syndrome) : exec (.scrubRead w y) s = .next (withMem s (scrubbed y a d)) :=
      next_mem (scrubRead_due ha hk hrow hw hi hj hd)
    have hue : d.mem.ue = s.dev.mem.ue := by rw [hd]
    rw [← hue]
    refine ⟨hread .clean, fun h => ?_, fun h => ?_⟩
    · obtain ⟨hc, hu⟩ := scrubbed_found.1 h
      exact ⟨(hread _).trans (next_mem hc), (hread _).trans (next_mem hu)⟩
    · obtain ⟨hc, hu⟩ := scrubbed_found.2 h
      exact ⟨(hread _).trans (next_mem hc), (hread _).trans (next_mem hu)⟩
  · intro s u r rest hr hu hn hq hs
    exact next_mem (marchQuiet_starts hr hu hn hq hs)
  · intro s u l z here all r d hr hu hh ha hd
    exact next_mem (congrArg resumeRuns (marchUnitEnd_one hr hu hh ha hd))

end Sys2Proof.Proofs
end

section
/-! PROOFS. R346 to R352, R356, R384, R417, R418, R427: mailbox commands that read, test, and move the ownership. -/

namespace Sys2Proof.Proofs

open Sys2Proof Sys2Proof.Machine Sys2Proof.Laws

/- Reading commands. -/

section
variable {o : Otp} {env : MailEnv} {p : Bytes} {d : Dev}

theorem bodyCalRead_group (h2 : u16 p 2 = 0) (h0 : u8 p 0 = 1) (h1 : u8 p 1 < 8) :
    bodyCalRead o env p d = .ok (some ((List.range 4).flatMap (genBytes o (u8 p 1)) ++
      leBytes 4 ((currentGen o (u8 p 1)).getD 0xFFFFFFFF))) d := by
  unfold bodyCalRead
  simp only [h2, h0, Nat.not_le.2 h1, ne_eq, not_true_eq_false, Nat.one_ne_zero, if_false, if_true]
  rfl

theorem bodyCalRead_set {n : Nat} (h2 : u16 p 2 = 0) (h0 : u8 p 0 = 0)
    (hn : n = if calBad d.trust.uniqueId d.flash.cal = none then u32 d.flash.cal 8 else 1048576) :
    bodyCalRead o env p d = .ok (some (((padTo n d.flash.cal).drop (u32 p 4)).take 4096)) d := by
  subst hn
  unfold bodyCalRead
  simp only [h2, h0, ne_eq, not_true_eq_false, if_false, if_true]
  rw [bind_ok get_ok]
  simp only [Option.isNone_iff_eq_none]
  rfl

end

/-- The records that LOG_READ answers. -/
def logRead (c : Catalogue) (space first : Nat) : List CatRecord :=
  (if space = 0 then c.records.filter (fun r => decide (first ≤ r.windex))
    else if space = 1 then c.emergency.drop first
    else c.flash.filter (fun r => decide (first ≤ r.windex))).take 127

theorem bodyLogRead_ok {env : MailEnv} {p : Bytes} {d : Dev} (h0 : u8 p 0 ≤ 2) (h1 : nonzeroIn p 1 3 = none) :
    bodyLogRead env p d = .ok (some
      (le4s [d.cat.nextIndex, d.cat.records.length, d.cat.dropped, d.cat.overwritten,
         d.cat.badRows.length + d.cat.emergency.length * 2 ^ 16, d.cat.drained,
         (logRead d.cat (u8 p 0) (u32 p 4)).length, 0] ++ (logRead d.cat (u8 p 0) (u32 p 4)).flatMap recordBytes))
      (if u8 p 0 = 0 then
        catalogueRead (((logRead d.cat (u8 p 0) (u32 p 4)).head?.map (fun r => r.slot / 32)).getD 0) d else d) := by
  unfold bodyLogRead
  simp only [Nat.not_lt.2 h0, h1, if_false]
  rw [bind_ok get_ok]
  unfold logRead
  split <;> rfl

/- Commands that act. -/

/-- A mailbox row whose body answers later. -/
theorem serveMail_later {ch : Chan} {c : MailCmd} {p : Bytes} {s : State} {d' : Dev} {mine : Bytes → Bool} {body : MailBody}
    (h : MailWaits s ch c.code c.owner c.early p) (hl : lenOk c p.length = true) (hm : mine p = true)
    (hb : body { ch := ch, drawn := none } p s.dev = .ok none d') :
    serveMail ch c mine body s.dev = setMbox ch { mbox d' ch with march := true } d' := by
  obtain ⟨tag, ht⟩ := mailDue_waits h
  have hk := mailChecks_waits h hl
  simp only [serveMail, ht, hm, hk, hb, settleMail, if_true]

theorem bodySelftestReq_starts {env : MailEnv} {p : Bytes} {d : Dev} (ha : marchChecked 16 p d = .ok (marchAsk p) d) :
    bodySelftestReq env p d = .ok none (marchStart (.mail env.ch) (marchAsk p) d) := by
  unfold bodySelftestReq
  rw [bind_ok ha, bind_ok change_ok]
  rfl

theorem mbox_marchStart (ch : Chan) (u : MarchUser) (a : MarchAsk) (d : Dev) : mbox (marchStart u a d) ch = mbox d ch := by
  cases ch <;> rfl

theorem exec_selftestReq {s : State} {ch : Chan} {p : Bytes} (h : MailWaits s ch 0x80 true false p) (hl : p.length = 64)
    (ha : marchChecked 16 p s.dev = .ok (marchAsk p) s.dev) :
    exec (.selftestReq ch) s = .next (withMem s (marchFinish
      (setMbox ch { mbox s.dev ch with march := true } (marchStart (.mail ch) (marchAsk p) s.dev)))) := by
  have hserve := serveMail_later (c := cmdSelftestReq) (mine := anyMessage) h (by rw [hl]; rfl) rfl
    (bodySelftestReq_starts (env := { ch := ch, drawn := none }) ha)
  rw [mbox_marchStart] at hserve
  exact next_mem (congrArg marchFinish hserve)

theorem bodyLogClear_clears {env : MailEnv} {p : Bytes} {d : Dev}
    (ht : tokenBad d 0x4C43584C (fun k => decide (1 ≤ k) && decide (k < 8)) p = none) :
    bodyLogClear env p d = .ok (some [])
      { d with cat := clearSpaces (u8 p 0x30) d.cat, trust := { d.trust with nonce := none } } := by
  unfold bodyLogClear
  rw [bind_ok get_ok]
  simp only [ht]
  rfl

/-- Settles O16: what each body answers, through its row. -/
theorem mailboxCommandsReadAndTest : Obligations.MailboxCommandsReadAndTest := by
  refine ⟨⟨fun s ch h => mailRow_ok h rfl rfl rfl, fun s ch p h hl h2 => ⟨fun h0 h1 => ?_, fun n h0 hn => ?_⟩, ?_⟩,
    fun s ch p h hl hh hm hi hp hr => ?_, fun s ch p h hl ht => ?_⟩
  · exact mailRow_ok h (by rw [hl]; rfl) rfl (bodyCalRead_group h2 h0 h1)
  · exact mailRow_ok h (by rw [hl]; rfl) rfl (bodyCalRead_set h2 h0 hn)
  · rintro s ch p l h hl h0 h1 rfl
    exact mailRow_ok h (by rw [hl]; rfl) rfl (bodyLogRead_ok h0 h1)
  · exact exec_selftestReq h hl (marchChecked_ok hh hm hi hp hr)
  · exact mailRow_ok h (by rw [hl]; rfl) rfl (bodyLogClear_clears ht)

/- Ownership. -/

/-- The owner after a claim, with the period asked for, heard just now. -/
def ownerHeard (period : Nat) (d : Dev) : Dev :=
  { d with own := { d.own with heartbeatMs := period, lastBeat := d.clock, silent := false } }

theorem claimed_ok {period : Nat} {d : Dev} :
    claimed period d = .ok (some (claimBytes (ownerHeard period d))) (ownerHeard period d) := rfl

/-- The device once a claim has set aside the owner that was silent. -/
def overridden (d : Dev) : Dev := { d with own := { d.own with overrides := satAdd 16 d.own.overrides 1 } }

/-- The device that a claim by a channel makes, where it succeeds (R349, R350). -/
def ClaimTakes (ch : Chan) (override : Bool) (s d : Dev) : Prop :=
  (s.own.owner = none ∧ d = changeOwner (some ch) s) ∨
  (s.own.owner = some ch ∧ d = s) ∨
  (∃ (o : Chan) (t : Nat), s.own.owner = some o ∧ o ≠ ch ∧ s.own.handover = some (ch, t) ∧ d = changeOwner (some ch) s) ∨
  (∃ o : Chan, s.own.owner = some o ∧ o ≠ ch ∧ (∀ t, s.own.handover ≠ some (ch, t)) ∧ override = true ∧
    s.own.heartbeatMs ≤ silentMs s ∧
    d = changeOwner (some ch) (overridden s))

theorem bodyOwnClaim_ok {env : MailEnv} {p : Bytes} {s d : Dev} (h0 : u32 p 0 < 2) (hlo : 10 ≤ u32 p 4)
    (hhi : u32 p 4 ≤ 60000) (h : ClaimTakes env.ch (bit (u32 p 0) 0) s d) :
    bodyOwnClaim env p s = .ok (some (claimBytes (ownerHeard (u32 p 4) d))) (ownerHeard (u32 p 4) d) := by
  have hflags : u32 p 0 / 2 = 0 := by omega
  have hperiod : ¬ (u32 p 4 < 10 ∨ 60000 < u32 p 4) := by omega
  unfold bodyOwnClaim
  rw [bind_ok get_ok]
  simp only [hflags, hperiod, ne_eq, not_true_eq_false, if_false]
  obtain ⟨hn, rfl⟩ | ⟨hs, rfl⟩ | ⟨o, t, ho, hne, hh, rfl⟩ | ⟨o, ho, hne, hh, hf, hs, rfl⟩ := h
  · simp only [hn]
    rfl
  · simp only [hs, if_true]
    rfl
  · simp only [ho, hne, hh, if_false, Option.map_some, beq_self_eq_true, if_true]
    rfl
  · have hnot : (s.own.handover.map (fun h => h.1) == some env.ch) = false := by
      rw [beq_eq_false_iff_ne]
      intro he
      obtain ⟨⟨c, t⟩, hc, rfl⟩ := Option.map_eq_some_iff.1 he
      exact hh t hc
    simp only [ho, hne, hnot, hf, decide_eq_true hs, if_false, Bool.false_eq_true, Bool.and_self, if_true]
    rfl

theorem bodyOwnHandover_ok {env : MailEnv} {p : Bytes} {d : Dev} (h0 : u32 p 0 ≤ 4) (hc : u32 p 0 ≠ chanCode env.ch) :
    bodyOwnHandover env p d = .ok (some [])
      { d with own := { d.own with handover := (chanOfCode (u32 p 0)).map (fun c => (c, d.clock)) } } := by
  have htarget : bits (u32 p 0) 0 3 = u32 p 0 := by rw [bits_zero]; omega
  have hgood : ¬ (u32 p 0 / 8 ≠ 0 ∨ 4 < u32 p 0 ∨ u32 p 0 = chanCode env.ch) := by omega
  unfold bodyOwnHandover
  simp only [htarget, hgood, if_false]
  rfl

theorem bit_zero_of_one {n : Nat} (h : n = 1) : bit n 0 = true := by rw [h]; rfl

/-- Settles O17: the four ways a claim succeeds, and the other changes of the owner. -/
theorem ownershipChangesHands : Obligations.OwnershipChangesHands := by
  refine ⟨⟨fun s ch p h hl h0 hlo hhi d hd => ?_, fun s ch h => mailRow_ok h rfl rfl rfl, fun s ch p h hl h0 hc => ?_,
    fun d o => ⟨rfl, rfl, rfl, rfl⟩⟩, fun s c t h => ?_, fun s o ho hs => ?_, fun s v hr ho => ?_⟩
  · have htakes : ClaimTakes ch (bit (u32 p 0) 0) s.dev d :=
      hd.imp_right (Or.imp_right (Or.imp_right fun ⟨o, ho, hne, hh, h1, hs, hd⟩ =>
        ⟨o, ho, hne, hh, bit_zero_of_one h1, hs, hd⟩))
    exact mailRow_ok h (by rw [hl]; rfl) rfl (bodyOwnClaim_ok h0 hlo hhi htakes)
  · exact mailRow_ok h (by rw [hl]; rfl) rfl (bodyOwnHandover_ok h0 hc)
  · have hlapse : lapseHandover s.dev = logOpen 0x03 6 dieNorth (chanCode c) 0 0
        (tickTo (t + s.dev.own.heartbeatMs * ms) { s.dev with own := { s.dev.own with handover := none } }) := by
      simp only [lapseHandover, h]
    exact next_dev hlapse
  · have hsilent : ownerSilent s.dev =
        { tickTo (s.dev.own.lastBeat + s.dev.own.heartbeatMs * ms) s.dev with
          own := { (tickTo (s.dev.own.lastBeat + s.dev.own.heartbeatMs * ms) s.dev).own with silent := true } } := by
      simp only [ownerSilent, ho, hs, Bool.false_eq_true, if_false]
    exact next_dev hsilent
  · have howns : hostOwns s.dev = true := by rw [hostOwns, ho]; rfl
    exact next_dev ((if_pos hr).trans (if_pos howns))

/- Expert enables, the power cap, the chain identifier. -/

theorem bodyExpert_ok {env : MailEnv} {p : Bytes} {d : Dev} (h0 : u16 p 0 < 2 ^ 7) (h2 : u16 p 2 = 0) (h4 : u16 p 4 < 2 ^ 7)
    (h6 : u16 p 6 = 0) (hs : bit (u16 p 0) 6 = false ∨ d.trust.lifecycle ≠ lcSealed) :
    bodyExpert env p d = .ok
      (some (leBytes 4 ((d.own.expert ||| BitVec.ofNat 16 (u16 p 0)) &&& ~~~ BitVec.ofNat 16 (u16 p 4)).toNat))
      { d with own := { d.own with
        expert := (d.own.expert ||| BitVec.ofNat 16 (u16 p 0)) &&& ~~~ BitVec.ofNat 16 (u16 p 4) } } := by
  have hon : u16 p 0 / 2 ^ 7 = 0 := Nat.div_eq_of_lt h0
  have hoff : u16 p 4 / 2 ^ 7 = 0 := Nat.div_eq_of_lt h4
  have hseal : (bit (u16 p 0) 6 && d.trust.lifecycle == lcSealed) = false := by
    rw [Bool.and_eq_false_iff, beq_eq_false_iff_ne]
    exact hs
  unfold bodyExpert
  rw [bind_ok get_ok]
  simp only [hon, h2, hoff, h6, hseal, ne_eq, not_true_eq_false, if_false, Bool.false_eq_true]
  rfl

theorem bodyPowerCap_ok {env : MailEnv} {p : Bytes} {d : Dev} (hlo : 300 ≤ u16 p 0) (hhi : u16 p 0 ≤ 1200)
    (h2 : u16 p 2 = 0) :
    bodyPowerCap env p d = .ok (some (leBytes 4 d.power.capNext)) { d with power := { d.power with capNext := u16 p 0 } } := by
  have hcap : ¬ (u16 p 0 < 300 ∨ 1200 < u16 p 0) := by omega
  unfold bodyPowerCap
  simp only [hcap, h2, ne_eq, not_true_eq_false, if_false]
  rfl

theorem bodyChainId_ok {env : MailEnv} {p : Bytes} {d : Dev} (h0 : u32 p 0 < 2048) (hb : chainBusy d = false)
    (hm : ∀ l ∈ d.chain.links, l.mirror = false) :
    bodyChainId env p d = .ok (some (leBytes 4 (chainIdReg d)))
      ((List.range 16).foldl (fun d n => sendInfo n d) { d with chain := { d.chain with id := some (u32 p 0) } }) := by
  have hid : u32 p 0 / 2048 = 0 := Nat.div_eq_of_lt h0
  have hmirror : d.chain.links.any (fun l => l.mirror) = false :=
    List.any_eq_false.2 fun l hl => by rw [hm l hl]; decide
  unfold bodyChainId
  simp only [hid, ne_eq, not_true_eq_false, if_false]
  rw [bind_ok get_ok, bind_ok (require_true (by rw [hb, hmirror]; rfl))]
  rfl

/-- Settles O18: each command's checks, then what it sets. -/
theorem expertPowerCapAndChainIdAreSet : Obligations.ExpertPowerCapAndChainIdAreSet := by
  refine ⟨fun s ch p h hl h0 h2 h4 h6 hs => ?_, fun s ch p h hl hlo hhi h2 => ?_, fun s ch p h hl h0 hb hm => ?_⟩
  · exact mailRow_ok h (by rw [hl]; rfl) rfl (bodyExpert_ok h0 h2 h4 h6 hs)
  · exact mailRow_ok h (by rw [hl]; rfl) rfl (bodyPowerCap_ok hlo hhi h2)
  · exact mailRow_ok h (by rw [hl]; rfl) rfl (bodyChainId_ok h0 hb hm)

end Sys2Proof.Proofs
end

section
/-! PROOFS. Table 9.4, R231, R234, R235: the actions of CHAIN_CTL and MIRROR_CTL. -/

namespace Sys2Proof.Proofs

open Sys2Proof Sys2Proof.Machine Sys2Proof.Laws

/- CHAIN_CTL. -/

def chainLimits (b : Bytes) : Act OpRes := do
  if bit (u16 b 6) 4 then needExpert exChain else pure ()
  change (eachLink (u16 b 4) (fun _ l =>
    { l with maxLanes := bits (u16 b 6) 0 2, maxRate := bits (u16 b 6) 2 2, fecOff := bit (u16 b 6) 4 }))
  change (fun d => (setBits (BitVec.ofNat 16 (u16 b 4))).foldl (fun d n => sendInfo n d) d)
  doneOk anyDetail

def chainEnable (b : Bytes) : Act OpRes := do
  change (eachLink (u16 b 4) (fun _ l => if l.state = .disabled then negotiate { l with failures := 0 } else l))
  doneOk anyDetail

def chainDisable (b : Bytes) : Act OpRes := do
  let d ← get
  require (bit (u16 b 2) 3 || !(setBits (BitVec.ofNat 16 (u16 b 4))).any (linkInUse d)) stBusy anyDetail
  change (fun d => (setBits (BitVec.ofNat 16 (u16 b 4))).foldl (fun d n => disableLink n d) d)
  doneOk anyDetail

def chainRetrain (b : Bytes) : Act OpRes := do
  change (eachLink (u16 b 4) (fun _ l => if linkUp l then negotiate { l with failures := 0 } else l))
  doneOk anyDetail

def chainRoutes (env : OpEnv) (b : Bytes) : Act OpRes := do
  let t ← rd env (u64 b 8) 2048
  requireFmt (t.all (fun x => bits x.toNat 4 3 == 0)) 8 rsChainHeader
  let d ← get
  require (!chainBusy d) stBusy anyDetail
  change (losing (fun d => { d with chain := { d.chain with routes := t.map (fun x => x.toNat) } }))
  doneOk anyDetail

def chainStatus (b : Bytes) : Act OpRes := do
  let d ← get
  checkDest (u64 b 8) 512
  wr (u64 b 8) (d.chain.links.flatMap linkRecord)
  doneOk anyDetail

/-- The action of CHAIN_CTL of a number (Table 9.4). -/
def chainAct (env : OpEnv) (b : Bytes) (act : Nat) : Act OpRes :=
  match act with
  | 0 => chainLimits b
  | 1 => chainEnable b
  | 2 => chainDisable b
  | 3 => chainRetrain b
  | 4 => chainRoutes env b
  | _ => chainStatus b

theorem chainBody_action {env : OpEnv} {x b : Bytes} {d d1 : Dev} (hd : descriptor env x 64 d = .ok b d1)
    (hb : chainCtlBad b = none) : chainBody env x d = chainAct env b (bits (u16 b 2) 0 3) d1 := by
  unfold chainBody
  rw [bind_ok hd]
  simp only [hb]
  rfl

theorem chainRow_done {s : State} {q : QRef} {e : Entry} {o act : Nat} {r x b : Bytes} {d d1 d2 : Dev}
    (h : OpRuns s q 0xC7 e o r x d) (hd : descriptor (opEnv q e o) x 64 d = .ok b d1) (hb : chainCtlBad b = none)
    (hn : chainAction s.dev (operandsNow s.dev e r) = bits (u16 b 2) 0 3) (ha : bits (u16 b 2) 0 3 = act)
    (hf : chainAct (opEnv q e o) b act d1 = .ok (.done { detail := anyDetail } 1) d2) :
    chainRow q act s = .next (opOk q e o r anyDetail d2 s) := by
  subst ha
  exact actionRow_done h hn ((chainBody_action hd hb).trans hf)

section
variable {env : OpEnv} {b : Bytes} {d : Dev}

theorem needExpert_ok {f : Nat} (h : expertOn d f = true) : needExpert f d = .ok () d :=
  (bind_ok get_ok).trans (require_true h)

theorem chainLimits_ok (h : bit (u16 b 6) 4 = true → expertOn d exChain = true) :
    chainLimits b d = .ok (.done { detail := anyDetail } 1)
      ((setBits (BitVec.ofNat 16 (u16 b 4))).foldl (fun d n => sendInfo n d) (eachLink (u16 b 4) (fun _ l =>
        { l with maxLanes := bits (u16 b 6) 0 2, maxRate := bits (u16 b 6) 2 2, fecOff := bit (u16 b 6) 4 }) d)) := by
  unfold chainLimits
  split
  · next hoff =>
    rw [bind_ok (needExpert_ok (h hoff))]
    rfl
  · rfl

theorem chainDisable_ok
    (h : bit (u16 b 2) 3 = true ∨ ∀ n ∈ setBits (BitVec.ofNat 16 (u16 b 4)), linkInUse d n = false) :
    chainDisable b d = .ok (.done { detail := anyDetail } 1)
      ((setBits (BitVec.ofNat 16 (u16 b 4))).foldl (fun d n => disableLink n d) d) := by
  have hfree : (bit (u16 b 2) 3 || !(setBits (BitVec.ofNat 16 (u16 b 4))).any (linkInUse d)) = true := by
    rw [Bool.or_eq_true, Bool.not_eq_true', List.any_eq_false]
    exact h.imp_right fun h n hn => by rw [h n hn]; decide
  unfold chainDisable
  rw [bind_ok get_ok, bind_ok (require_true hfree)]
  rfl

theorem chainRetrain_ok :
    chainRetrain b d = .ok (.done { detail := anyDetail } 1) (eachLink (u16 b 4) (fun _ l =>
      if l.state = .up then negotiate { l with failures := 0 } else l) d) := by
  have hup (l : Link) : (linkUp l = true) = (l.state = .up) := by simp [linkUp]
  unfold chainRetrain
  simp only [hup]
  rfl

theorem chainRoutes_ok {t : Bytes} {d2 : Dev} (hr : rd env (u64 b 8) 2048 d = .ok t d2)
    (ht : ∀ y ∈ t, bits y.toNat 4 3 = 0) (hb : chainBusy d2 = false) :
    chainRoutes env b d = .ok (.done { detail := anyDetail } 1)
      (losing (fun d => { d with chain := { d.chain with routes := t.map (fun y => y.toNat) } }) d2) := by
  have hall : t.all (fun x => bits x.toNat 4 3 == 0) = true := List.all_eq_true.2 fun y hy => beq_iff_eq.2 (ht y hy)
  unfold chainRoutes
  rw [bind_ok hr, bind_ok (requireFmt_true hall), bind_ok get_ok, bind_ok (require_true (by rw [hb]; rfl))]
  rfl

theorem chainStatus_ok {d2 : Dev} (hc : checkDest (u64 b 8) 512 d = .ok () d)
    (hw : wr (u64 b 8) (d.chain.links.flatMap linkRecord) d = .ok () d2) :
    chainStatus b d = .ok (.done { detail := anyDetail } 1) d2 := by
  unfold chainStatus
  rw [bind_ok get_ok, bind_ok hc, bind_ok hw]
  rfl

end

/- MIRROR_CTL. -/

theorem mirrorHeader_ok {env : OpEnv} {x b : Bytes} {d d1 : Dev} (hd : descriptor env x 64 d = .ok b d1)
    (hb : mirrorCtlBad b = none) : mirrorHeader env x d = .ok b d1 := by
  unfold mirrorHeader
  rw [bind_ok hd]
  simp only [hb]
  rfl

section
variable {env : OpEnv} {x b : Bytes} {d d1 : Dev} (hd : mirrorHeader env x d = .ok b d1)
include hd

theorem bodyPair_waits (hrole : bits (u16 b 2) 2 2 = 1 ∨ bits (u16 b 2) 2 2 = 2)
    (hne : bits (u8 b 4) 0 4 ≠ bits (u8 b 4) 4 4) (ha : linkInUse d1 (bits (u8 b 4) 0 4) = false)
    (hb : linkInUse d1 (bits (u8 b 4) 4 4) = false) (hz : d1.chain.mirror.role = 0)
    (hp : pairFails d1 (bits (u16 b 2) 2 2) (bits (u16 b 6) 0 11) (bits (u8 b 4) 0 4) (bits (u8 b 4) 4 4) = false) :
    bodyPair env x d = .ok (.running .pair 0) (setPair b d1) := by
  unfold bodyPair
  rw [bind_ok hd, bind_ok (requireFmt_true (by simpa using hrole)), bind_ok (requireFmt_true (bne_iff_ne.2 hne)),
    bind_ok get_ok, bind_ok (require_true (by rw [ha, hb, hz]; rfl)), bind_ok (requireFmt_true (by rw [hp]; rfl))]
  rfl

theorem bodyUnpair_ok : bodyUnpair env x d = .ok (.done { detail := anyDetail } 1) (unpair d1) := by
  unfold bodyUnpair
  rw [bind_ok hd]
  rfl

end

/-- A context that this device can attach is not terminated, and the pair is paired. -/
theorem attachPlace_fresh {d : Dev} {c : Nat} {own : QRef × Nat} {place : Bytes} (h : attachPlace d c own = some place) :
    (ctxOf d c).any (fun x => x.terminated) = false ∧ (d.chain.mirror.state == .paired) = true := by
  unfold attachPlace at h
  cases hx : ctxOf d c with
  | none =>
    rw [hx] at h
    cases h
  | some x =>
    rw [hx] at h
    dsimp only at h
    split at h
    · next hgo =>
      obtain ⟨hleft, hfresh⟩ := Bool.and_eq_true_iff.1 hgo
      refine ⟨?_, (Bool.and_eq_true_iff.1 hleft).1⟩
      simp only [ctxFresh, hx, Bool.and_eq_true, Bool.not_eq_true'] at hfresh
      obtain ⟨⟨⟨⟨hterm, -⟩, -⟩, -⟩, -⟩ := hfresh
      exact hterm
    · cases h

section
variable {env : OpEnv} {x b place : Bytes} {d d1 : Dev} (hd : mirrorHeader env x d = .ok b d1)
  (hp : attachPlace d1 (u16 b 8) (env.q, env.idx) = some place)
include hd hp

theorem bodyAttach_waits (ho : ∀ y ∈ d1.chain.mirror.offers, y.1 ≠ u16 b 8) :
    bodyAttach env x d = .ok (.running (.attach (u16 b 8) (u16 b 0xA)) 0)
      (sendMirror (.mirrorLog (u16 b 8) (.attach (some place))) d1) := by
  obtain ⟨hterm, hpaired⟩ := attachPlace_fresh hp
  have hfind : d1.chain.mirror.offers.find? (fun o => o.1 == u16 b 8) = none :=
    List.find?_eq_none.2 fun y hy => by simpa using ho y hy
  unfold bodyAttach
  rw [bind_ok hd, bind_ok get_ok]
  simp only [hp, hterm, hpaired, hfind, if_true]
  rw [bind_ok (require_true (b := !false) rfl)]
  rfl

theorem bodyAttach_meets
    (ho : d1.chain.mirror.offers.find? (fun y => y.1 == u16 b 8) = some (u16 b 8, some place)) :
    bodyAttach env x d = .ok (.done { detail := anyDetail } 1)
      (modMirror (fun m => { m with ctxs := m.ctxs ++ [{ ctx := u16 b 8, checkEvery := u16 b 0xA }] })
        (modMirror (fun m => { m with offers := m.offers.erase (u16 b 8, some place) })
          (sendMirror (.mirrorLog (u16 b 8) (.attach (some place))) d1))) := by
  obtain ⟨hterm, hpaired⟩ := attachPlace_fresh hp
  unfold bodyAttach
  rw [bind_ok hd, bind_ok get_ok]
  simp only [hp, hterm, hpaired, ho, if_true]
  rw [bind_ok (require_true (b := !false) rfl), bind_ok change_ok,
    bind_ok (requireFmt_true (b := (some place).isSome) rfl), bind_ok change_ok,
    bind_ok (requireFmt_true (beq_self_eq_true _)), bind_ok change_ok]
  rfl

end

theorem bodyDetach_ok {env : OpEnv} {x b : Bytes} {d d1 : Dev} {m : MirrorCtx} (hd : mirrorHeader env x d = .ok b d1)
    (hm : mirrorCtx d1 (u16 b 8) = some m) (ht : ∀ c : Ctx, ctxOf d1 (u16 b 8) = some c → c.terminated = false) :
    bodyDetach env x d = .ok (.done { detail := anyDetail } 1) (releaseCtxs (fun m => m.ctx == u16 b 8)
      (sendMirror (.mirrorLog (u16 b 8) .detach) d1)) := by
  have hopen : (ctxOf d1 (u16 b 8)).any (fun x => x.terminated) = false := by
    cases hc : ctxOf d1 (u16 b 8) with
    | none => rfl
    | some c => exact ht c hc
  unfold bodyDetach
  rw [bind_ok hd, bind_ok get_ok, bind_ok (require_true (by rw [hopen]; rfl)),
    bind_ok (requireFmt_true (by rw [hm]; rfl)), bind_ok change_ok]
  rfl

/-- Settles O15: each action's checks and its effect, through the row that names it. -/
theorem chainAndMirrorControlAct : Obligations.ChainAndMirrorControlAct := by
  refine ⟨fun s q e o r x b d d1 h hd hb hn => ?_, fun s q e o r x b d d1 h hd hb hn => ?_⟩
  · refine ⟨fun ha hx => ?_, fun ha => ?_, fun ha hu => ?_, fun ha => ?_, fun t d2 ha hr ht hb' => ?_, fun d2 ha hc hw => ?_⟩
    · exact chainRow_done h hd hb hn ha (chainLimits_ok hx)
    · exact chainRow_done h hd hb hn ha rfl
    · exact chainRow_done h hd hb hn ha (chainDisable_ok hu)
    · exact chainRow_done h hd hb hn ha chainRetrain_ok
    · exact chainRow_done h hd hb hn ha (chainRoutes_ok hr ht hb')
    · exact chainRow_done h hd hb hn ha (chainStatus_ok hc hw)
  · have hhead := mirrorHeader_ok hd hb
    refine ⟨fun ha hrole hne hla hlb hz hp => ?_, fun ha => ?_, fun place ha hp => ⟨fun ho => ?_, fun ho => ?_⟩,
      fun m ha hm ht => ?_⟩
    · exact actionRow_running h (hn.trans ha) (bodyPair_waits hhead hrole hne hla hlb hz hp)
    · exact actionRow_done h (hn.trans ha) (bodyUnpair_ok hhead)
    · exact actionRow_running h (hn.trans ha) (bodyAttach_waits hhead hp ho)
    · exact actionRow_done h (hn.trans ha) (bodyAttach_meets hhead hp ho)
    · exact actionRow_done h (hn.trans ha) (bodyDetach_ok hhead hm ht)

end Sys2Proof.Proofs
end

section
/-! PROOFS. R364 to R376, R379 to R383, R388: CAL_WRITE, OTP programming, FW_UPDATE, ATTEST and requests for entropy. -/

namespace Sys2Proof.Proofs

open Sys2Proof Sys2Proof.Machine Sys2Proof.Laws

/- CAL_WRITE sessions. -/

theorem calKey_session {p : Bytes} {n : Nat} (h : u8 p 0 = 0 ∨ u8 p 0 = 2) (h1 : u8 p 1 = n) (hn : n < 3) : calKey p = n := by
  unfold calKey
  rw [if_neg (by omega), if_pos ⟨h, by omega⟩, h1]

theorem calHeader_ok {p : Bytes} {d : Dev} (h2 : u16 p 2 = 0) (hlen : (u8 p 1 == 1) = decide (8 < p.length))
    (hs : u8 p 0 = 0 ∨ (u8 p 0 = 2 ∧ d.trust.lifecycle = lcMaker)) : calHeader p d = .ok () d := by
  have hmaker : (u8 p 0 == 0 || d.trust.lifecycle == lcMaker) = true := by
    rw [Bool.or_eq_true, beq_iff_eq, beq_iff_eq]
    exact hs.imp_right And.right
  unfold calHeader
  simp only [h2, hlen, bne_self_eq_false, ne_eq, not_true_eq_false, Bool.false_eq_true, if_false]
  rw [bind_ok get_ok]
  exact require_true hmaker

theorem needCalw_ok {n : Nat} {c : CalSession} {d : Dev} (h : d.trust.calw = some c) (hs : c.space = n) :
    needCalw n d = .ok c d := by
  unfold needCalw
  rw [bind_ok get_ok]
  simp only [h, hs, if_true]
  rfl

section
variable {env : MailEnv} {p : Bytes} {d : Dev} (hh : calHeader p d = .ok () d)
include hh

theorem bodyCalWrite_begin (h1 : u8 p 1 = 0) (hlo : 1 ≤ u32 p 4)
    (hhi : u32 p 4 ≤ (if u8 p 0 = 0 then 1048576 else 8176)) :
    bodyCalWrite env p d = .ok (some []) (setCalw (some { space := u8 p 0, total := u32 p 4, staged := [] }) d) := by
  have hsize : ¬ (u32 p 4 = 0 ∨ (if u8 p 0 = 0 then 1048576 else 8176) < u32 p 4) := by omega
  unfold bodyCalWrite
  rw [bind_ok hh, h1]
  simp only [calBegin, hsize, if_false]
  rfl

theorem bodyCalWrite_data {c : CalSession} (h1 : u8 p 1 = 1) (hc : d.trust.calw = some c) (hs : c.space = u8 p 0)
    (ho : u32 p 4 = c.staged.length) (hn : c.staged.length + (p.length - 8) ≤ c.total) :
    bodyCalWrite env p d = .ok (some []) (setCalw (some { c with staged := c.staged ++ p.drop 8 }) d) := by
  have hfits : ¬ (u32 p 4 ≠ c.staged.length ∨ c.total < c.staged.length + (p.drop 8).length) := by
    rw [List.length_drop]
    omega
  unfold bodyCalWrite
  rw [bind_ok hh, h1]
  simp only [calData]
  rw [bind_ok (needCalw_ok hc hs)]
  simp only [hfits, if_false]
  rfl

section
variable {c : CalSession} (h1 : u8 p 1 = 2) (hc : d.trust.calw = some c) (hs : c.space = u8 p 0)
  (hn : c.staged.length = c.total)
include h1 hc hs hn

theorem bodyCalWrite_set (h0 : u8 p 0 = 0) (hb : calBad d.trust.uniqueId c.staged = none) :
    bodyCalWrite env p d = .ok (some []) (logEv 0x0209 dieNorth (u32 (calOwned c.staged) 0x18) 0 0
      { setCalw none d with flash := { d.flash with cal := calOwned c.staged } }) := by
  have hbad : calBad (setCalw none d).trust.uniqueId c.staged = none := hb
  unfold bodyCalWrite
  rw [bind_ok hh, h1]
  simp only [calCommit]
  rw [bind_ok (needCalw_ok hc hs)]
  simp only [hn, hs, h0, ne_eq, not_true_eq_false, if_false, if_true]
  rw [bind_ok change_ok, bind_ok get_ok]
  simp only [hbad]
  rfl

theorem bodyCalWrite_certificate {seed : Bytes} (h0 : u8 p 0 = 2) (hseed : d.trust.seed = some seed)
    (hk : contains (Config.mldsaPublic seed) c.staged = true) :
    bodyCalWrite env p d = .ok (some []) { setCalw none d with flash := { d.flash with
      cert := leBytes 4 c.staged.length ++ leBytes 4 (crc32c c.staged) ++ leBytes 8 0 ++ c.staged } } := by
  have hseed' : (setCalw none d).trust.seed = some seed := hseed
  unfold bodyCalWrite
  rw [bind_ok hh, h1]
  simp only [calCommit]
  rw [bind_ok (needCalw_ok hc hs)]
  simp only [hn, hs, h0, ne_eq, not_true_eq_false, if_false]
  rw [bind_ok change_ok, bind_ok get_ok]
  simp only [hseed', hk, if_true]
  rfl

end
end

theorem calWrites {s : State} {ch : Chan} {p : Bytes} (h : MailWaits s ch 0x21 true false p) (h2 : u16 p 2 = 0)
    (hs : u8 p 0 = 0 ∨ (u8 p 0 = 2 ∧ s.dev.trust.lifecycle = lcMaker)) :
    (p.length = 8 → u8 p 1 = 0 → 1 ≤ u32 p 4 → u32 p 4 ≤ (if u8 p 0 = 0 then 1048576 else 8176) →
      exec (.calWriteBegin ch) s = .next (answers ch []
        (setCalw (some { space := u8 p 0, total := u32 p 4, staged := [] }) s.dev) s)) ∧
    (∀ c : CalSession, 8 < p.length → p.length ≤ 4096 → u8 p 1 = 1 → s.dev.trust.calw = some c → c.space = u8 p 0 →
      u32 p 4 = c.staged.length → c.staged.length + (p.length - 8) ≤ c.total →
      exec (.calWriteData ch) s = .next (answers ch []
        (setCalw (some { c with staged := c.staged ++ p.drop 8 }) s.dev) s)) ∧
    (∀ c : CalSession, p.length = 8 → u8 p 1 = 2 → s.dev.trust.calw = some c → c.space = u8 p 0 →
      c.staged.length = c.total →
      (u8 p 0 = 0 → calBad s.dev.trust.uniqueId c.staged = none →
        exec (.calWriteCommit ch) s = .next (answers ch []
          (logEv 0x0209 dieNorth (u32 (calOwned c.staged) 0x18) 0 0
            { setCalw none s.dev with flash := { s.dev.flash with cal := calOwned c.staged } }) s)) ∧
      (∀ seed : Bytes, u8 p 0 = 2 → s.dev.trust.seed = some seed → contains (Config.mldsaPublic seed) c.staged = true →
        exec (.calWriteCommit ch) s = .next (answers ch []
          { setCalw none s.dev with flash := { s.dev.flash with
            cert := leBytes 4 c.staged.length ++ leBytes 4 (crc32c c.staged) ++ leBytes 8 0 ++ c.staged } } s))) := by
  have hspace : u8 p 0 = 0 ∨ u8 p 0 = 2 := hs.imp_right And.left
  have hkey {n : Nat} (h1 : u8 p 1 = n) (hn : n < 3) : (calKey p == n) = true := beq_iff_eq.2 (calKey_session hspace h1 hn)
  refine ⟨fun hl h1 hlo hhi => ?_, fun c hlo hhi h1 hc hsp ho hn => ?_, fun c hl h1 hc hsp hn => ?_⟩
  · have hh := calHeader_ok h2 (by rw [h1, hl]; rfl) hs
    exact mailRow_ok h (by rw [hl]; rfl) (hkey h1 (by decide)) (bodyCalWrite_begin hh h1 hlo hhi)
  · have hh := calHeader_ok h2 (by rw [h1, decide_eq_true hlo]; rfl) hs
    have hlen : lenOk cmdCalWrite p.length = true := by simp [lenOk, cmdCalWrite]; omega
    exact mailRow_ok h hlen (hkey h1 (by decide)) (bodyCalWrite_data hh h1 hc hsp ho hn)
  · have hh := calHeader_ok h2 (by rw [h1, hl]; rfl) hs
    refine ⟨fun h0 hb => ?_, fun seed h0 hseed hk => ?_⟩
    · exact mailRow_ok h (by rw [hl]; rfl) (hkey h1 (by decide)) (bodyCalWrite_set hh h1 hc hsp hn h0 hb)
    · exact mailRow_ok h (by rw [hl]; rfl) (hkey h1 (by decide)) (bodyCalWrite_certificate hh h1 hc hsp hn h0 hseed hk)

/- OTP. -/

/-- A message that may program OTP is served by its body. -/
theorem serveOtp_body {s : State} {ch : Chan} {c : MailCmd} {p : Bytes} {mine : Bytes → Bool} {o : Otp}
    {act : Act (Option Bytes)} {body : Otp → MailEnv → Bytes → Otp × Act (Option Bytes)}
    (h : MailWaits s ch c.code c.owner c.early p) (hl : lenOk c p.length = true) (hm : mine p = true)
    (hb : body s.otp { ch := ch, drawn := none } p = (o, act)) :
    serveOtp ch c mine body s = { s with otp := o, dev := settleMail ch s.dev (act s.dev) } := by
  obtain ⟨tag, ht⟩ := mailDue_waits h
  have hk := mailChecks_waits h hl
  simp only [serveOtp, ht, hm, hk, hb, if_true]

/-- OTP with the bits of `got` programmed into a generation. -/
def genProgrammed (group g : Nat) (got : Bytes) (o : Otp) : Otp :=
  { o with gens := modAt (4 * group + g) (fun v => v ||| BitVec.ofNat 512 (leNat got)) o.gens }

/-- A generation that is free is programmed; the answer depends on what reads back. -/
theorem programResult_free {o : Otp} {group g : Nat} {data : Bytes} {back : Option Bytes} (hg : freeGen o group = some g) :
    (programResult o group data back).1 = genProgrammed group g (padTo 64 (back.getD (genImage group g data))) o ∧
    ∀ d, (programResult o group data back).2 d =
      if padTo 64 (back.getD (genImage group g data)) = genImage group g data then
        .ok (some (leBytes 8 g)) (logEv 0x020A dieNorth group g 0 d)
      else .error (.fail stDeviceFault anyDetail) (logEv 0x020A dieNorth group g 1 d) := by
  have hprog : programGen o group data back = some
      (genProgrammed group g (padTo 64 (back.getD (genImage group g data))) o, g, padTo 64 (back.getD (genImage group g data)) == genImage group g data) := by
    simp only [programGen, hg, Option.map_some, genProgrammed]
  unfold programResult
  rw [hprog]
  refine ⟨rfl, fun d => ?_⟩
  dsimp only
  rw [bind_ok change_ok]
  split
  · next heq =>
    rw [heq, if_pos (beq_iff_eq.1 heq)]
    rfl
  · next hne =>
    rw [Bool.eq_false_iff.2 hne, if_neg (fun heq => hne (beq_iff_eq.2 heq))]
    rfl

theorem settingBody_good {back : Option Bytes} {o : Otp} {env : MailEnv} {p : Bytes} (hl : p.length = 64) (h0 : u8 p 0 = 1)
    (h1 : u8 p 1 ≠ 0) (hb : settingBad p = none) :
    settingBody back o env p = programResult o (u8 p 1) (p.drop 8) back := by
  simp only [settingBody, h0, hl, h1, hb, ne_eq, not_true_eq_false, if_false]

theorem exec_calWriteSetting {s : State} {ch : Chan} {p img : Bytes} {g : Nat} {back : Option Bytes}
    (h : MailWaits s ch 0x21 true false p) (hl : p.length = 64) (h0 : u8 p 0 = 1) (h1 : u8 p 1 ≠ 0)
    (hb : settingBad p = none) (hg : freeGen s.otp (u8 p 1) = some g) (hi : img = genImage (u8 p 1) g (p.drop 8)) :
    exec (.calWriteSetting ch back) s = .next
      { s with
        otp := { s.otp with
          gens := modAt (4 * u8 p 1 + g) (fun v => v ||| BitVec.ofNat 512 (leNat (padTo 64 (back.getD img)))) s.otp.gens }
        dev := if padTo 64 (back.getD img) = img then
            respond ch stOk (leBytes 8 g) (logEv 0x020A dieNorth (u8 p 1) g 0 s.dev)
          else respondFail ch stDeviceFault anyDetail (logEv 0x020A dieNorth (u8 p 1) g 1 s.dev) } := by
  subst hi
  obtain ⟨hotp, hact⟩ := programResult_free (data := p.drop 8) (back := back) hg
  have hkey : ofAction calKey 3 [0, 1, 2, 3] p = true := by simp [ofAction, calKey, h0]
  have hserve := serveOtp_body (c := cmdCalWrite) h (by rw [hl]; rfl) hkey
    ((settingBody_good (back := back) (o := s.otp) (env := { ch := ch, drawn := none }) hl h0 h1 hb).trans
      (Prod.eta (programResult s.otp (u8 p 1) (p.drop 8) back)).symm)
  rw [hotp, hact] at hserve
  refine congrArg Host.Outcome.next (hserve.trans ?_)
  split <;> rfl

@[simp] theorem length_padTo (n : Nat) (bs : Bytes) : (padTo n bs).length = n := by
  simp only [padTo, List.length_take, List.length_append, List.length_replicate]
  omega

theorem padTo_of_length {n : Nat} {bs : Bytes} (h : bs.length = n) : padTo n bs = bs := by
  rw [padTo, List.take_append_of_le_length (Nat.le_of_eq h.symm), List.take_of_length_le (Nat.le_of_eq h)]

theorem length_genImage (group g : Nat) (data : Bytes) : (genImage group g data).length = 64 := by
  simp [genImage]

theorem raisesFloor {s : State} {ch : Chan} {p : Bytes} {rev : Nat} (h : MailWaits s ch 0x40 true false p)
    (hl : p.length = 8) (h0 : u8 p 0 = 4) (h1 : u16 p 1 = 0) (h3 : u8 p 3 = 0) (h4 : u32 p 4 = 0)
    (hr : rev = (floorOf s.otp).2 ||| (s.dev.trust.fwRevoke &&& (15 - (2 ^ s.dev.trust.fwKeySlot &&& 15)))) :
    ((floorOf s.otp).1 = s.dev.trust.fwSecVersion → (floorOf s.otp).2 = rev →
      exec (.raiseFloor ch none) s = .next { s with dev := respond ch stOk [] s.dev }) ∧
    (∀ g : Nat, ((floorOf s.otp).1 ≠ s.dev.trust.fwSecVersion ∨ (floorOf s.otp).2 ≠ rev) → freeGen s.otp 0 = some g →
      exec (.raiseFloor ch none) s = .next
        { s with
          otp := { s.otp with
            gens := modAt g (fun v => v ||| BitVec.ofNat 512 (leNat (padTo 64
              (genImage 0 g (leBytes 2 s.dev.trust.fwSecVersion ++ leBytes 1 rev))))) s.otp.gens }
          dev := respond ch stOk (leBytes 8 g) (logEv 0x0204 dieNorth s.dev.trust.fwSecVersion rev g
            (logEv 0x020A dieNorth 0 g 0 s.dev)) }) := by
  have hmine : (fun p => fwAction p == 4) p = true := beq_iff_eq.2 h0
  have hexec {o : Otp} {act : Act (Option Bytes)} (hb : raiseFloorBody none s.otp s.dev p = (o, act)) :
      exec (.raiseFloor ch none) s = .next { s with otp := o, dev := settleMail ch s.dev (act s.dev) } :=
    congrArg Host.Outcome.next (serveOtp_body (c := cmdFw) (mine := fun p => fwAction p == 4)
      (body := fun o _ p => raiseFloorBody none o s.dev p) h (by rw [hl]; rfl) hmine hb)
  have hbody : raiseFloorBody none s.otp s.dev p =
      if s.dev.trust.fwSecVersion = (floorOf s.otp).1 ∧ rev = (floorOf s.otp).2 then (s.otp, pure (some []))
      else ((programResult s.otp 0 (leBytes 2 s.dev.trust.fwSecVersion ++ leBytes 1 rev) none).1, do
        let r ← (programResult s.otp 0 (leBytes 2 s.dev.trust.fwSecVersion ++ leBytes 1 rev) none).2
        change (logEv 0x0204 dieNorth s.dev.trust.fwSecVersion rev ((freeGen s.otp 0).getD 0))
        pure r) := by
    subst hr
    simp only [raiseFloorBody, h1, h3, h4, hl, ne_eq, not_true_eq_false, or_self, if_false]
  refine ⟨fun hsv hrev => ?_, fun g hne hg => ?_⟩
  · rw [if_pos ⟨hsv.symm, hrev.symm⟩] at hbody
    exact hexec hbody
  · rw [if_neg (by rintro ⟨hsv, hrev⟩; exact hne.elim (· hsv.symm) (· hrev.symm))] at hbody
    obtain ⟨hotp, hact⟩ := programResult_free (data := leBytes 2 s.dev.trust.fwSecVersion ++ leBytes 1 rev)
      (back := none) hg
    have hgood := padTo_of_length (length_genImage 0 g (leBytes 2 s.dev.trust.fwSecVersion ++ leBytes 1 rev))
    rw [hexec hbody, hotp, genProgrammed, Nat.mul_zero, Nat.zero_add]
    have hdone := hact s.dev
    rw [Option.getD_none, if_pos hgood] at hdone
    rw [bind_ok hdone, bind_ok change_ok, hg]
    rfl

/- The life cycle. -/

/-- The message of a life-cycle command is served once its checks have passed. -/
theorem exec_lifecycleAdvance {s : State} {ch : Chan} {p : Bytes} {early : Bool}
    (he : early = (s.dev.trust.lifecycle == lcBlank && ch == .jtag && u8 p 0 == lcMaker))
    (h : MailWaits s ch 0x41 true early p) (hl : p.length = 8 ∨ p.length = 3381)
    (hr : (u8 p 0 == lcReturn) = decide (p.length = 3381)) :
    exec (.lifecycleAdvance ch) s = .next (lifecycleServe ch p s) := by
  subst he
  obtain ⟨tag, ht⟩ := mailDue_waits h
  have hk := mailChecks_waits
    (c := ⟨0x41, [(8, 8), (3381, 3381)], true, s.dev.trust.lifecycle == lcBlank && ch == .jtag && u8 p 0 == lcMaker⟩) h
    (by rcases hl with hl | hl <;> rw [hl] <;> rfl)
  show execLifecycleAdvance ch s = _
  simp only [execLifecycleAdvance, ht, hk, hr, beq_self_eq_true, if_true]

/-- The state once the device has entered life-cycle state `t`. -/
def entered (t : Nat) (ch : Chan) (s : State) : State :=
  { s with otp := (advanceTo t ch s.otp s.dev).1, dev := respond ch stOk [] (advanceTo t ch s.otp s.dev).2 }

theorem lifecycleServe_maker {s : State} {p : Bytes} (h1 : nonzeroIn p 1 7 = none) (hb : s.dev.trust.lifecycle = lcBlank)
    (ht : u8 p 0 = lcMaker) : lifecycleServe .jtag p s = entered lcMaker .jtag s := by
  simp only [lifecycleServe, h1, hb, ht, and_self, if_true]
  rfl

theorem lifecycleServe_sealed {s : State} {ch : Chan} {p : Bytes} (h1 : nonzeroIn p 1 7 = none)
    (hb : s.dev.trust.lifecycle = lcMaker) (ht : u8 p 0 = lcSealed) (hs : sealBad s.dev = 0) :
    lifecycleServe ch p s = entered lcSealed ch s := by
  have hskip : ¬ (lcMaker = lcBlank ∧ lcSealed = lcMaker) := by decide
  simp only [lifecycleServe, h1, hb, ht, hs, hskip, and_self, if_true, if_false]
  rfl

theorem lifecycleServe_return {s : State} {ch : Chan} {p : Bytes} (h1 : nonzeroIn p 1 7 = none)
    (hb : s.dev.trust.lifecycle = lcMaker ∨ s.dev.trust.lifecycle = lcSealed) (ht : u8 p 0 = lcReturn)
    (hk : tokenBad s.dev 0x5452584C (fun x => x == 3) (p.drop 8) = none) :
    lifecycleServe ch p s = entered lcReturn ch { s with dev := useNonce s.dev } := by
  have hmaker : ¬ (s.dev.trust.lifecycle = lcBlank ∧ lcReturn = lcMaker) := fun h => absurd h.2 (by decide)
  have hseal : ¬ (s.dev.trust.lifecycle = lcMaker ∧ lcReturn = lcSealed) := fun h => absurd h.2 (by decide)
  simp only [lifecycleServe, h1, ht, hmaker, hseal, hb, hk, and_self, if_true, if_false]
  rfl

/-- Settles O19: the sessions of CAL_WRITE, the generation programmed, and the life-cycle word programmed. -/
theorem calibrationAndOtpAreProgrammed : Obligations.CalibrationAndOtpAreProgrammed := by
  refine ⟨fun s ch p h h2 hs => calWrites h h2 hs, fun s ch p img g back => exec_calWriteSetting,
    fun s ch p rev => raisesFloor, fun s ch p t hl h0 h1 ht => ?_, fun s ch p h hl h0 h1 hb hk => ?_⟩
  · obtain ⟨rfl, hb, rfl, h⟩ | ⟨rfl, hb, hs, h⟩ := ht
    · rw [exec_lifecycleAdvance (by rw [hb, h0]; rfl) h (.inl hl) (by rw [h0, hl]; rfl),
        lifecycleServe_maker h1 hb h0]
      rfl
    · rw [exec_lifecycleAdvance (by rw [hb]; rfl) h (.inl hl) (by rw [h0, hl]; rfl),
        lifecycleServe_sealed h1 hb h0 hs]
      rfl
  · have hearly : false = (s.dev.trust.lifecycle == lcBlank && ch == .jtag && u8 p 0 == lcMaker) := by
      rw [h0, show (lcReturn == lcMaker) = false from rfl, Bool.and_false]
    rw [exec_lifecycleAdvance hearly h (.inr hl) (by rw [h0, hl]; rfl), lifecycleServe_return h1 hb h0 hk]
    rfl

end Sys2Proof.Proofs
end

section
/-! PROOFS. R364, R365, R372 to R376, R386 to R392: FW_UPDATE, ATTEST, and the entropy source. -/

namespace Sys2Proof.Proofs

open Sys2Proof Sys2Proof.Machine Sys2Proof.Laws

/- FW_UPDATE. -/

theorem fwHeader_ok {p : Bytes} {d : Dev} (h0 : u8 p 0 ≤ 4) (h1 : u16 p 1 = 0) (h3 : u8 p 3 = 0)
    (hl : (u8 p 0 == 1) = decide (8 < p.length)) : fwHeader p d = .ok () d := by
  unfold fwHeader
  simp only [Nat.not_lt.2 h0, h1, h3, hl, bne_self_eq_false, ne_eq, not_true_eq_false, Bool.false_eq_true, if_false]
  rfl

theorem needFw_ok {f : FwSession} {d : Dev} (h : d.trust.fw = some f) : needFw d = .ok f d := by
  unfold needFw
  rw [bind_ok get_ok]
  simp only [h]
  rfl

section
variable {d : Dev} {arg : Nat}

theorem fwBegin_ok (hlo : 5441 ≤ arg) (hhi : arg ≤ 16773120) :
    fwBegin arg d = .ok (some [])
      (setFw (some { total := arg, written := 0 }) (setSlot (!d.trust.fwSlotB) [] none d)) := by
  have hsize : ¬ (arg < 5441 ∨ 16773120 < arg) := by omega
  simp only [fwBegin, hsize, if_false]
  rfl

theorem fwWrite_ok {f : FwSession} {bs : Bytes} (hf : d.trust.fw = some f) (ho : arg = f.written)
    (hn : f.written + bs.length ≤ f.total) :
    fwWrite arg bs d = .ok (some []) (setFw (some { f with written := f.written + bs.length })
      (setSlot (!d.trust.fwSlotB) (slotBytes d (!d.trust.fwSlotB) ++ bs) none (flashInjection 7 d).2)) := by
  have hfits : ¬ (arg ≠ f.written ∨ f.total < f.written + bs.length) := by omega
  unfold fwWrite
  rw [bind_ok (needFw_ok hf)]
  simp only [hfits, if_false]
  rfl

theorem fwCommit_ok {f : FwSession} (ha : arg = 0) (hf : d.trust.fw = some f) (hn : f.written = f.total)
    (hi : imageBad d (slotBytes d (!d.trust.fwSlotB)) = none) (hs : (slotCommit d d.trust.fwSlotB).getD 0 < 0xFFFFFFFF) :
    fwCommit arg d = .ok (some [])
      (logEv 0x0203 dieNorth (ofBool (!d.trust.fwSlotB)) ((slotCommit d d.trust.fwSlotB).getD 0 + 1)
        (u16 (slotBytes d (!d.trust.fwSlotB)) 0xC)
        (setFw none (setSlot (!d.trust.fwSlotB) (slotBytes d (!d.trust.fwSlotB))
          (some ((slotCommit d d.trust.fwSlotB).getD 0 + 1)) d))) := by
  have hseq : ¬ 0xFFFFFFFF < (slotCommit d d.trust.fwSlotB).getD 0 + 1 := by omega
  unfold fwCommit
  simp only [ha, ne_eq, not_true_eq_false, if_false]
  rw [bind_ok (needFw_ok hf)]
  simp only [hn, not_true_eq_false, if_false]
  rw [bind_ok get_ok]
  simp only [hi, Bool.not_not, hseq, if_false]
  rfl

theorem fwAbort_ok (ha : arg = 0) : fwAbort arg d = .ok (some []) (setFw none d) := by
  simp only [fwAbort, ha, ne_eq, not_true_eq_false, if_false]
  rfl

end

/-- The action of FW_UPDATE of a number. -/
def fwAct (p : Bytes) (act : Nat) : Act (Option Bytes) :=
  match act with
  | 0 => fwBegin (u32 p 4)
  | 1 => fwWrite (u32 p 4) (p.drop 8)
  | 2 => fwCommit (u32 p 4)
  | _ => fwAbort (u32 p 4)

theorem fwRow_ok {s : State} {ch : Chan} {p : Bytes} {act : Nat} {d : Dev} (h : MailWaits s ch 0x40 true false p)
    (h1 : u16 p 1 = 0) (h3 : u8 p 3 = 0) (hlo : 8 ≤ p.length) (hhi : p.length ≤ 4096) (h0 : u8 p 0 = act) (ha : act ≤ 4)
    (hl : (act == 1) = decide (8 < p.length)) (hb : fwAct p act s.dev = .ok (some []) d) :
    fwRow ch act s = .next (answers ch [] d s) := by
  subst h0
  have hlen : lenOk cmdFw p.length = true := by simp [lenOk, cmdFw, hlo, hhi]
  have hbody : bodyFw { ch := ch, drawn := none } p s.dev = .ok (some []) d := by
    unfold bodyFw
    rw [bind_ok (fwHeader_ok ha h1 h3 hl)]
    exact hb
  exact mailRow_ok h hlen (by simp [ofAction, fwAction]) hbody

/- ATTEST. -/

theorem attestHeader_ok {p : Bytes} {d : Dev} (h0 : u8 p 0 ≤ 4) (h1 : u16 p 1 = 0) (h3 : u8 p 3 = 0)
    (hl : (u8 p 0 == 0) = decide (p.length = 40)) (h4 : u8 p 0 = 2 ∨ u32 p 4 = 0) : attestHeader p d = .ok () d := by
  have hfields : ¬ (u16 p 1 ≠ 0 ∨ u8 p 3 ≠ 0) := by omega
  have hoffset : ¬ (u8 p 0 ≠ 2 ∧ u32 p 4 ≠ 0) := by omega
  unfold attestHeader
  simp only [Nat.not_lt.2 h0, hfields, hoffset, hl, bne_self_eq_false, Bool.false_eq_true, if_false]
  rfl

theorem needIdentity_ok {seed : Bytes} {d : Dev} (hs : d.trust.seed = some seed)
    (hlc : d.trust.lifecycle = lcMaker ∨ d.trust.lifecycle = lcSealed) : needIdentity d = .ok seed d := by
  unfold needIdentity
  rw [bind_ok get_ok]
  simp only [hs, hlc, if_true]
  rfl

theorem mailDraw_none {ch : Chan} {n : Nat} {d : Dev} :
    mailDraw { ch := ch, drawn := none } n d = .error (.entropy n) d := rfl

theorem mailDraw_some {ch : Chan} {n : Nat} {b : Bytes} {d : Dev} :
    mailDraw { ch := ch, drawn := some b } n d = .ok b d := rfl

/- ATTEST's modes, one action each. -/

def attestQuote (env : MailEnv) (p : Bytes) : Act (Option Bytes) := do
  let s ← needIdentity
  let h ← mailDraw env 32
  change (fun d => { d with trust := { d.trust with quotes := low 32 (d.trust.quotes + 1) } })
  let d ← get
  let b := quoteBody d ((p.drop 8).take 32)
  pure (some (b ++ padTo 3309 (Config.mldsaSign s ctxQuote b h)))

def attestPublicKey : Act (Option Bytes) := do
  let s ← needIdentity
  pure (some (padTo 1952 (Config.mldsaPublic s)))

def attestCertificate (p : Bytes) : Act (Option Bytes) := do
  let _ ← needIdentity
  let d ← get
  pure (some ((((certBytes d).getD []).drop (u32 p 4)).take 4096))

def attestNonce (env : MailEnv) : Act (Option Bytes) := do
  let n ← mailDraw env 32
  change (fun d => { d with trust := { d.trust with nonce := some n } })
  pure (some n)

def attestKeygen (env : MailEnv) : Act (Option Bytes) := do
  let d ← get
  require (d.trust.lifecycle == lcMaker) stPrivileged anyDetail
  let x ← mailDraw env 32
  change (fun d => logEv 0x0206 dieNorth 0 0 0 { d with trust := { d.trust with seed := some x } })
  pure (some (padTo 1952 (Config.mldsaPublic x)))

/-- The action of ATTEST of a mode. -/
def attestAct (env : MailEnv) (p : Bytes) (mode : Nat) : Act (Option Bytes) :=
  match mode with
  | 0 => attestQuote env p
  | 1 => attestPublicKey
  | 2 => attestCertificate p
  | 3 => attestNonce env
  | _ => attestKeygen env

/-- In MAKER KEYGEN goes on to its draw (R373). -/
theorem attestKeygen_maker {env : MailEnv} {d : Dev} (hm : d.trust.lifecycle = lcMaker) :
    attestKeygen env d = (mailDraw env 32 >>= fun x => do
      change (fun d => logEv 0x0206 dieNorth 0 0 0 { d with trust := { d.trust with seed := some x } })
      pure (some (padTo 1952 (Config.mldsaPublic x)))) d := by
  unfold attestKeygen
  rw [bind_ok get_ok, bind_ok (require_true (by rw [hm]; rfl))]

section
variable {env : MailEnv} {p : Bytes} {d : Dev} (hh : attestHeader p d = .ok () d)
include hh

theorem bodyAttest_mode {mode : Nat} (h0 : u8 p 0 = mode) : bodyAttest env p d = attestAct env p mode d := by
  subst h0
  unfold bodyAttest
  rw [bind_ok hh]
  rfl

theorem bodyAttest_publicKey {seed : Bytes} (h0 : u8 p 0 = 1) (hi : needIdentity d = .ok seed d) :
    bodyAttest env p d = .ok (some (padTo 1952 (Config.mldsaPublic seed))) d :=
  (bodyAttest_mode hh h0).trans (bind_ok hi)

theorem bodyAttest_certificate {seed : Bytes} (h0 : u8 p 0 = 2) (hi : needIdentity d = .ok seed d) :
    bodyAttest env p d = .ok (some ((((certBytes d).getD []).drop (u32 p 4)).take 4096)) d :=
  (bodyAttest_mode hh h0).trans (bind_ok hi)

theorem bodyAttest_quote_asks {ch : Chan} {seed : Bytes} (h0 : u8 p 0 = 0) (hi : needIdentity d = .ok seed d) :
    bodyAttest { ch := ch, drawn := none } p d = .error (.entropy 32) d :=
  (bodyAttest_mode hh h0).trans ((bind_ok hi).trans (bind_error mailDraw_none))

theorem bodyAttest_nonce_asks {ch : Chan} (h0 : u8 p 0 = 3) :
    bodyAttest { ch := ch, drawn := none } p d = .error (.entropy 32) d :=
  (bodyAttest_mode hh h0).trans (bind_error mailDraw_none)

theorem bodyAttest_keygen_asks {ch : Chan} (h0 : u8 p 0 = 4) (hm : d.trust.lifecycle = lcMaker) :
    bodyAttest { ch := ch, drawn := none } p d = .error (.entropy 32) d :=
  (bodyAttest_mode hh h0).trans ((attestKeygen_maker hm).trans (bind_error mailDraw_none))

/-- A quote is signed with the bytes drawn (R376). -/
theorem bodyAttest_quote {ch : Chan} {seed b : Bytes} {t : Dev} (h0 : u8 p 0 = 0) (hi : needIdentity d = .ok seed d)
    (ht : t = { d with trust := { d.trust with quotes := low 32 (d.trust.quotes + 1) } }) :
    bodyAttest { ch := ch, drawn := some b } p d = .ok (some (quoteBody t ((p.drop 8).take 32) ++
      padTo 3309 (Config.mldsaSign seed ctxQuote (quoteBody t ((p.drop 8).take 32)) b))) t := by
  subst ht
  exact (bodyAttest_mode hh h0).trans ((bind_ok hi).trans (bind_ok mailDraw_some))

theorem bodyAttest_nonce {ch : Chan} {b : Bytes} (h0 : u8 p 0 = 3) :
    bodyAttest { ch := ch, drawn := some b } p d =
      .ok (some b) { d with trust := { d.trust with nonce := some b } } :=
  (bodyAttest_mode hh h0).trans (bind_ok mailDraw_some)

theorem bodyAttest_keygen {ch : Chan} {b : Bytes} (h0 : u8 p 0 = 4) (hm : d.trust.lifecycle = lcMaker) :
    bodyAttest { ch := ch, drawn := some b } p d = .ok (some (padTo 1952 (Config.mldsaPublic b)))
      (logEv 0x0206 dieNorth 0 0 0 { d with trust := { d.trust with seed := some b } }) :=
  (bodyAttest_mode hh h0).trans ((attestKeygen_maker hm).trans (bind_ok mailDraw_some))

theorem keygenBody_maker {o : Otp} (hm : d.trust.lifecycle = lcMaker) (hr : o.seedRow = 0#256) :
    keygenBody o env p d = bodyAttest env p d := by
  unfold keygenBody
  rw [bind_ok hh, bind_ok get_ok, bind_ok (require_true (by rw [hm]; rfl)), bind_ok (require_true (by rw [hr]; rfl))]

end

theorem bodyRngBytes_ok {env : MailEnv} {p : Bytes} {d : Dev} (hlo : 1 ≤ u32 p 0) (hhi : u32 p 0 ≤ 4096) :
    bodyRngBytes env p d = (mailDraw env (u32 p 0) >>= fun b => pure (some b)) d := by
  have hsize : ¬ (u32 p 0 = 0 ∨ 4096 < u32 p 0) := by omega
  simp only [bodyRngBytes, hsize, if_false]

/-- Settles O20: the actions of FW_UPDATE, the identity's key and certificate, and the draws asked for. -/
theorem firmwareAndAttestationAreServed : Obligations.FirmwareAndAttestationAreServed := by
  refine ⟨fun s ch p h h1 h3 => ⟨?_, ?_, ?_, ?_⟩, fun s ch p seed h hl h1 h3 hs hlc => ⟨fun h0 h4 => ?_, fun h0 => ?_⟩,
    fun s ch p n hf t ht => ⟨fun h h1 h3 h4 hn => ⟨?_, ?_, ?_⟩, fun h hl h0 hlo hhi => ?_⟩⟩
  · intro hl h0 hlo hhi
    exact fwRow_ok h h1 h3 (Nat.le_of_eq hl.symm) (by omega) h0 (by decide) (by rw [hl]; rfl) (fwBegin_ok hlo hhi)
  · intro f hlo hhi h0 hfw ho hn
    have hwrite := fwWrite_ok (bs := p.drop 8) hfw ho (by rwa [List.length_drop])
    rw [List.length_drop] at hwrite
    exact fwRow_ok h h1 h3 (Nat.le_of_lt hlo) hhi h0 (by decide) (by rw [decide_eq_true hlo]; rfl) hwrite
  · intro f hl h0 ha hfw hn hi hs
    exact fwRow_ok h h1 h3 (Nat.le_of_eq hl.symm) (by omega) h0 (by decide) (by rw [hl]; rfl) (fwCommit_ok ha hfw hn hi hs)
  · intro hl h0 ha
    exact fwRow_ok h h1 h3 (Nat.le_of_eq hl.symm) (by omega) h0 (by decide) (by rw [hl]; rfl) (fwAbort_ok ha)
  · have hh := attestHeader_ok (d := s.dev) (Nat.le_trans (Nat.le_of_eq h0) (by decide)) h1 h3 (by rw [h0, hl]; rfl) (.inr h4)
    exact mailRow_ok h (by rw [hl]; rfl) (by simp [ofAction, attestMode, h0])
      (bodyAttest_publicKey hh h0 (needIdentity_ok hs hlc))
  · have hh := attestHeader_ok (d := s.dev) (Nat.le_trans (Nat.le_of_eq h0) (by decide)) h1 h3 (by rw [h0, hl]; rfl) (.inl h0)
    exact mailRow_ok h (by rw [hl]; rfl) (by simp [ofAction, attestMode, h0])
      (bodyAttest_certificate hh h0 (needIdentity_ok hs hlc))
  · intro seed hl h0 hs hlc
    subst hn ht
    have hh := attestHeader_ok (d := s.dev) (Nat.le_trans (Nat.le_of_eq h0) (by decide)) h1 h3 (by rw [h0, hl]; rfl) (.inr h4)
    exact mailRow_entropy h (by rw [hl]; rfl) (by simp [ofAction, attestMode, h0]) hf
      (bodyAttest_quote_asks hh h0 (needIdentity_ok hs hlc))
  · intro hl h0
    subst hn ht
    have hh := attestHeader_ok (d := s.dev) (Nat.le_trans (Nat.le_of_eq h0) (by decide)) h1 h3 (by rw [h0, hl]; rfl) (.inr h4)
    exact mailRow_entropy h (by rw [hl]; rfl) (by simp [ofAction, attestMode, h0]) hf (bodyAttest_nonce_asks hh h0)
  · intro hl h0 hm hr
    subst hn ht
    have hh := attestHeader_ok (d := s.dev) (Nat.le_trans (Nat.le_of_eq h0) (by decide)) h1 h3 (by rw [h0, hl]; rfl) (.inr h4)
    exact mailRow_entropy h (by rw [hl]; rfl) (by simp [ofAction, attestMode, h0]) hf
      ((keygenBody_maker hh hm hr).trans (bodyAttest_keygen_asks hh h0 hm))
  · subst h0 ht
    exact mailRow_entropy h (by rw [hl]; rfl) rfl hf ((bodyRngBytes_ok hlo hhi).trans (bind_error mailDraw_none))

/- Requests served. -/

/-- A draw changes the source only, and leaves the requests that wait. -/
theorem generate_only {n : Nat} {b : Bytes} {d d' : Dev} (h : generate n d = some (b, d')) :
    ∃ e : Entropy, d' = { d with ent := e } ∧ e.waiting = d.ent.waiting := by
  unfold generate at h
  split at h
  · split at h
    · simp only [Option.some.injEq, Prod.mk.injEq] at h
      exact ⟨_, h.2.symm, rfl⟩
    · cases h
  · cases h

/-- The device in which a mailbox request is served: it has left the queue, and its message waits for nothing. -/
def requestTaken (ch : Chan) (m : Mailbox) (rest : List EntropyUser) (d : Dev) : Dev :=
  setMbox ch { m with entropy := false } { d with ent := { d.ent with waiting := rest } }

/-- The state after the request of message `g` is served with the bytes `b` drawn, from the device `d` in which it is
taken. -/
def mailServed (ch : Chan) (b : Bytes) (g : MailMsg) (d : Dev) (s : State) : State :=
  if g.command = 0x50 then
    { s with dev := settleMail ch d (bodyRngBytes { ch := ch, drawn := some b } g.payload d) }
  else if attestMode g.payload = 4 then
    if s.otp.seedRow = 0 && seedNat b = 0 then s
    else
      { s with
        otp := if s.otp.seedRow = 0 then { s.otp with seedRow := seedNat b } else s.otp
        dev := settleMail ch d (keygenBody s.otp { ch := ch, drawn := some b } g.payload d) }
  else { s with dev := settleMail ch d (bodyAttest { ch := ch, drawn := some b } g.payload d) }

theorem mailArrives_msg {ch : Chan} {b : Bytes} {g : MailMsg} {s : State}
    (hm : (mbox (nextRequest s.dev) ch).msg = some g) :
    mailArrives ch b s = mailServed ch b g
      (setMbox ch { mbox (nextRequest s.dev) ch with entropy := false } (nextRequest s.dev)) s := by
  unfold mailArrives
  dsimp only
  split
  case h_1 hnone => exact absurd (hm.symm.trans hnone) (by simp)
  case h_2 g' hsome =>
    obtain rfl : g = g' := Option.some.inj (hm.symm.trans hsome)
    rfl

section
variable {s : State} {ch : Chan} {n : Nat} {rest : List EntropyUser} {g : MailMsg} {b : Bytes} {d1 d : Dev}
  (hw : s.dev.ent.waiting = .mail ch n :: rest) (hg : generate n s.dev = some (b, d1))
  (hm : (mbox s.dev ch).msg = some g) (hd : d = requestTaken ch (mbox s.dev ch) rest d1)
include hw hg hm hd

theorem serveEntropy_mail : serveEntropy s = mailServed ch b g d { s with dev := d1 } := by
  obtain ⟨e, rfl, he⟩ := generate_only hg
  have hbox : mbox (nextRequest { s.dev with ent := e }) ch = mbox s.dev ch := by cases ch <;> rfl
  have hnext : nextRequest { s.dev with ent := e } = { s.dev with ent := { e with waiting := rest } } := by
    simp only [nextRequest, he, hw, List.drop_succ_cons, List.drop_zero]
  have hserve : serveEntropy s = mailArrives ch b { s with dev := { s.dev with ent := e } } := by
    simp only [serveEntropy, hw, hg]
  rw [hserve, mailArrives_msg (hbox ▸ hm), hd]
  show mailServed ch b g (setMbox ch { mbox (nextRequest { s.dev with ent := e }) ch with entropy := false }
    (nextRequest { s.dev with ent := e })) _ = _
  rw [hbox, hnext]
  rfl

omit hw hg hm hd in
/-- A served request whose body answers. -/
theorem exec_entropyRequest_ok {a : Bytes} {t : Dev} {s' : State}
    (hs : serveEntropy s = { s' with dev := settleMail ch d (.ok (some a) t) }) :
    exec .entropyRequest s = .next (answers ch a t s') := by
  show Host.Outcome.next { serveEntropy s with dev := wakeFences (serveHeld (serveEntropy s).dev) } = _
  rw [hs]
  rfl

theorem entropy_rngBytes (hc : g.command = 0x50) (hlo : 1 ≤ u32 g.payload 0) (hhi : u32 g.payload 0 ≤ 4096) :
    exec .entropyRequest s = .next (answers ch b d s) := by
  have hbody : bodyRngBytes { ch := ch, drawn := some b } g.payload d = .ok (some b) d :=
    (bodyRngBytes_ok hlo hhi).trans (bind_ok mailDraw_some)
  have hserve := serveEntropy_mail hw hg hm hd
  rw [mailServed, if_pos hc, hbody] at hserve
  exact exec_entropyRequest_ok hserve

theorem entropy_attest {a : Bytes} {t : Dev} (hc : g.command = 0x42) (h4 : u8 g.payload 0 ≠ 4)
    (hb : bodyAttest { ch := ch, drawn := some b } g.payload d = .ok (some a) t) :
    exec .entropyRequest s = .next (answers ch a t s) := by
  have hserve := serveEntropy_mail hw hg hm hd
  rw [mailServed, if_neg (by rw [hc]; decide), if_neg (show attestMode g.payload ≠ 4 from h4), hb] at hserve
  exact exec_entropyRequest_ok hserve

theorem entropy_keygen {a : Bytes} {t : Dev} (hc : g.command = 0x42) (h4 : u8 g.payload 0 = 4) (hr : s.otp.seedRow = 0#256)
    (hz : seedNat b ≠ 0#256) (hb : keygenBody s.otp { ch := ch, drawn := some b } g.payload d = .ok (some a) t) :
    exec .entropyRequest s = .next (answers ch a t { s with otp := { s.otp with seedRow := seedNat b } }) := by
  have hserve := serveEntropy_mail hw hg hm hd
  have hnew : (decide (s.otp.seedRow = 0) && decide (seedNat b = 0)) = false := by
    rw [Bool.and_eq_false_iff]
    exact .inr (decide_eq_false hz)
  rw [mailServed, if_neg (by rw [hc]; decide), if_pos (show attestMode g.payload = 4 from h4)] at hserve
  dsimp only at hserve
  rw [hnew, if_neg Bool.false_ne_true, if_pos (show s.otp.seedRow = 0 from hr), hb] at hserve
  exact exec_entropyRequest_ok (s' := { s with otp := { s.otp with seedRow := seedNat b } }) hserve

end

/- Blocks, tests and raw bits. -/

theorem blockDone_takes {i : Nat} {raw : Bytes} {d : Dev} (hi : (rawSrc d i).inService = true) (hf : d.ent.failed = false)
    (hp : d.ent.pool.length < 16) (hr : d.ent.rawEn = false ∨ d.ent.rawSource ≠ i) :
    blockDone i raw d = settleEntropy { d with ent := { d.ent with pool := d.ent.pool ++ [Config.sha3 raw] } } := by
  have hroute : (d.ent.rawEn && d.ent.rawSource == i) = false := by
    rw [Bool.and_eq_false_iff, beq_eq_false_iff_ne]
    exact hr
  simp only [blockDone, hi, hroute, hf, decide_eq_true hp, Bool.not_false, Bool.and_self, if_true]

theorem healthFail_fails {i : Nat} {apt : Bool} {d : Dev}
    (h : (rawSrc d i).inService = true ∨ (rawSrc d i).restarting = true) :
    healthFail i apt d = logEv 0x0D01 dieNorth i (ofBool apt) 0 (setRaw i { rawSrc d i with
      rctFails := if apt then (rawSrc d i).rctFails else min 0xFFFF ((rawSrc d i).rctFails + 1)
      aptFails := if apt then min 0xFFFF ((rawSrc d i).aptFails + 1) else (rawSrc d i).aptFails
      inService := false
      restarting := true } d) :=
  if_pos (Bool.or_eq_true_iff.2 h)

theorem startupTestEnd_passes {i : Nat} {d : Dev} (h : (rawSrc d i).restarting = true) :
    startupTestEnd i true d = logEv 0x0D02 dieNorth i 1 0
      (setRaw i { rawSrc d i with inService := true, restarting := false, failCount := 0 } d) := by
  simp only [startupTestEnd, h, Bool.not_true, Bool.false_eq_true, if_false, if_true]

theorem startupTestEnd_again {i : Nat} {d : Dev} (h : (rawSrc d i).restarting = true) (hn : (rawSrc d i).failCount < 2) :
    startupTestEnd i false d = logEv 0x0D02 dieNorth i 0 ((rawSrc d i).failCount + 1) (setRaw i
      { rawSrc d i with failCount := (rawSrc d i).failCount + 1, retired := false, restarting := true } d) := by
  have hlt : (rawSrc d i).failCount + 1 < 3 := by omega
  simp only [startupTestEnd, h, hlt, Nat.not_le.2 hlt, decide_true, decide_false, Bool.not_true, Bool.false_eq_true,
    if_false, if_true]

theorem startupTestEnd_retires {i : Nat} {s d : Dev} (h : (rawSrc s i).restarting = true) (hn : 2 ≤ (rawSrc s i).failCount)
    (hd : d = logEv 0x0D03 dieNorth i 0 0
      (logEv 0x0D02 dieNorth i 0 ((rawSrc s i).failCount + 1) (setRaw i
        { rawSrc s i with failCount := (rawSrc s i).failCount + 1, retired := true, restarting := false } s))) :
    startupTestEnd i false s =
      if (∀ y ∈ d.ent.sources, y.retired = true) ∧ d.ent.failed = false then entropyFails d else d := by
  have hge : 3 ≤ (rawSrc s i).failCount + 1 := by omega
  simp only [startupTestEnd, h, hge, Nat.not_lt.2 hge, decide_true, decide_false, Bool.not_true, Bool.false_eq_true, if_false]
  rw [← hd]
  simp only [Bool.and_eq_true, List.all_eq_true, Bool.not_eq_true']

theorem rawRead_takes {d : Dev} (hr : hostReach d = true) (hn : 32 ≤ d.ent.rawFifo.length) :
    rawRead d = { d with ent := { d.ent with rawFifo := d.ent.rawFifo.drop 32 } } :=
  if_pos (by rw [hr, decide_eq_true hn]; rfl)

theorem rawBit_on {v : Bool} {d : Dev} (h : d.ent.rawEn = true) :
    rawBit v d = if d.ent.rawFifo.length < 4096 then { d with ent := { d.ent with rawFifo := d.ent.rawFifo ++ [v] } }
      else { d with ent := { d.ent with rawOverrun := true } } := by
  simp only [rawBit, h, Bool.not_true, Bool.false_eq_true, if_false]

/-- Settles O21: the request at the front by its command, and the source's own events. -/
theorem entropyIsGatheredAndServed : Obligations.EntropyIsGatheredAndServed := by
  refine ⟨fun s ch n rest g b d1 d hw hg hm hd => ⟨entropy_rngBytes hw hg hm hd, fun hc h1 h3 h4 => ⟨?_, ?_, ?_⟩⟩,
    fun s i raw hi hf hp hr => next_dev (blockDone_takes hi hf hp hr), fun s i apt h => next_dev (healthFail_fails h),
    fun s i h => ⟨next_dev (startupTestEnd_passes h), fun hn => next_dev (startupTestEnd_again h hn), ?_⟩,
    fun s hr hn => next_dev (rawRead_takes hr hn), fun s v h => next_dev (rawBit_on h)⟩
  · intro hl h0
    have hh := attestHeader_ok (d := d) (Nat.le_trans (Nat.le_of_eq h0) (by decide)) h1 h3 (by rw [h0, hl]; rfl) (.inr h4)
    exact entropy_attest hw hg hm hd hc (by rw [h0]; decide) (bodyAttest_nonce hh h0)
  · intro seed hl h0 hs hlc t ht
    have hh := attestHeader_ok (d := d) (Nat.le_trans (Nat.le_of_eq h0) (by decide)) h1 h3 (by rw [h0, hl]; rfl) (.inr h4)
    exact entropy_attest hw hg hm hd hc (by rw [h0]; decide) (bodyAttest_quote hh h0 (needIdentity_ok hs hlc) ht)
  · intro hl h0 hlc hr hz
    have hh := attestHeader_ok (d := d) (Nat.le_trans (Nat.le_of_eq h0) (by decide)) h1 h3 (by rw [h0, hl]; rfl) (.inr h4)
    exact entropy_keygen hw hg hm hd hc h0 hr hz ((keygenBody_maker hh hlc hr).trans (bodyAttest_keygen hh h0 hlc))
  · intro d hn hd
    exact next_dev (startupTestEnd_retires h hn hd)

end Sys2Proof.Proofs
end

section
/-! PROOFS. R353, R354, R397 to R408, R410 to R416: FAULT_CONFIG and the fault collector's registers, the sideband ports,
and the catalogue. -/

namespace Sys2Proof.Proofs

open Sys2Proof Sys2Proof.Machine Sys2Proof.Laws

/- FAULT_CONFIG. -/

/-- The action of FAULT_CONFIG of a number in device `d`, on its source and its argument. -/
def fcAct (d : Dev) (src arg : Nat) (act : Nat) : Act (Option Bytes) :=
  match act with
  | 0 => pure (some (le4s ((List.range 192).map (fun i => fcReg d (4 * i)))))
  | 1 => do
    change (setConfig src arg)
    pure (some [])
  | 2 => do
    change (acknowledge src)
    pure (some [])
  | 3 => do
    change (clearStatus src)
    let d ← get
    pure (some (leBytes 4 (ofBool (d.fc.status.getLsbD src))))
  | 4 => do
    change (setFallback arg)
    pure (some [])
  | _ => do
    needExpert exFault
    change (inject src (bit arg 0) (bits arg 1 2) (src + bits arg 0 1 * 2 ^ 9 + bits arg 1 2 * 2 ^ 10))
    pure (some [])

theorem bodyFaultConfig_action {env : MailEnv} {p : Bytes} {d : Dev} {act : Nat} (hb : fcMailBad p = none)
    (h0 : u8 p 0 = act) : bodyFaultConfig env p d = fcAct d (low 9 (u16 p 2)) (u32 p 4) act d := by
  unfold bodyFaultConfig
  rw [hb]
  dsimp only
  rw [bind_ok get_ok, h0]
  rfl

theorem faultConfigRow_ok {s : State} {ch : Chan} {p a : Bytes} {act : Nat} {d : Dev}
    (h : MailWaits s ch 0x60 true false p) (hl : p.length = 8) (hb : fcMailBad p = none) (h0 : u8 p 0 = act)
    (ha : fcAct s.dev (low 9 (u16 p 2)) (u32 p 4) act s.dev = .ok (some a) d) :
    faultConfigRow ch act s = .next (answers ch a d s) :=
  mailRow_ok h (by rw [hl]; rfl) (by simp [ofAction, fcAction, h0]) ((bodyFaultConfig_action hb h0).trans ha)

/- The fault collector's registers. -/

theorem fcInject_injects {v : Nat} {d : Dev} (hr : fcReach d = true) (he : expertOn d exFault = true)
    (hs : (sourceInfo (v % 512)).isSome = true) (hf : injectForm (v % 512) (bit v 9) (bits v 10 2) = true) :
    fcInject v d = inject (v % 512) (bit v 9) (bits v 10 2) v d := by
  have hcheck : (fcReach d && expertOn d exFault && (sourceInfo (v % 512)).isSome &&
      injectForm (v % 512) (bit v 9) (bits v 10 2)) = true := by rw [hr, he, hs, hf]; rfl
  exact if_pos hcheck

theorem fcFallbackWrite_changes {v : Nat} {d : Dev} (hr : fcReach d = true) (hlo : 10 ≤ v) (hhi : v ≤ 10000)
    (hne : v ≠ d.fc.fallbackUs) :
    fcFallbackWrite v d =
      logEv 0x0C04 dieNorth 0x200 v d.fc.fallbackUs { d with fc := { d.fc with fallbackUs := v } } := by
  have hcheck : (fcReach d && fallbackRange v) = true := by rw [hr, fallbackRange, decide_eq_true hlo, decide_eq_true hhi]; rfl
  exact (if_pos hcheck).trans (if_neg hne)

theorem fcConfigWrite_changes {src v : Nat} {d : Dev} (hr : fcReach d = true) (hs : (sourceInfo src).isSome = true)
    (hne : cfgMask v ≠ sourceConfig d.fc src) :
    fcConfigWrite src v d = logEv 0x0C04 dieNorth src (cfgMask v) (sourceConfig d.fc src)
      { d with fc := { d.fc with config := tabSet src (cfgMask v) d.fc.config } } := by
  have hcheck : ¬ ((sourceInfo src).isNone || cfgMask v == sourceConfig d.fc src) = true := by
    rw [Option.isNone_eq_false_iff.2 hs, beq_eq_false_iff_ne.2 hne]
    decide
  exact (if_pos hr).trans (if_neg hcheck)

/-- A timer that passes leaves the list, and the safe state is forced. -/
theorem fallbackExpiry_forces {src due : Nat} {d : Dev}
    (h : d.fc.timers.find? (fun t => t.1 == src) = some (src, due)) :
    fallbackExpiry src d = forceSafe { d with
      clock := max d.clock due
      fc := { d.fc with timers := d.fc.timers.filter (fun t => t.1 != src) } } := by
  unfold fallbackExpiry
  rw [h]
  rfl

/-- Settles O22: each action of FAULT_CONFIG, each register write of the owner host, and a window's end. -/
theorem faultConfigurationActs : Obligations.FaultConfigurationActs := by
  refine ⟨fun s ch p h hl hb => ⟨fun h0 => faultConfigRow_ok h hl hb h0 rfl, fun h0 => faultConfigRow_ok h hl hb h0 rfl,
      fun h0 => faultConfigRow_ok h hl hb h0 rfl, fun h0 => faultConfigRow_ok h hl hb h0 rfl,
      fun h0 => faultConfigRow_ok h hl hb h0 rfl,
      fun h0 he => faultConfigRow_ok h hl hb h0 (bind_ok (needExpert_ok he))⟩,
    fun s hr => ⟨fun v => next_dev (if_pos hr), fun v he hs hf => next_mem (fcInject_injects hr he hs hf),
      fun w v => next_dev (if_pos hr), fun v hlo hhi hne => next_dev (fcFallbackWrite_changes hr hlo hhi hne),
      fun src v hs hne => next_dev (fcConfigWrite_changes hr hs hne), fun src due d hf hd => ?_⟩⟩
  subst hd
  exact ⟨fun hsafe => next_dev ((fallbackExpiry_forces hf).trans (if_pos hsafe)),
    fun hsafe => next_dev ((fallbackExpiry_forces hf).trans
      (if_neg (by rw [Bool.not_eq_true]; exact hsafe)))⟩

/- The sideband ports. -/

theorem i3cWrite_open {bs : Bytes} {d : Dev} (hl : 4 ≤ bs.length) (ho : chanOpen d .bmc = true) :
    i3cWrite bs d = { i3cBytes (u32 bs 0) (bs.drop 4) d with
      ports := { (i3cBytes (u32 bs 0) (bs.drop 4) d).ports with i3cOffset := u32 bs 0 } } :=
  if_pos (by rw [decide_eq_true hl, ho]; rfl)

/-- An access of an open JTAG channel writes where its bit 48 is set, and otherwise reads (R354). -/
theorem mboxAccess_open {dr : Nat} {d : Dev} (ho : chanOpen d .jtag = true) :
    mboxAccess dr d =
      if bit dr 48 then { mboxWrite32 .jtag (bits dr 32 16) (low 32 dr) d with ports := { d.ports with jtagData := dr } }
      else { d with ports := { d.ports with jtagData := dr / 2 ^ 32 * 2 ^ 32 + mboxRead32 d .jtag (bits dr 32 16) } } :=
  if_neg (by rw [ho]; decide)

/-- Settles O23: the two ports by their form of access. -/
theorem sidebandAccessesReachTheirMailbox : Obligations.SidebandAccessesReachTheirMailbox := by
  refine ⟨fun s a => rfl, fun s bs hl ho => next_dev (i3cWrite_open hl ho), fun s dr ho => ?_⟩
  have hbit : bit dr.toNat 48 = dr.getLsbD 48 := bit_eq_testBit _ _
  exact ⟨fun hw => next_dev ((mboxAccess_open ho).trans (if_pos (hbit.trans hw))),
    fun hr => next_dev ((mboxAccess_open ho).trans (if_neg (by rw [hbit, hr]; decide)))⟩

/- The catalogue takes an event. -/

section
variable {d : Dev} {e : Event} {rest : List Event}

theorem catalogueTake_repeats {r : CatRecord} {n : Nat} (hi : d.cat.input = e :: rest)
    (hw : d.cat.writing = some (r, n)) (hs : sameEvent e r.ev = true) :
    catalogueTake d = { d with cat := { d.cat with input := rest, writing := some (r, n + e.repeats + 1) } } := by
  simp only [catalogueTake, hi, hw, hs, if_true]
  rfl

/-- What an event does where the newest record is `r`, or where there is none. -/
def mergedOrStarted (e : Event) (d : Dev) (newest : Option CatRecord) : Dev :=
  match newest with
  | some r => if sameEvent e r.ev then catalogueRead (r.slot / 32) (setCat (mergeNewest (e.repeats + 1) d.cat) d)
    else startRecord e d
  | none => startRecord e d

theorem catalogueTake_next (hi : d.cat.input = e :: rest) (hw : d.cat.writing = none) :
    catalogueTake d = mergedOrStarted e (setCat { d.cat with input := rest } d) d.cat.records.getLast? := by
  unfold catalogueTake
  rw [hi]
  dsimp only
  rw [hw]
  rfl

theorem catalogueTake_merges {r : CatRecord} (hi : d.cat.input = e :: rest) (hw : d.cat.writing = none)
    (hl : d.cat.records.getLast? = some r) (hs : sameEvent e r.ev = true) :
    catalogueTake d = catalogueRead (r.slot / 32)
      { d with cat := mergeNewest (e.repeats + 1) { d.cat with input := rest } } := by
  have hmerged : mergedOrStarted e (setCat { d.cat with input := rest } d) (some r) = _ := if_pos hs
  exact (catalogueTake_next hi hw).trans ((congrArg _ hl).trans hmerged)

/-- An event that repeats nothing starts a record. -/
theorem catalogueTake_starts (hi : d.cat.input = e :: rest) (hw : d.cat.writing = none)
    (hnew : ∀ r : CatRecord, d.cat.records.getLast? = some r → sameEvent e r.ev = false) :
    catalogueTake d = startRecord e { d with cat := { d.cat with input := rest } } := by
  refine (catalogueTake_next hi hw).trans ?_
  cases hl : d.cat.records.getLast? with
  | none => rfl
  | some r => exact if_neg (by rw [hnew r hl]; decide)

end

section
variable {d : Dev} {e : Event}

theorem startRecord_free (h : d.cat.records.length < catCapacity d.cat) :
    startRecord e d =
      setCat (bumpIndex { d.cat with writing := some (newRecord d e (freeSlot d.cat) false, 0) }) d := by
  have hused : ¬ catCapacity d.cat = 0 := by omega
  exact (if_neg hused).trans (if_pos h)

theorem startRecord_over {v : CatRecord} (hpos : 0 < catCapacity d.cat) (h : catCapacity d.cat ≤ d.cat.records.length)
    (hv : victim e.severity d.cat.records = some v) :
    startRecord e d =
      setCat (bumpIndex { d.cat with records := d.cat.records.filter (fun r => r.windex != v.windex),
                                     overwritten := satAdd 32 d.cat.overwritten 1,
                                     writing := some (newRecord d e v.slot false, 0) }) d := by
  refine (if_neg (Nat.ne_of_gt hpos)).trans ((if_neg (Nat.not_lt.2 h)).trans ?_)
  dsimp only
  rw [hv]

theorem startRecord_dropped (hpos : 0 < catCapacity d.cat) (h : catCapacity d.cat ≤ d.cat.records.length)
    (hv : victim e.severity d.cat.records = none) :
    startRecord e d = setCat { d.cat with dropped := satAdd 32 d.cat.dropped 1 } d := by
  refine (if_neg (Nat.ne_of_gt hpos)).trans ((if_neg (Nat.not_lt.2 h)).trans ?_)
  dsimp only
  rw [hv]

end

theorem recordValid_writing {r : CatRecord} {n : Nat} {d : Dev} (hw : d.cat.writing = some (r, n)) :
    recordValid d = { d with cat := { d.cat with
      writing := none
      records := d.cat.records ++ [{ r with ev := { r.ev with repeats := min 0xFFFF (r.ev.repeats + n) } }] } } := by
  unfold recordValid
  rw [hw]
  rfl

/-- No injection waits at a flash source: an access meets none. -/
theorem flashInjection_none {src : Nat} {d : Dev} (h : ∀ i ∈ d.fc.injected, i.1 ≠ src) :
    flashInjection src d = (false, d) := by
  have hnone : ¬ d.fc.injected.any (fun i => i.1 == src) = true := by
    rw [List.any_eq_true]
    rintro ⟨i, hi, heq⟩
    exact h i hi (beq_iff_eq.1 heq)
  exact if_neg hnone

theorem drainOne_programs {r : CatRecord} {d : Dev} (hr : toDrain d.cat = some r) (h : ∀ i ∈ d.fc.injected, i.1 ≠ 339) :
    drainOne true d = { d with cat := { flashAppend r d.cat with
      drained := max d.cat.drained (r.windex + 1)
      redrain := d.cat.redrain.filter (· != r.windex) } } := by
  unfold drainOne
  rw [hr, flashInjection_none h]
  rfl

theorem drainOne_fails {r : CatRecord} {d : Dev} (hr : toDrain d.cat = some r) (h : ∀ i ∈ d.fc.injected, i.1 ≠ 339) :
    drainOne false d = logSev 0x0E03 4 dieNorth d.cat.flashPos r.windex 0 false (raise 339 d.cat.flashPos
      { d with cat := { d.cat with flashOk := false, flashPos := (d.cat.flashPos / 65536 + 1) * 65536 } }) := by
  unfold drainOne
  rw [hr, flashInjection_none h]
  rfl

/-- ADVANCE of SPACE 0 from a host that reaches the registers. -/
theorem advance_records {d : Dev} (hr : hostReach d = true) (hs : d.cat.space = false) :
    (if hostReach d then setCat (advanceCursor d.cat) d else d) =
      match d.cat.records.find? (fun r => decide (d.cat.cursor < r.windex)) with
      | some r => { d with cat := { d.cat with cursor := r.windex } }
      | none => { d with cat := { d.cat with cursor := d.cat.nextIndex } } := by
  rw [if_pos hr, advanceCursor, if_neg (by rw [hs]; decide)]
  cases d.cat.records.find? (fun r => decide (d.cat.cursor < r.windex)) <;> rfl

/-- Settles O25: the event at the front by what it repeats and by the room left, then validity, drain and ADVANCE. -/
theorem theCatalogueTakesDrainsAndAdvances : Obligations.TheCatalogueTakesDrainsAndAdvances := by
  refine ⟨fun s e rest hi => ⟨fun r n hw hs => next_dev (catalogueTake_repeats hi hw hs),
      fun r hw hl hs => next_dev (catalogueTake_merges hi hw hl hs), fun hw hnew => ⟨fun hroom => ?_, fun v hpos hfull hv => ?_,
      fun hpos hfull hv => ?_⟩⟩,
    fun s r n hw => next_dev (recordValid_writing hw),
    fun s r hr hinj => ⟨next_dev (drainOne_programs hr hinj), fun d hd => ?_⟩,
    fun s hr hs => ⟨fun r hf => ?_, fun hf => ?_⟩⟩
  · exact next_dev ((catalogueTake_starts hi hw hnew).trans (startRecord_free hroom))
  · exact next_dev ((catalogueTake_starts hi hw hnew).trans
      (startRecord_over (d := setCat { s.dev.cat with input := rest } s.dev) hpos hfull hv))
  · exact next_dev ((catalogueTake_starts hi hw hnew).trans
      (startRecord_dropped (d := setCat { s.dev.cat with input := rest } s.dev) hpos hfull hv))
  · subst hd
    exact next_dev (drainOne_fails hr hinj)
  · exact next_dev ((advance_records hr hs).trans (by rw [hf]))
  · exact next_dev ((advance_records hr hs).trans (by rw [hf]))

end Sys2Proof.Proofs
end

section
/-! PROOFS. R268, R325, R336 to R339, R434: host accesses through BAR4, completions of host reads, configuration requests
and power states. -/

namespace Sys2Proof.Proofs

open Sys2Proof Sys2Proof.Machine Sys2Proof.Laws

/- The device window. -/

/-- With an access at the front that waits, none is served. -/
theorem serveHeld_waits {d : Dev} {y : HeldAccess} {t : List HeldAccess} (h : d.host.held = y :: t)
    (hy : accessHeld d y = true) : serveHeld d = d := by
  have hlist : serveList (y :: t) d = { d with host := { d.host with held := y :: t } } := if_pos hy
  rw [serveHeld, h, hlist, ← h]
  exact ite_self d

/-- An access that waits for nothing, alone in the list, is served. -/
theorem serveHeld_single {d : Dev} {x : HeldAccess} (h : d.host.held = [x]) (hx : accessHeld d x = false) :
    serveHeld d = { hostAccess x d with host := { (hostAccess x d).host with held := [] } } := by
  have hlist : serveList [x] d = serveList [] (hostAccess x d) := if_neg (by rw [hx]; decide)
  rw [serveHeld, h, hlist]
  rfl

theorem bar4_reached {d : Dev} {o : Nat} {x : HeldAccess} (hr : hostReach d = true) (ho : o < bar4Size d)
    (hx : x.addr = bar4Addr d o) : bar4 o x.op d = serveHeld (holdAccess x d) := by
  have hcheck : ¬ (!hostReach d || decide (bar4Size d ≤ o)) = true := by
    rw [hr, decide_eq_false (Nat.not_le.2 ho)]
    decide
  rw [bar4, if_neg hcheck, ← hx]

section
variable {d : Dev} {a : Nat}

theorem hostAccess_read_missed {n : Nat} (h : hostMiss d a n = true) :
    hostAccess { addr := a, op := .read n } d =
      missed a { d with host := { d.host with bar4Read := List.replicate n 0xFF } } :=
  if_pos h

theorem hostAccess_read {n : Nat} {bs : Bytes} {d' : Dev} (h : hostMiss d a n = false)
    (hp : readPart a n (countHostFlow true a n d) = .ok (bs, none) d') :
    hostAccess { addr := a, op := .read n } d = { d' with host := { d'.host with bar4Read := bs } } := by
  simp only [hostAccess, accessLen, h, hp, Bool.false_eq_true, if_false]

theorem hostAccess_write_missed {bs : Bytes} (h : hostMiss d a bs.length = true) :
    hostAccess { addr := a, op := .write bs } d = missed a d :=
  if_pos h

theorem hostAccess_write {bs : Bytes} {d' : Dev} (h : hostMiss d a bs.length = false)
    (hw : devWrite a bs (countHostFlow false a bs.length d) = .ok () d') :
    hostAccess { addr := a, op := .write bs } d = d' := by
  simp only [hostAccess, accessLen, h, hw, Bool.false_eq_true, if_false]

end

/- Completions of host reads. -/

theorem detailHostAddr_of_lt {a : Nat} (h : a < 2 ^ 63) : detailHostAddr a = a + 2 ^ 63 := by
  rw [detailHostAddr, low_of_lt h]

section
variable {q : QRef} {idx : Nat} {e : Entry} {i : OpIssue} {d : Dev} (hc : (queueOf d q).cur = some e)
include hc

theorem hostWaiter_reads (hi : openIssue e idx = some i) (hr : readsHost i.wait = true) :
    hostWaiter q idx d = some (e, i) := by
  simp only [hostWaiter, hc, hi, hr, if_true]

theorem hostArrives_host {addr x n : Nat} {data : Bytes} (hi : openIssue e idx = some i) (hw : i.wait = .host x n) :
    hostArrives q idx addr data d =
      opGets q idx (addr + 2 ^ 63) data (forwardLog e.ctx (.hostBytes (addr + 2 ^ 63) data) (hostTaken addr data d)) := by
  simp only [hostArrives, hostWaiter_reads hc hi (by rw [hw]; rfl), hw]

theorem hostArrives_fence {addr x t : Nat} {data : Bytes} (hi : openIssue e idx = some i) (hw : i.wait = .fence x t)
    (hx : isHost x = true) :
    hostArrives q idx addr data d = fenceReads e.ctx q idx x t (hostTaken addr data d) := by
  simp only [hostArrives, hostWaiter_reads hc hi (by rw [hw]; exact hx), hw]

theorem hostReadFails_host {x n st detail : Nat} (hw : i.wait = .host x n) :
    hostReadFails q idx i st detail d =
      runAgain q idx (modIssue q idx (fun i => { i with badRead := some (st, detail) })
        (forwardLog e.ctx (.hostBytes (x + 2 ^ 63) [])
          (logOpen 0x08 17 dieNorth (qNumber q + 0x8000 * ofBool (qIsKernel q)) st idx d))) := by
  have hcur : (queueOf (logOpen 0x08 17 dieNorth (qNumber q + 0x8000 * ofBool (qIsKernel q)) st idx d) q).cur = some e := by
    rw [← hc, logOpen]
    cases q <;> rfl
  simp only [hostReadFails, hw, hcur, Option.map_some, Option.getD_some]

/-- A failed completion of the read that an op waits for fails that read. -/
theorem hostCompletion_fails {addr : Nat} {outcome : HostOutcome} {data : Bytes} (hi : openIssue e idx = some i)
    (hr : readsHost i.wait = true) (ho : outcome ≠ .success)
    (ha : addr < 2 ^ 63) :
    hostCompletion q idx addr outcome data d =
      if outcome = .poisoned then hostReadFails q idx i stDeviceFault anyDetail d
      else hostReadFails q idx i stBadAddress (addr + 2 ^ 63) d := by
  rw [← detailHostAddr_of_lt ha]
  cases outcome with
  | success => exact absurd rfl ho
  | _ => simp only [hostCompletion, hostWaiter_reads hc hi hr]

theorem completionTimeout_fails (hi : openIssue e idx = some i) (hr : readsHost i.wait = true) :
    (match hostWaiter q idx d with
      | some (_, i) => pumpQueue q (hostReadFails q idx i stDeviceFault anyDetail d)
      | none => d) = pumpQueue q (hostReadFails q idx i stDeviceFault anyDetail d) := by
  simp only [hostWaiter_reads hc hi hr]

end

/-- Settles O30: the device window, one access, and the completions by what the op waits for. -/
theorem hostAccessesReachMemory : Obligations.HostAccessesReachMemory := by
  refine ⟨fun s o x hr ho hx => ⟨fun hheld hfree => ?_, fun y t hheld hwaits => ?_⟩,
    fun d a => ⟨fun n => ⟨hostAccess_read_missed, fun bs d' => hostAccess_read⟩,
      fun bs => ⟨hostAccess_write_missed, fun d' => hostAccess_write⟩⟩,
    fun s q op a bs e i hc hi => ⟨fun x n hw => ⟨next_mem ?_, fun st detail => hostReadFails_host hc hw⟩,
      fun x t hw hx => next_mem (congrArg (pumpQueue q) (hostArrives_fence hc hi hw hx)), fun hr => ⟨?_, ?_, ?_, ?_⟩⟩⟩
  · have hlist : (holdAccess x s.dev).host.held = [x] := congrArg (· ++ [x]) hheld
    exact next_mem ((bar4_reached hr ho hx).trans (serveHeld_single hlist hfree))
  · exact next_mem ((bar4_reached hr ho hx).trans (serveHeld_waits hheld hwaits))
  · exact congrArg (pumpQueue q) (hostArrives_host hc hi hw)
  · exact next_mem (congrArg (pumpQueue q) (hostCompletion_fails hc hi hr (by decide) a.isLt))
  · exact next_mem (congrArg (pumpQueue q) (hostCompletion_fails hc hi hr (by decide) a.isLt))
  · exact next_mem (congrArg (pumpQueue q) (hostCompletion_fails hc hi hr (by decide) a.isLt))
  · exact next_mem (completionTimeout_fails hc hi hr)

/- Configuration requests. -/

theorem configRequest_early {r : CfgReq} {d : Dev} (h : d.boot.ready = false) :
    configRequest r d = { d with host := { d.host with cfgAnswer := some .retry } } :=
  if_pos (by rw [h]; rfl)

theorem configRequest_read {i : CfgItem} {d : Dev} (h : d.boot.ready = true) :
    configRequest (.read i) d = { d with host := { d.host with cfgAnswer := some (.value (cfgItem d.host i)) } } :=
  if_neg (by rw [h]; decide)

theorem configRequest_write {r : CfgReq} {d d' : Dev} (h : d.boot.ready = true) (hr : ∀ i : CfgItem, r ≠ .read i)
    (hd : cfgWrite r d = d') :
    configRequest r d = { d' with host := { d'.host with cfgAnswer := some (.value 0) } } := by
  subst hd
  refine (if_neg (by rw [h]; decide)).trans ?_
  cases r with
  | read i => exact absurd rfl (hr i)
  | _ => rfl

theorem cfgWrite_bar4Size {i : Fin 6} {d : Dev} :
    cfgWrite (.bar4Size i) d =
      { d with host := { d.host with bar4Index := if d.host.memSpace then d.host.bar4Index else i.val } } := by
  unfold cfgWrite
  dsimp only
  split <;> rfl

theorem pcieRetrain_ready {g w : Nat} {d : Dev} (h : d.boot.ready = true) (hg : 1 ≤ g) (hg6 : g ≤ 6) (hw : 1 ≤ w) :
    pcieRetrain g w d = setAvail { d.avail with pcieGen := g, pcieWidth := w }
      { d with host := { d.host with linkUp := true, lkGen := g, lkWidth := w } } := by
  have hform : ¬ (g = 0 ∨ 6 < g ∨ w = 0) := by omega
  exact (if_neg hform).trans (if_pos h)

/-- Settles O31: the requests by kind, the link, and the two power states. -/
theorem configurationAndPowerStatesChange : Obligations.ConfigurationAndPowerStatesChange := by
  refine ⟨fun s r h => next_dev (configRequest_early h), fun s h => ⟨fun i => next_dev (configRequest_read h),
    fun on => ⟨?_, fun d hd => ?_, ?_, fun d hd => ?_, fun d hd => ?_⟩, fun i => ?_,
    fun g w hg hg6 hw => next_dev (pcieRetrain_ready h hg hg6 hw), next_dev (if_pos h), next_dev (if_pos h)⟩⟩
  · exact next_dev (configRequest_write h (by simp) rfl)
  · exact next_dev (configRequest_write h (by simp) hd.symm)
  · exact next_dev (configRequest_write h (by simp) rfl)
  · exact next_dev (configRequest_write h (by simp) hd.symm)
  · exact next_dev (configRequest_write h (by simp) hd.symm)
  · exact next_dev (configRequest_write h (by simp) cfgWrite_bar4Size)

end Sys2Proof.Proofs
end

section
/-! PROOFS. R220 to R243, R458: the chain links, their flits, and the mirrored pair; and the state after a power-on reset. -/

namespace Sys2Proof.Proofs

open Sys2Proof Sys2Proof.Machine Sys2Proof.Laws

theorem linkUp_of_state {l : Link} (h : l.state = .up) : linkUp l = true := by
  rw [linkUp, h]
  rfl

/- Negotiation. -/

section
variable {n : Nat} {l : Link} {d : Dev} (hl : linkOf d n = l)
include hl

section
variable (ht : l.state = .training) {k lanes rate : Nat} (hk : candidateNow l = some (k, lanes, rate))
include ht hk

theorem linkTrained_candidate {lane : Nat} :
    linkTrained n lane d =
      if laneChoice lanes lane then
        sendInfo n (runLink n (linkAvail n true (causeEnds (linkSource n) (setLink n
          { l with state := .up, lanes := lanes, rate := rate, fec := fecUsed l rate, firstLane := lane, wasUp := true
                   failures := 0, silent := false, replays := satAdd 32 l.replays l.unacked.length } d))))
      else d := by
  unfold linkTrained
  rw [hl]
  dsimp only
  rw [ht, hk]

theorem candidateTimeout_next (hn : (candidateNow { l with candidate := k + 1 }).isSome = true) :
    candidateTimeout n d = setLink n { l with candidate := k + 1 } d := by
  have hmore : ¬ (candidateNow { l with candidate := k + 1 }).isNone = true := by
    rw [Option.isNone_eq_false_iff.2 hn]
    decide
  unfold candidateTimeout
  rw [hl]
  dsimp only
  rw [if_neg (by rw [ht]; decide), hk]
  exact if_neg hmore

theorem candidateTimeout_last (hn : candidateNow { l with candidate := k + 1 } = none) :
    candidateTimeout n d = negotiationFails n d := by
  have hnone : (candidateNow { l with candidate := k + 1 }).isNone = true := Option.isNone_iff_eq_none.2 hn
  unfold candidateTimeout
  rw [hl]
  dsimp only
  rw [if_neg (by rw [ht]; decide), hk]
  exact if_pos hnone

end

theorem negotiationFails_again (h : l.failures < 2) :
    negotiationFails n d = setLink n (negotiate { l with failures := l.failures + 1 }) d := by
  subst hl
  exact (if_neg (by omega)).trans (if_neg (by omega))

theorem negotiationFails_third (h : l.failures = 2) :
    negotiationFails n d = linkLost n (setLink n { l with failures := 3 } d) := by
  subst hl
  exact (if_neg (by omega)).trans (if_pos h)

theorem negotiationFails_lost (h : 3 ≤ l.failures) :
    negotiationFails n d = setLink n { l with state := .lost } d := by
  subst hl
  exact if_pos h

/- Silence. -/

theorem linkSilent_plain (hu : l.state = .up) (hm : l.mirror = false) :
    linkSilent n d = setLink n (negotiate { l with failures := 0 }) d := by
  subst hl
  exact (if_neg (by rw [linkUp_of_state hu]; decide)).trans (if_neg (by rw [hm]; decide))

theorem linkSilent_mirror (hu : l.state = .up) (hm : l.mirror = true) (hs : l.silent = false) {d1 : Dev}
    (hd : d1 = logOpen 0x09 15 (if n < 8 then dieE else dieW) n 0 0 (setLink n { l with silent := true } d)) :
    linkSilent n d = if mirrorLive1 d1 (otherMirror d1 n) then moveFlits n d1 else d1 := by
  subst hd hl
  exact (if_neg (by rw [linkUp_of_state hu]; decide)).trans ((if_pos hm).trans (if_neg (by rw [hs]; decide)))

theorem retryTimer_lost (hs : l.state = .lost) : retryTimer n d = setLink n (negotiate { l with failures := 3 }) d := by
  subst hl
  exact if_pos hs

end

/-- The runs that lose a peer are those that the change itself names. -/
theorem losing_congr {f g : Dev → Dev} {d : Dev} (h : f d = g d) : losing f d = losing g d := by
  simp only [losing, h]

/-- Settles O48: a trained candidate, the four ends of one that times out, and silence and retry. -/
theorem linksTrainFailAndRetry : Obligations.LinksTrainFailAndRetry := by
  refine ⟨fun s n l hl ht k lanes rate hk => ⟨fun a => next_mem (congrArg mirrorWake (linkTrained_candidate hl ht hk)),
      fun hn => ?_, fun hn hf => ?_, fun hn hf => ?_, fun hn hf => ?_⟩,
    fun s n l hl => ⟨fun hu hm => next_mem (linkSilent_plain hl hu hm),
      fun d hu hm hs hd => next_mem (linkSilent_mirror hl hu hm hs hd), fun hs => next_dev (retryTimer_lost hl hs)⟩⟩
  · exact next_mem (congrArg pairStep (losing_congr (candidateTimeout_next hl ht hk hn)))
  · exact next_mem (congrArg pairStep (losing_congr
      ((candidateTimeout_last hl ht hk hn).trans (negotiationFails_again hl hf))))
  · exact next_mem (congrArg pairStep (losing_congr
      ((candidateTimeout_last hl ht hk hn).trans (negotiationFails_third hl hf))))
  · exact next_mem (congrArg pairStep (losing_congr
      ((candidateTimeout_last hl ht hk hn).trans (negotiationFails_lost hl hf))))

/- Flits. -/

section
variable {n : Nat} {l : Link} {d : Dev} (hl : linkOf d n = l) (hu : l.state = .up)
include hl hu

theorem flitAck_up {h : FlitHeader} {t : FlitTrailer} :
    flitAck n h t d = mirrorWake (pairStep (receiveFlit n h (runLink n (setLink n (addCredits t.credits
      (ackFlits t.ackSeq.val { l with
        silent := false
        fecCorrected := if l.fec then satAdd 64 l.fecCorrected t.corrected else l.fecCorrected })) d)))) := by
  subst hl
  exact if_pos (linkUp_of_state hu)

theorem nak_up {a : Nat} {k : Link} (hk : k = ackFlits a { l with silent := false }) :
    nak n a d = mirrorWake (pairStep (runLink n
      (setLink n { k with replays := satAdd 32 k.replays k.unacked.length } d))) := by
  subst hk hl
  exact if_pos (linkUp_of_state hu)

theorem flitCrcFail_up {u : Bool} :
    flitCrcFail n u d = runLink n (setLink n
      { l with nakDue := true
               fecUncorrectable := if u then satAdd 32 l.fecUncorrectable 1 else l.fecUncorrectable } d) := by
  subst hl
  exact if_pos (linkUp_of_state hu)

theorem receiveFlit_idle {h : FlitHeader} (ht : h.type.val = 0) :
    receiveFlit n h d = if flitBad h then dropFormat n (hears n d) else hears n d := by
  subst hl
  exact (if_neg (by rw [linkUp_of_state hu]; decide)).trans (if_pos ht)

theorem receiveFlit_next {h : FlitHeader} (ht : h.type.val ≠ 0) (hs : h.seq.val = (l.rxSeq + 1) % 4096) :
    receiveFlit n h d = runLink n (placeFlit n h
      (setLink n { linkOf (hears n d) n with rxSeq := h.seq.val, ackDue := true } (hears n d))) := by
  subst hl
  exact (if_neg (by rw [linkUp_of_state hu]; decide)).trans ((if_neg ht).trans (if_pos hs))

theorem receiveFlit_outOfOrder {h : FlitHeader} (ht : h.type.val ≠ 0) (hs : h.seq.val ≠ (l.rxSeq + 1) % 4096) :
    receiveFlit n h d = runLink n (setLink n { linkOf (hears n d) n with ackDue := true } (hears n d)) := by
  subst hl
  exact (if_neg (by rw [linkUp_of_state hu]; decide)).trans ((if_neg ht).trans (if_neg hs))

theorem linkMgmt_info {v off : Bool} {id : Fin 2048} {lanes rate role : Fin 3} :
    linkMgmt n (.info v id lanes rate off role) d = pairStep (setLink n
      { linkOf (hears n d) n with
        peer := if v then some id.val else none, peerLanes := lanes.val, peerRate := rate.val, peerFecOff := off,
        peerRole := role.val } (hears n d)) := by
  subst hl
  exact if_neg (by rw [linkUp_of_state hu]; exact Bool.false_ne_true)

theorem linkMgmt_mailbox {bs : Bytes} : linkMgmt n (.mailbox bs) d = mirrorMail n bs (hears n d) := by
  subst hl
  exact (if_neg (by rw [linkUp_of_state hu]; exact Bool.false_ne_true)).trans (if_pos (linkUp_of_state hu))

end

theorem flitForward_other {n : Nat} {h : FlitHeader} {d : Dev} (hid : d.chain.id ≠ some h.dest.val) :
    flitForward n h d = receiveFlit n h d :=
  if_neg (by rw [beq_iff_eq]; exact hid)

/-- A good flit of another device's message, on a link without the mirror role, is forwarded (R230, R234). -/
theorem placeFlit_forwards {n : Nat} {h : FlitHeader} {d : Dev} (hb : flitBad h = false) (hid : d.chain.id ≠ some h.dest.val)
    (ht : 1 < h.type.val) (hc : chainHears d = true) (hm : (linkOf d n).mirror = false) :
    placeFlit n h d = forwardFlit n h d := by
  have hmine : ¬ (h.type.val = 1 || (chainHears d && d.chain.id == some h.dest.val)) = true := by
    rw [beq_eq_false_iff_ne.2 hid, Bool.and_false, Bool.or_false, decide_eq_true_iff]
    omega
  have hplain : ¬ (!chainHears d || (linkOf d n).mirror) = true := by
    rw [hc, hm]
    decide
  exact (if_neg (by rw [hb]; decide)).trans ((if_neg hmine).trans (if_neg hplain))

theorem forwardFlit_hops {n : Nat} {h : FlitHeader} {d d1 : Dev} (hd : d1 = oweCredit n h.vc.val d) (hh : h.hops.val = 63) :
    forwardFlit n h d = logOpen 0x09 16 (if n < 8 then dieE else dieW) n h.dest.val h.src.val
      (setLink n { linkOf d1 n with hopDrops := satAdd 32 (linkOf d1 n).hopDrops 1 } d1) := by
  subst hd
  exact if_pos hh

theorem forwardFlit_routeless {n : Nat} {h : FlitHeader} {d : Dev} (hh : h.hops.val ≠ 63)
    (hr : routeOf d h.dest.val = none) : forwardFlit n h d = oweCredit n h.vc.val d := by
  rw [forwardFlit, if_neg hh, hr]

theorem forwardFlit_routed {n m : Nat} {h : FlitHeader} {d : Dev} (hh : h.hops.val ≠ 63)
    (hr : routeOf d h.dest.val = some m) :
    forwardFlit n h d = queueFlits m
      [{ head := { h with hops := h.hops + 1 }, via := if h.vc.val = 0 then none else some n }]
      (if h.vc.val = 0 then oweCredit n 0 d else d) := by
  rw [forwardFlit, if_neg hh, hr]

/-- Settles O49: each kind of message that a link in mode takes. -/
theorem flitsAreAcknowledgedAndForwarded : Obligations.FlitsAreAcknowledgedAndForwarded := by
  refine fun s n l hl hu => ⟨fun h t d hd => ?_, fun a k hk => next_mem (nak_up hl hu hk),
    fun u => next_dev (flitCrcFail_up hl hu), fun h d hd => ⟨fun hb => ⟨fun ht => ?_, fun ht hs => ?_⟩,
      fun hid ht hs => ?_, fun hb hid ht hs hc hm => ?_⟩,
    fun v off id lanes rate role => next_mem (linkMgmt_info hl hu), fun bs => next_mem (linkMgmt_mailbox hl hu)⟩
  · subst hd
    exact next_mem (flitAck_up hl hu)
  · exact next_dev ((if_pos hb).trans ((receiveFlit_idle hl hu ht).trans (if_pos hb)))
  · subst hd
    exact next_dev ((if_pos hb).trans ((receiveFlit_next hl hu ht hs).trans (congrArg (runLink n.val) (if_pos hb))))
  · exact next_dev ((flitForward_other hid).trans (receiveFlit_outOfOrder hl hu ht hs))
  · have hid' : d.chain.id ≠ some h.dest.val := by
      subst hd
      exact hid
    have hforward : flitForward n.val h s.dev = runLink n.val (forwardFlit n.val h d) := by
      rw [flitForward_other hid, receiveFlit_next hl hu (by omega) hs, ← hd, placeFlit_forwards hb hid' ht hc hm]
    exact ⟨fun d1 hd1 hh => next_dev (hforward.trans (congrArg (runLink n.val) (forwardFlit_hops hd1 hh))),
      fun hh hr => next_dev (hforward.trans (congrArg (runLink n.val) (forwardFlit_routeless hh hr))),
      fun m hh hr => next_dev (hforward.trans (congrArg (runLink n.val) (forwardFlit_routed hh hr)))⟩

/- The mirrored pair. -/

theorem beatArrives_live {n : Nat} {l : Link} {d : Dev} (hl : linkOf d n = l) (hm : l.mirror = true) (hu : l.state = .up)
    (hc : chainHears d = true) : beatArrives n d = pairStep (setLink n { l with beatIn := true, silent := false } d) := by
  subst hl
  exact if_pos (by rw [hm, linkUp_of_state hu, hc]; rfl)

section
variable {c : Nat} {d : Dev} (hc : chainHears d = true) (hp : d.chain.mirror.state = .paired)
include hc hp

theorem logArrives_attach {p : Option Bytes} : logArrives c (.attach p) d = attachArrives c p d :=
  if_pos (by rw [hc, hp]; rfl)

theorem logArrives_detach :
    logArrives c .detach d = releaseCtxs (fun m => m.ctx == c)
      (modMirror (fun m => { m with offers := m.offers.filter (fun o => o.1 != c) }) d) :=
  if_pos (by rw [hc, hp]; rfl)

section
variable {m : MirrorCtx} (hr : d.chain.mirror.role = 2) (hm : mirrorCtx d c = some m) (hb : m.barred = false)
include hr hm hb

theorem takesMirror_paired : takesMirror d c = true := by
  simp only [takesMirror, isSecondary, hc, hp, hr, hm, hb]
  rfl

theorem logArrives_entry {e : MirrorEntry} (ha : ∀ p : Option Bytes, e ≠ .attach p) (hd : e ≠ .detach) :
    logArrives c e d = modMirrorCtx c (fun m => { m with log := m.log ++ [e] }) d := by
  have htakes := takesMirror_paired hc hp hr hm hb
  cases e with
  | attach p => exact absurd rfl (ha p)
  | detach => exact absurd rfl hd
  | _ => exact if_pos htakes

end

end

theorem pointReached_waiting {c : Nat} {m : MirrorCtx} {p : MirrorPoint} {ps : List MirrorPoint} {d : Dev}
    (hr : d.chain.mirror.role = 2) (hm : mirrorCtx d c = some m) (hb : m.barred = false) (hps : m.points = p :: ps)
    (hk : m.mark = 1) :
    pointReached c d =
      if pointsAgree p (ownPoint d c m) then mirrorWake (modMirrorCtx c (recordPoint p) d) else diverge c d := by
  have hstands : ¬ (m.mark != 1 || m.barred || !isSecondary d) = true := by
    rw [hk, hb, isSecondary, hr]
    decide
  unfold pointReached
  rw [hm]
  dsimp only
  rw [hps]
  exact if_neg hstands

/-- Settles O50: beats, then what a paired device takes of its partner. -/
theorem mirrorTrafficIsTaken : Obligations.MirrorTrafficIsTaken := by
  refine ⟨fun s => rfl, fun s n l hl hm hu hc => next_mem (beatArrives_live hl hm hu hc), fun s c hc hp =>
    ⟨fun p => ?_, ?_, fun m hr hm hb => ⟨fun e ha hd => ?_, fun p => ?_, fun p ps hps hk => ?_⟩⟩⟩
  · exact next_mem (congrArg (fun d => feedCtx c.val (mirrorWake d)) (logArrives_attach hc hp))
  · exact next_mem (congrArg (fun d => feedCtx c.val (mirrorWake d)) (logArrives_detach hc hp))
  · exact next_mem (congrArg (fun d => feedCtx c.val (mirrorWake d)) (logArrives_entry hc hp hr hm hb ha hd))
  · exact next_mem (if_pos (takesMirror_paired hc hp hr hm hb))
  · exact next_mem (pointReached_waiting hr hm hb hps hk)

/- Takeover and yield. -/

theorem aliveTimeout_secondary {t : Nat} {d : Dev} (hp : d.chain.mirror.state = .paired) (hr : d.chain.mirror.role = 2)
    (ht : d.boot.aliveInEdge = some t) : aliveTimeout d = takeOver (tickTo (t + 1000000) d) := by
  have hpaired : paired (tickTo (t + 1000000) d) = true := beq_iff_eq.2 hp
  have hsecond : isSecondary (tickTo (t + 1000000) d) = true := beq_iff_eq.2 hr
  unfold aliveTimeout
  rw [ht]
  exact (if_neg (by rw [hpaired]; decide)).trans (if_pos hsecond)

/-- Settles O51: the edge, the three silences, and what takeover and yield are. -/
theorem silenceMakesTheMirrorTakeOverOrYield : Obligations.SilenceMakesTheMirrorTakeOverOrYield := by
  refine ⟨fun s b hb => next_dev (if_neg hb), fun s hp => ⟨fun hr => ⟨next_mem (if_pos ?_), fun t ht => ?_⟩,
    fun hr => next_mem (if_pos ?_)⟩, fun d => ⟨rfl, rfl⟩⟩
  · rw [paired, isSecondary, hp, hr]
    rfl
  · exact next_mem (aliveTimeout_secondary hp hr ht)
  · rw [paired, isPrimary, hp, hr]
    rfl

/- The reset state. -/

theorem linkOf_reset (n : LinkId) : (linkOf State.reset.dev n.val).state = .down := by
  revert n
  decide

/-- Settles O52: each part of the reset state, which holds its fields' first values. -/
theorem resetLeavesNothingInProgress : Obligations.ResetLeavesNothingInProgress := by
  refine ⟨rfl, fun q => ?_, rfl, rfl, rfl, fun ch => ?_, rfl, rfl, rfl, rfl, rfl, rfl, rfl, linkOf_reset, fun v => rfl,
    rfl, rfl, rfl, rfl, memoriesWf_at_reset⟩
  · cases q <;> exact ⟨rfl, rfl, rfl⟩
  · cases ch <;> exact ⟨rfl, rfl⟩

end Sys2Proof.Proofs
end

section
/-! PROOFS. R51 to R62, R471: LOAD_PROBLEM. -/

namespace Sys2Proof.Proofs

open Sys2Proof Sys2Proof.Machine Sys2Proof.Laws

/- An action whose failures are caught, where it does not fail. -/

theorem tryCatch_ok {α : Type} {x : Act α} {f : Stop → Act α} {v : α} {d d' : Dev} (h : x d = .ok v d') :
    (tryCatch x f) d = .ok v d' := by
  show EStateM.tryCatch x f d = _
  rw [EStateM.tryCatch, h]

theorem endOnFail_ok {id steps : Nat} {key : Option Nat × Bool} {rep : LoadRep} {x : Act LoadEnd} {v : LoadEnd} {d d' : Dev}
    (h : x d = .ok v d') : endOnFail id steps key rep x d = .ok v d' :=
  tryCatch_ok h

theorem dropOnFault_ok {α : Type} {c : Nat} {x : Act α} {v : α} {d d' : Dev} (h : x d = .ok v d') :
    dropOnFault c x d = .ok v d' :=
  tryCatch_ok h

/- The four stages and the load. -/

/-- Nothing stands in the way of the load but its fit (R14, R51, R62, R334). -/
theorem loadFit_ok {d : Dev} {c : Ctx} {ctx : Nat} {f : LoadForm} {fit : FitSoFar}
    (he : (hStoch f.hdr || hSpill f.hdr) = true → expertOn d exLoad = true) (hr : c.run = none)
    (hs : sharedGallery d ctx (f.shapes.flatMap spanGalleries).eraseDups = none)
    (hd : deadGallery d (f.shapes.flatMap spanGalleries).eraseDups = none)
    (hf : fitBlocks c (hSpill f.hdr) (if hSpill f.hdr then u64 f.hdr 0x50 else 0) (f.edges.map (fun y => y.pair)) f.colours
      0 {} (f.shapes.zip f.descs) = .ok fit) : loadFit d c ctx f = .ok fit := by
  have hexpert : ¬ ((hStoch f.hdr || hSpill f.hdr) && !expertOn d exLoad) = true := by
    rw [Bool.and_eq_true, Bool.not_eq_true']
    rintro ⟨hneeds, hoff⟩
    rw [he hneeds] at hoff
    cases hoff
  unfold loadFit
  dsimp only
  rw [if_neg hexpert, if_neg (by rw [hr]; decide), hs, hd]
  exact hf

/-- What a load that passes its checks ends with. -/
def loadedEnd (f : LoadForm) (w : LoadStored) (key : Option Nat × Bool) (fit : FitSoFar) (fixups : Nat) : LoadEnd :=
  { rep := { w.rep with
      colours := coloursMax f.shapes f.colours, id := u32 f.hdr 4, fixups := fixups, spilled := fit.spilled }
    block := 0xFFFF
    out := { detail := w.rep.rel + min w.rep.zeros (2 ^ 32 - 1) * 2 ^ 32, seed := key.1.getD 0, spilled := fit.spilled != 0,
             seedDrawn := key.2 }
    steps := 4 + f.shapes.length }

/-- The device once the problem `p` is loaded in blocks placed as `placed`. -/
def problemLoaded (ctx : Nat) (f : LoadForm) (fit : FitSoFar) (placed : List PBlock) (p : Problem) (d : Dev) : Dev :=
  markStorage placed (u64 f.hdr 0x48) fit.spilled
    (modCtx ctx (fun y => { y with problem := some p }) (discardUpdates ctx d))

section
variable {env : OpEnv} {c : Ctx} {f : LoadForm} {w : LoadStored} {key : Option Nat × Bool} {fit : FitSoFar}
  {inits : List (List Bool)} {placed : List PBlock} {p : Problem × Nat} {d d1 d2 d3 d4 : Dev}
  (hi : initAll env (f.shapes.zip f.descs) d3 = .ok inits d4)
  (hplaced : placed = placeStorage c (f.edges.map (fun y => y.pair)) [] (f.shapes.zip f.descs))
  (hp : p = buildProblem f w (importCount c) fit.spilled placed inits)
include hi hplaced hp

theorem loadPlace_ok :
    loadPlace env c f w { w.rep with id := u32 f.hdr 4, colours := coloursMax f.shapes f.colours } key fit d3 =
      .ok (loadedEnd f w key fit p.2) (problemLoaded env.ctx f fit placed p.1 d4) := by
  subst hplaced hp
  unfold loadPlace
  rw [bind_ok (dropOnFault_ok hi)]
  rfl

theorem loadRest_ok {v : LoadVals} (hk : roundKey env f.hdr d1 = .ok key d2) (hv : loadValues env f d2 = .ok v d3)
    (hq : quantise f v key.1 = .ok w) (hfit : loadFit d3 c env.ctx f = .ok fit) :
    loadRest env c f d1 = .ok (loadedEnd f w key fit p.2) (problemLoaded env.ctx f fit placed p.1 d4) := by
  unfold loadRest
  dsimp only
  rw [bind_ok hk]
  refine endOnFail_ok ?_
  rw [bind_ok hv, hq]
  dsimp only
  rw [bind_ok get_ok, hfit]
  exact endOnFail_ok (loadPlace_ok hi hplaced hp)

end

theorem loadRun_ok {env : OpEnv} {h : Bytes} {c : Ctx} {f : LoadForm} {z : LoadEnd} {d d1 d' : Dev}
    (hc : needCtx env d = .ok c d) (hform : (loadForm env (importCount c) h).run d = .ok (.ok f) d1)
    (hspan : (spanChecks c 0 [] (f.shapes.zip f.descs)).run d1 = .ok (.ok ()) d1)
    (hrest : loadRest env c f d1 = .ok z d') : loadRun env h d = .ok z d' := by
  unfold loadRun
  rw [bind_ok hc, bind_ok hform]
  dsimp only
  rw [bind_ok hspan]
  exact endOnFail_ok hrest

/-- A load whose report, where it asks for one, is written. -/
theorem bodyLoad_ok {env : OpEnv} {x h : Bytes} {z : LoadEnd} {d d0 l t : Dev} (hd : descriptor env x 128 d = .ok h d0)
    (ha : u64 h 0x58 = 0 ∨ checkDest (u64 h 0x58) 64 d0 = .ok () d0) (hr : loadRun env h d0 = .ok z l)
    (ht : (u64 h 0x58 = 0 ∧ t = l) ∨
      (u64 h 0x58 ≠ 0 ∧ wr (u64 h 0x58) (loadReport z.rep z.block (loadReason z.out)) l = .ok () t)) :
    bodyLoad env x d = .ok (.done z.out z.steps) t := by
  unfold bodyLoad
  rw [bind_ok hd]
  dsimp only
  obtain ⟨h0, rfl⟩ | ⟨h0, hw⟩ := ht
  · rw [if_pos h0, bind_ok (endOnFail_ok hr), if_pos h0]
    rfl
  · rw [if_neg h0, bind_ok (ha.resolve_left h0), bind_ok (endOnFail_ok hr), if_neg h0, bind_ok hw]
    rfl

/-- Settles O34: the checks, then the load and its report. -/
theorem aProblemIsLoaded : Obligations.AProblemIsLoaded := by
  intro s q e o r x h d d0 d1 d2 d3 d4 t l c f key v w fit inits env rep placed p henv hop hd ha hc hrun hform hspan hkey hv hq
    hexpert hshared hdead hfit hinit hplaced hp hl hrep ht
  subst henv hl hrep
  have hrest := loadRest_ok hinit hplaced hp hkey hv hq (loadFit_ok hexpert hrun hshared hdead hfit)
  exact opRow_done hop (bodyLoad_ok hd ha (loadRun_ok (needCtx_ok hc) hform hspan hrest) ht)

end Sys2Proof.Proofs
end

section
/-! PROOFS. R63 to R68, R101, R102, R114 to R118, R203 to R205: updates, schedules, boundary maps, READ_STATE and
READ_TRACE. -/

namespace Sys2Proof.Proofs

open Sys2Proof Sys2Proof.Machine Sys2Proof.Laws

/- Checks made only under a condition. -/

theorem checkUnless_ok {β : Type} {p : Prop} [Decidable p] {x : Act Unit} {k : Act β} {d : Dev}
    (h : p ∨ x d = .ok () d) : (if p then k else x >>= fun _ => k) d = k d := by
  split
  · rfl
  next hp => exact bind_ok (h.resolve_left hp)

theorem checkIf_ok {β : Type} {p : Prop} [Decidable p] {x : Act Unit} {k : Act β} {d : Dev}
    (h : p → x d = .ok () d) : (if p then x >>= fun _ => k else k) d = k d := by
  split
  next hp => exact bind_ok (h hp)
  · rfl

theorem map_ok {α β : Type} {f : α → β} {x : Act α} {a : α} {d d' : Dev} (h : x d = .ok a d') :
    EStateM.map f x d = .ok (f a) d' := by
  rw [EStateM.map, h]

/- UPDATE_COEFFS. -/

/-- The update of a checked header. -/
def updateOf (x : Ctx) (h : Bytes) (seed : Nat) (drawn : Bool) (op : Option (QRef × Nat)) : Update :=
  { header := h, explicit := bit (u16 h 2) 4, epoch := bits (u64 h 8) 0 48, seq := u32 h 0x10, order := x.updateOrder,
    late := false, seed := seed, drawn := drawn, op := op }

/-- The update joins those that wait. -/
def queueUpdate (ctx : Nat) (u : Update) (d : Dev) : Dev :=
  modCtx ctx (fun y => { y with updates := y.updates ++ [u], updateOrder := y.updateOrder + 1 }) d

/-- What a checked update does: it is registered, applied, or waits. -/
def updateGoes (env : OpEnv) (x : Ctx) (h : Bytes) (seed : Nat) (drawn register : Bool) : Act OpRes :=
  if register then do
    change (queueUpdate env.ctx (updateOf x h seed drawn (if register then none else some (env.q, env.idx))))
    pure (.done { status := stPartial, detail := 0, seed := seed, seedDrawn := drawn } 1)
  else if x.run.isNone then do
    let (o, n) ← applyUpdate env env.ctx (updateOf x h seed drawn (if register then none else some (env.q, env.idx)))
      noEpoch false true
    pure (.done o n)
  else do
    change (queueUpdate env.ctx (updateOf x h seed drawn (if register then none else some (env.q, env.idx))))
    pure (.running .update 0)

/-- No waiting update has the epoch and number of an explicit one (R67). -/
theorem updates_distinct {l : List Update} {explicit : Bool} {epoch seq : Nat}
    (h : ∀ u ∈ l, explicit = true → u.explicit = true → u.epoch = epoch → u.seq ≠ seq) :
    (!(explicit && l.any (fun u => u.explicit && u.epoch == epoch && u.seq == seq))) = true := by
  rw [Bool.not_eq_true', Bool.eq_false_iff]
  intro hmeets
  rw [Bool.and_eq_true, List.any_eq_true] at hmeets
  obtain ⟨hex, u, hu, hsame⟩ := hmeets
  simp only [Bool.and_eq_true, beq_iff_eq] at hsame
  exact h u hu hex hsame.1.1 hsame.1.2 hsame.2

theorem registers_iff {x : Ctx} {explicit : Bool} :
    (explicit && x.run.isNone) = true ↔ explicit = true ∧ x.run = none := by
  rw [Bool.and_eq_true, Option.isNone_iff_eq_none]

section
variable {env : OpEnv} {x h : Bytes} {c : Ctx} {p : Problem} {d d0 d1 d2 : Dev} {sd : Nat} {drawn : Bool}
  {es : List UpdEntry}

/-- The checks of UPDATE_COEFFS, passed (R63, R67). -/
theorem bodyUpdate_checked (hc : needCtx env d = .ok c d) (hp : c.problem = some p) (hd : descriptor env x 64 d = .ok h d0)
    (hb : updHeaderBad (some p.id) h = none)
    (hu : ∀ u ∈ c.updates, bit (u16 h 2) 4 = true → u.explicit = true → u.epoch = bits (u64 h 8) 0 48 → u.seq ≠ u32 h 0x10)
    (he : if bit (u16 h 2) 4 = true ∧ c.run = none then d1 = d0 else readEntries env h d0 = .ok es d1)
    (hs : updStoch h = true → expertOn d1 exLoad = true)
    (ha : u64 h 0x20 = 0 ∨ checkDest (u64 h 0x20) 32 d1 = .ok () d1)
    (hsd : (if updStoch h then seedOf env (u64 h 0x28) else pure (0, false)) d1 = .ok (sd, drawn) d2) :
    bodyUpdate env x d = updateGoes env c h sd drawn (bit (u16 h 2) 4 && c.run.isNone) d2 := by
  unfold bodyUpdate
  rw [bind_ok hc, bind_ok hd]
  dsimp only
  rw [hp, Option.map_some, hb]
  dsimp only
  rw [bind_ok (require_true (updates_distinct hu))]
  split at he
  next hreg =>
    subst he
    rw [if_pos (registers_iff.2 hreg), checkIf_ok (fun h => needExpert_ok (hs h)), checkUnless_ok ha, ite_then, bind_ok hsd]
    rfl
  next hreg =>
    rw [if_neg (mt registers_iff.1 hreg), bind_ok (map_ok he), checkIf_ok (fun h => needExpert_ok (hs h)), checkUnless_ok ha,
      ite_then, bind_ok hsd]
    rfl

/-- An update that applies at once: its entries, and its report where one is asked for. -/
theorem applyUpdate_now {u : Update} {p' : Problem} {k : UpdCount} {d3 t : Dev} (hop : u.op.isNone = false)
    (he : readEntries env u.header d = .ok es d3) (hp : (ctxOf d3 env.ctx).bind (fun y => y.problem) = some p)
    (hk : applyEntries p (updAdd u.header) (updFmt u.header) (if updStoch u.header then some u.seed else none) es = (p', k))
    (ht : (u64 u.header 0x20 = 0 ∧ t = modCtx env.ctx (fun y => { y with problem := some p' }) d3) ∨
      (u64 u.header 0x20 ≠ 0 ∧ wr (u64 u.header 0x20) (updateReport k.applied k.missing k.saturated k.refused noEpoch false
        false false false) (modCtx env.ctx (fun y => { y with problem := some p' }) d3) = .ok () t)) :
    applyUpdate env env.ctx u noEpoch false true d =
      .ok ({ detail := updDetail k, seed := u.seed, seedDrawn := u.drawn }, k.applied / 4096 + 1) t := by
  unfold applyUpdate
  dsimp only
  rw [if_pos rfl, bind_ok (map_ok he)]
  dsimp only
  rw [bind_ok get_ok, hp]
  dsimp only
  rw [hk]
  dsimp only
  rw [bind_ok change_ok, hop]
  obtain ⟨h0, rfl⟩ | ⟨h0, hw⟩ := ht
  · rw [reportAddr, if_pos h0]
    rfl
  · rw [reportAddr, if_neg h0, if_pos rfl]
    exact bind_ok hw

end

/-- Settles O35: the checks, then registered, waiting or applied. -/
theorem coefficientsAreUpdated : Obligations.CoefficientsAreUpdated := by
  intro s q e o sd r x h d d0 d1 d2 d3 t c p drawn es env henv hop hc hp hd hb hu he hs ha hsd u hupd
  subst henv hupd
  have hchecked := bodyUpdate_checked (needCtx_ok hc) hp hd hb hu he hs ha hsd
  refine ⟨fun hex hrun => ?_, fun hrun => ?_, fun k p' hex hrun hread hp3 hk ht => ?_⟩
  · rw [registers_iff.2 ⟨hex, hrun⟩] at hchecked
    exact opRow_done hop hchecked
  · have hreg : (bit (u16 h 2) 4 && c.run.isNone) = false := Bool.eq_false_iff.2 (fun h => hrun (registers_iff.1 h).2)
    have hruns : ¬ c.run.isNone = true := fun h => hrun (Option.isNone_iff_eq_none.1 h)
    rw [hreg] at hchecked
    exact opRow_running hop (hchecked.trans (congrFun (if_neg hruns) d2))
  · have hreg : (bit (u16 h 2) 4 && c.run.isNone) = false := by rw [hex, Bool.false_and]
    have hidle : c.run.isNone = true := Option.isNone_iff_eq_none.2 hrun
    rw [hreg] at hchecked
    have happly := applyUpdate_now (env := opEnv q e o) (u := updateOf c h sd drawn (some (q, e.next))) rfl hread hp3 hk ht
    exact opRow_done hop (hchecked.trans ((congrFun (if_pos hidle) d2).trans (bind_ok happly)))

/- SET_SCHEDULE. -/

theorem bodySetSchedule_ok {env : OpEnv} {x h raw : Bytes} {c : Ctx} {d d0 d1 : Dev} (hc : needCtx env d = .ok c d)
    (hd : descriptor env x 64 d = .ok h d0) (hb : setScheduleBad h = none)
    (hr : rd env (u64 h 8) (16 * u16 h 4) d0 = .ok raw d1)
    (hok : ∀ b ∈ chunks 16 (u16 h 4) raw, schedEntryOk b = true) (hrun : ∀ g, c.run = some g → g.desc.schedule ≠ u8 h 2)
    (hp : schedulePages (u16 h 4) ≤ scheduleStorePages - pagesHeld d1 env.ctx (u8 h 2)) :
    bodySetSchedule env x d = .ok (.done { detail := anyDetail } 1) (modCtx env.ctx (fun y =>
      { y with schedules := tabSet (u8 h 2) ((chunks 16 (u16 h 4) raw).map entryOf) y.schedules }) d1) := by
  have hgood : (chunks 16 (u16 h 4) raw).findIdx? (fun b => !schedEntryOk b) = none := by
    rw [List.findIdx?_eq_none_iff]
    intro b hmem
    rw [hok b hmem]
    rfl
  unfold bodySetSchedule
  rw [bind_ok hc, bind_ok hd]
  dsimp only
  rw [hb]
  dsimp only
  rw [bind_ok hr, hgood]
  refine (bind_ok (require_true ?_)).trans ((bind_ok get_ok).trans (bind_ok (require_true (decide_eq_true hp))))
  cases hg : c.run with
  | none => rfl
  | some g => exact Bool.not_eq_true' _ ▸ (beq_eq_false_iff_ne.2 (hrun g hg))

/- BOUNDARY_LOAD. -/

theorem failItem_none {reason : Nat} {b : Option Nat} {d : Dev} (h : b = none) : failItem b reason d = .ok () d := by
  subst h
  rfl

/-- BOUNDARY_LOAD once the map's exports have passed: its areas are checked, and the map is kept. -/
def keepMap (env : OpEnv) (c : Ctx) (b : Boundary) : Act OpRes := do
  let need := workNeed b 0
  require (decide (need ≤ b.workBytes)) stDoesNotFit (fitDetail (need - b.workBytes) 0 rsWork 0)
  requireFmt (b.ring % 64 == 0 && isPow2 b.ringEntries && inRange b.ringEntries 16 65536 && b.countAddr % 8 == 0)
    noItem rsCheckRing
  checkAddr b.workAddr
  checkAddr b.ring
  checkAddr b.countAddr
  checkAddr b.bestAddr
  checkAddr b.endAddr
  require c.run.isNone stBusy anyDetail
  change (modCtx env.ctx (fun y => { y with boundary := some b, problem := y.problem.map (withImports b.imports) }))
  pure (.done {} 6)

theorem keepMap_ok {env : OpEnv} {c : Ctx} {b : Boundary} {d : Dev} (hwork : workNeed b 0 ≤ b.workBytes)
    (hring : (b.ring % 64 == 0 && isPow2 b.ringEntries && inRange b.ringEntries 16 65536 && b.countAddr % 8 == 0) = true)
    (ha1 : addrForm b.workAddr = true) (ha2 : addrForm b.ring = true) (ha3 : addrForm b.countAddr = true)
    (ha4 : addrForm b.bestAddr = true) (ha5 : addrForm b.endAddr = true) (hrun : c.run = none) :
    keepMap env c b d = .ok (.done {} 6) (modCtx env.ctx (fun y =>
      { y with boundary := some b, problem := y.problem.map (withImports b.imports) }) d) := by
  have hidle : c.run.isNone = true := Option.isNone_iff_eq_none.2 hrun
  unfold keepMap
  rw [bind_ok (require_true (decide_eq_true hwork)), bind_ok (requireFmt_true hring), bind_ok (checkAddr_ok ha1),
    bind_ok (checkAddr_ok ha2), bind_ok (checkAddr_ok ha3), bind_ok (checkAddr_ok ha4), bind_ok (checkAddr_ok ha5),
    bind_ok (require_true hidle)]
  rfl

/-- A loaded problem's exports, checked before the rest. -/
def checkExports (c : Ctx) (b : Boundary) (k : Act OpRes) : Act OpRes :=
  match c.problem with
  | some p => failItem (exportBad (spinCount p.blocks) b) rsExport >>= fun _ => k
  | none => k

theorem checkExports_ok {c : Ctx} {b : Boundary} {k : Act OpRes} {d : Dev}
    (hprob : ∀ p, c.problem = some p → exportBad (spinCount p.blocks) b = none) : checkExports c b k d = k d := by
  unfold checkExports
  cases hp : c.problem with
  | none => rfl
  | some p => exact bind_ok (failItem_none (hprob p hp))

theorem bodyBoundaryLoad_checked {env : OpEnv} {x h raw list : Bytes} {c : Ctx} {b : Boundary} {d d0 d1 d2 : Dev}
    (hc : needCtx env d = .ok c d) (hd : descriptor env x 128 d = .ok h d0) (hh : mapHeaderOk d0.mem h = true)
    (hr : (if u8 h 0xA = 0 then pure [] else rd env (u64 h 0x10) (32 * u8 h 0xA)) d0 = .ok raw d1)
    (hf : ∀ y ∈ chunks 32 (u8 h 0xA) raw, peerFormOk y = true)
    (hpart : mapPartBad (mapOf h ((chunks 32 (u8 h 0xA) raw).map peerOf) []) = none)
    (himp : mapImportBad (mapOf h ((chunks 32 (u8 h 0xA) raw).map peerOf) []) = none) (hfit : importsFit c (u32 h 0xC) = true)
    (hexp : mapExportBad (mapOf h ((chunks 32 (u8 h 0xA) raw).map peerOf) []) (u32 h 0x20) = none)
    (hl : (if u32 h 0x20 = 0 then pure [] else rd env (u64 h 0x18) (4 * u32 h 0x20)) d1 = .ok list d2)
    (hb : b = mapOf h ((chunks 32 (u8 h 0xA) raw).map peerOf) (u32sOf (u32 h 0x20) list)) :
    bodyBoundaryLoad env x d = checkExports c b (keepMap env c b) d2 := by
  have hforms : (chunks 32 (u8 h 0xA) raw).findIdx? (fun b => !peerFormOk b) = none := by
    rw [List.findIdx?_eq_none_iff]
    intro y hmem
    rw [hf y hmem]
    rfl
  subst hb
  unfold bodyBoundaryLoad
  rw [bind_ok hc, bind_ok hd, bind_ok get_ok, bind_ok (requireFmt_true hh)]
  dsimp only
  rw [ite_then, bind_ok hr, bind_ok (failItem_none hforms), bind_ok (failItem_none hpart), bind_ok (failItem_none himp)]
  refine (bind_ok (requireFmt_true hfit)).trans ((bind_ok (failItem_none hexp)).trans ?_)
  rw [ite_then]
  exact bind_ok hl

/-- Settles O36: SET_SCHEDULE, then BOUNDARY_LOAD. -/
theorem schedulesAndMapsAreKept : Obligations.SchedulesAndMapsAreKept := by
  refine ⟨fun s q e o r x h raw d d0 d1 c hop hc hd hb hr hok hrun hp => ?_,
    fun s q e o r x h raw list d d0 d1 d2 c env b henv hop hc hd hh hr hf hpart himp hfit hexp hl hb hprob hwork hring ha1
      ha2 ha3 ha4 ha5 hrun => ?_⟩
  · exact opRow_done hop (bodySetSchedule_ok (needCtx_ok hc) hd hb hr hok hrun hp)
  · subst henv
    exact opRow_done hop ((bodyBoundaryLoad_checked (needCtx_ok hc) hd hh hr hf hpart himp hfit hexp hl hb).trans
      ((checkExports_ok hprob).trans (keepMap_ok hwork hring ha1 ha2 ha3 ha4 ha5 hrun)))

/- READ_STATE. -/

section
variable {env : OpEnv} {x h : Bytes} {c : Ctx} {p : Problem} {d d0 : Dev} (hc : needCtx env d = .ok c d)
  (hp : c.problem = some p) (hd : descriptor env x 64 d = .ok h d0) (hb : readStateBad p h = none)
include hc hp hd hb

/-- A checked READ_STATE writes its image, or waits for the end of the run's epoch (R117). -/
theorem bodyReadState_checked :
    bodyReadState env x d =
      (if c.run.isNone then writeState p h
       else do
        change (modCtx env.ctx (fun y => { y with snapshots := y.snapshots ++ [{ q := env.q, idx := env.idx, desc := h }] }))
        pure (.running .snapshot 0)) d0 := by
  unfold bodyReadState
  rw [bind_ok hc, bind_ok hd]
  dsimp only
  rw [hp]
  dsimp only
  rw [hb]

end

theorem writeState_ok {p : Problem} {h : Bytes} {n : Nat} {d d1 : Dev}
    (hn : n = imageBytes p (readForm h) (u16 h 4) (u16 h 6)) (hfit : n ≤ u64 h 0x18)
    (ha : checkDest (u64 h 0x10) n d = .ok () d)
    (hw : wr (u64 h 0x10) (stateImage p (readForm h) (u16 h 4) (u16 h 6)) d = .ok () d1) :
    writeState p h d = .ok (.done { detail := n } (u16 h 6)) d1 := by
  subst hn
  unfold writeState
  rw [bind_ok (require_true (decide_eq_true hfit)), bind_ok ha, bind_ok hw]
  rfl

/- READ_TRACE. -/

theorem bodyReadTrace_ok {env : OpEnv} {x : Bytes} {ring entries first count dest w lo hi : Nat} {c : Ctx} {bs : List Bytes}
    {d d0 d1 : Dev} (hc : needCtx env d = .ok c d) (h64 : ring % 64 = 0) (hdev : isHost ring = false) (hmin : 64 ≤ entries)
    (hmax : entries ≤ 16777216) (hpow : isPow2 entries = true)
    (hw : w = ((c.traceRings.find? (fun k => k.1 == ring && k.2.1 == entries)).map (fun k => k.2.2)).getD 0)
    (hlo : lo = max first (w - entries)) (hhi : hi = min (first + count) w)
    (ha : checkDest dest (32 * (hi - lo)) d = .ok () d)
    (hr : (List.range (hi - lo)).mapM (fun i => devRead (ring + 32 * ((lo + i) % entries)) 32) d = .ok bs d0)
    (hwr : wr dest (bs.flatMap id) d0 = .ok () d1) :
    bodyReadTrace ring entries first count dest env x d =
      .ok (.done { status := if hi - lo < count then stPartial else stOk
                   detail := low 48 (if hi - lo = 0 then first else lo) + min (hi - lo) 65535 * 2 ^ 48 }
        (transferSteps (32 * (hi - lo)))) d1 := by
  have hform : (ring % 64 == 0 && !isHost ring && decide (64 ≤ entries) && decide (entries ≤ 16777216) &&
      isPow2 entries) = true := by
    rw [h64, hdev, decide_eq_true hmin, decide_eq_true hmax, hpow]
    rfl
  subst hw hlo hhi
  unfold bodyReadTrace
  rw [bind_ok hc, bind_ok (requireFmt_true hform), bind_ok ha, bind_ok hr, bind_ok hwr]
  rfl

/-- Settles O37: READ_STATE with and without a run, then READ_TRACE. -/
theorem statesAndTracesAreRead : Obligations.StatesAndTracesAreRead := by
  refine ⟨fun s q e o r x h d d0 d1 c p hop hc hp hd hb => ?_,
    fun s q e o w lo hi r x ring entries first count dest d d0 d1 t c bs hop hc h64 hdev hmin hmax hpow hw hlo hhi ha hr hwr
      ht => ?_⟩
  · have hchecked := bodyReadState_checked (needCtx_ok hc) hp hd hb
    refine ⟨fun n hrun hn hfit ha hw => ?_, fun hrun => ?_⟩
    · rw [if_pos (by rw [hrun]; rfl), writeState_ok hn hfit ha hw] at hchecked
      exact opRow_done hop hchecked
    · rw [if_neg (fun h => hrun (Option.isNone_iff_eq_none.1 h))] at hchecked
      exact opRow_running hop hchecked
  · have hbody := bodyReadTrace_ok (env := opEnv q e o) (x := x) (needCtx_ok hc) h64 hdev hmin hmax hpow hw hlo hhi ha hr hwr
    have hissue := issueOp_runs hop (mine := isOpcode 0x46) (body := bodyReadTrace ring.toNat entries.toNat first.toNat count.toNat dest.toNat)
      (by simp [isOpcode, hop.opcode])
    rw [hbody] at hissue
    subst ht
    exact next_mem (congrArg (keepTraceAreas q dest.toNat count.toNat ring.toNat entries.toNat s.dev) hissue)

end Sys2Proof.Proofs
end

section
/-! PROOFS. R107, R188, R192, R206: ANNEAL, STAND and FLIGHT_RUN start their runs. -/

namespace Sys2Proof.Proofs

open Sys2Proof Sys2Proof.Machine Sys2Proof.Laws

section
variable {s : State} {q : QRef} {code : Nat} {e : Entry} {o : Nat} {r x : Bytes} {d d' : Dev} {body : Body} {w : OpWait}
  {n : Nat} (h : OpRuns s q code e o r x d)
include h

/-- The context of the queue's entry. -/
theorem issueCtx : ((queueOf s.dev q).cur.map (fun e => e.ctx)).getD 0xFFFF = e.ctx := by
  rw [h.due.entry]
  rfl

theorem issueOp_running (hb : body (opEnv q e o) x d = .ok (.running w n) d') :
    issueOp q (isOpcode code) body s.dev = opStarted q e o r w n d' := by
  have hm : isOpcode code s.dev e r = true := by simp [isOpcode, h.opcode]
  rw [issueOp_runs h hm, hb]
  rfl

theorem runRow_running (hb : body (opEnv q e o) x d = .ok (.running w n) d') :
    runRow q code body s = .next (withMem s (afterIssue (resumeRun e.ctx) s.dev (opStarted q e o r w n d'))) := by
  rw [← issueCtx h, ← issueOp_running h hb]
  rfl

end

theorem execFlightRun_running {s : State} {q : QRef} {e : Entry} {o : Nat} {r x : Bytes} {d d' : Dev} {w : OpWait} {n : Nat}
    (h : OpRuns s q 0x81 e o r x d) (hb : bodyFlightRun (opEnv q e o) x d = .ok (.running w n) d') :
    exec (.flightRun q) s = .next (withMem s (afterIssue (flightGoes e.ctx) s.dev (opStarted q e o r w n d'))) := by
  rw [← issueCtx h, ← issueOp_running h hb]
  rfl

theorem bodyRun_ok {env : OpEnv} {stand drawn : Bool} {x h : Bytes} {plan : RunPlan} {sd : Nat} {d d0 d1 d2 : Dev}
    (hd : descriptor env x 128 d = .ok h d0) (hp : runChecks env stand false (fun _ => pure ()) h d0 = .ok plan d1)
    (hs : seedOf env (u64 h 8) d1 = .ok (sd, drawn) d2) :
    bodyRun stand env x d = .ok (.running .run 0) (setupRun env none (runDescOf stand h sd drawn) plan d2) := by
  unfold bodyRun
  rw [bind_ok hd, bind_ok hp, bind_ok hs]
  rfl

/- FLIGHT_RUN. -/

/-- A flight's run without an anneal starts its steps. -/
def startSteps (env : OpEnv) (f : Nat) (y : Flight) (fr : FlightRun) : Act OpRes := do
  require y.run.isNone stBusy anyDetail
  placeNulls y
  change (modFlight env.ctx f (startFlight fr))
  pure (.running (.flight f) 0)

/-- A flight's run with an anneal checks and sets that up too. -/
def startAnneal (env : OpEnv) (h : Bytes) (f : Nat) (y : Flight) (fr : FlightRun) : Act OpRes := do
  let rh ← rd env (u64 h 8) 128
  let plan ← runChecks env (frKind h == 2) (y.streams.any (fun s => s.kind == skDelta)) (clusterRoom y (u16 rh 0x10)) rh
  require y.run.isNone stBusy anyDetail
  let (seed, drawn) ← seedOf env (u64 rh 8)
  placeNulls y
  change (modFlight env.ctx f (startFlight fr))
  change (setupRun env (some f) (runDescOf (frKind h == 2) rh seed drawn) plan)
  pure (.running (.flight f) 0)

section
variable {env : OpEnv} {x h : Bytes} {c : Ctx} {y : Flight} {f : Nat} {fr : FlightRun} {d d0 d1 d2 d3 d4 : Dev}

/-- The checks of FLIGHT_RUN, passed (R188). -/
theorem bodyFlightRun_checked (hd : descriptor env x 64 d = .ok h d0) (hc : needCtx env d0 = .ok c d0)
    (hb : flightRunBad h = none) (hf : f = bits (u16 h 2) 0 2) (hy : flightOf c f = some y)
    (hk : (frKind h == 0) = y.steps.all (fun z => z.kind != fkAnneal)) (hfit : checkStillFits c y d0 = .ok () d0)
    (ha : u64 h 0x10 = 0 ∨ checkDest (u64 h 0x10) (128 + 16 * y.steps.length) d0 = .ok () d0)
    (hfr : fr = { q := env.q, idx := env.idx, kind := frKind h, frameLimit := u32 h 4, counters := u64 h 0x10 }) :
    bodyFlightRun env x d = (if frKind h = 0 then startSteps env f y fr else startAnneal env h f y fr) d0 := by
  subst hf hfr
  unfold bodyFlightRun
  rw [bind_ok hd, bind_ok hc]
  dsimp only
  rw [hb]
  dsimp only
  rw [hy]
  dsimp only
  rw [bind_ok (requireFmt_true (beq_iff_eq.2 hk)), bind_ok hfit, checkUnless_ok ha]
  rfl

theorem startSteps_ok (hr : y.run = none) (hn : placeNulls y d0 = .ok () d1) :
    startSteps env f y fr d0 = .ok (.running (.flight f) 0) (modFlight env.ctx f (startFlight fr) d1) := by
  unfold startSteps
  rw [bind_ok (require_true (by rw [hr]; rfl)), bind_ok hn]
  rfl

theorem startAnneal_ok {rh : Bytes} {plan : RunPlan} {sd : Nat} {drawn : Bool} (hr : y.run = none)
    (hd : rd env (u64 h 8) 128 d0 = .ok rh d1)
    (hp : runChecks env (frKind h == 2) (y.streams.any (fun z => z.kind == skDelta)) (clusterRoom y (u16 rh 0x10)) rh d1 =
      .ok plan d2)
    (hs : seedOf env (u64 rh 8) d2 = .ok (sd, drawn) d3) (hn : placeNulls y d3 = .ok () d4) :
    startAnneal env h f y fr d0 = .ok (.running (.flight f) 0) (setupRun env (some f)
      (runDescOf (frKind h == 2) rh sd drawn) plan (modFlight env.ctx f (startFlight fr) d4)) := by
  unfold startAnneal
  rw [bind_ok hd, bind_ok hp, bind_ok (require_true (by rw [hr]; rfl)), bind_ok hs]
  exact bind_ok hn

end

/-- Settles O38: a run of its own by kind, then a flight's run without and with an anneal. -/
theorem runsStart : Obligations.RunsStart := by
  intro s q e o sd r x h d d0 d1 d2 drawn env plan henv
  subst henv
  refine ⟨fun stand hop hd hp hs => ?_, fun c y f fr hop hd hc hb hf hy hr hk hfit ha hfr => ?_⟩
  · cases stand with
    | true => exact runRow_running hop (bodyRun_ok hd hp hs)
    | false => exact runRow_running hop (bodyRun_ok hd hp hs)
  · have hchecked := bodyFlightRun_checked hd (needCtx_ok hc) hb hf hy hk hfit ha hfr
    refine ⟨fun h0 hn => ?_, fun rh d3 d4 h0 hrd hp hs hn => ?_⟩
    · rw [if_pos h0, startSteps_ok hr hn] at hchecked
      exact execFlightRun_running hop hchecked
    · rw [if_neg h0, startAnneal_ok hr hrd hp hs hn] at hchecked
      exact execFlightRun_running hop hchecked

end Sys2Proof.Proofs
end

section
/-! PROOFS. R76, R77, R80 to R82, R87: phases, scan rounds and tournament rounds. -/

namespace Sys2Proof.Proofs

open Sys2Proof Sys2Proof.Machine Sys2Proof.Laws

/-- A context whose run steps is not held at a point of the mirror. -/
theorem mirrorGoes_of_runOf {d : Dev} {c : Nat} {z : Run × Problem} (h : runOf d c = some z) : mirrorGoes d c = true := by
  unfold runOf at h
  split at h
  · split at h
    next hgo => exact (Bool.and_eq_true_iff.1 hgo).2
    · cases h
  · cases h

/- Phases. -/

theorem maySweep_inSweep {g : Run} (h : g.inSweep = true) : maySweep g = false := by
  simp [maySweep, h]

/-- A phase that is done has been started by every gallery of the problem. -/
theorem started_of_phaseDone {g : Run} {p : Problem} (h : phaseDone g p = true) :
    g.inSweep = true ∧ ∀ y ∈ problemGalleries p, g.started.contains y = true := by
  simp only [phaseDone, phaseDecided, Bool.and_eq_true, List.all_eq_true] at h
  obtain ⟨⟨⟨⟨⟨hsweep, hall⟩, -⟩, -⟩, -⟩, -⟩ := h
  exact ⟨hsweep, hall⟩

/-- A gallery that starts the phase of a run evaluates its sparse spins. -/
def galleryStarts (c hall gal : Nat) (g : Run) (p : Problem) (d : Dev) : Dev :=
  setRunProblem c (sparseGallery hall gal { g with started := g.started ++ [(hall, gal)] } p).1
    (sparseGallery hall gal { g with started := g.started ++ [(hall, gal)] } p).2 d

section
variable {d : Dev} {c hall gal : Nat} {g : Run} {p : Problem} (hr : runOf d c = some (g, p))
  (hg : (hall, gal) ∈ problemGalleries p) (hw : galleryWaits d p hall gal = false)
include hr hg hw

/-- The three starts of a gallery: a sweep's first, one in the phase in progress, and the next phase's first. -/
theorem phaseStart_gallery :
    phaseStart c hall gal d =
      if maySweep g && mirrorGoes d c && !epochHeld d c g then
        galleryStarts c hall gal (startSweep g p).1 (startSweep g p).2 d
      else if g.inSweep && !g.started.contains (hall, gal) then galleryStarts c hall gal g p d
      else if phaseDone g p && decide (g.phase + 1 < sweepPhases g p) then
        galleryStarts c hall gal { g with phase := g.phase + 1, started := [] } p d
      else d := by
  have hmine : ¬ (!(problemGalleries p).contains (hall, gal) || galleryWaits d p hall gal) = true := by
    rw [List.contains_iff_mem.2 hg, hw]
    decide
  unfold phaseStart
  rw [hr]
  exact if_neg hmine

theorem phaseStart_sweep (hs : maySweep g = true) (he : epochHeld d c g = false) :
    phaseStart c hall gal d = galleryStarts c hall gal (startSweep g p).1 (startSweep g p).2 d :=
  (phaseStart_gallery hr hg hw).trans (if_pos (by rw [hs, mirrorGoes_of_runOf hr, he]; rfl))

theorem phaseStart_joins (hs : g.inSweep = true) (hn : (hall, gal) ∉ g.started) :
    phaseStart c hall gal d = galleryStarts c hall gal g p d := by
  have hnew : g.started.contains (hall, gal) = false := by
    rw [← Bool.not_eq_true, List.contains_iff_mem]
    exact hn
  refine (phaseStart_gallery hr hg hw).trans ((if_neg ?_).trans (if_pos ?_))
  · rw [maySweep_inSweep hs]
    exact Bool.false_ne_true
  · rw [hs, hnew]
    rfl

theorem phaseStart_next (hd : phaseDone g p = true) (hn : g.phase + 1 < sweepPhases g p) :
    phaseStart c hall gal d = galleryStarts c hall gal { g with phase := g.phase + 1, started := [] } p d := by
  obtain ⟨hs, hall⟩ := started_of_phaseDone hd
  refine (phaseStart_gallery hr hg hw).trans ((if_neg ?_).trans ((if_neg ?_).trans (if_pos ?_)))
  · rw [maySweep_inSweep hs]
    exact Bool.false_ne_true
  · rw [hs, hall _ hg]
    decide
  · rw [hd, decide_eq_true hn]
    rfl

end

/- Rounds of a dense replica. -/

/-- A round with no winner moves nothing. -/
theorem takeMove_nil {g : Run} {p : Problem} : takeMove [] g p = (g, p) := by
  simp only [takeMove, List.append_nil, List.foldl_nil, ite_self]

section
variable {d : Dev} {c b i : Nat} {g : Run} {p : Problem} {x : PBlock} (hr : runOf d c = some (g, p))
  (hx : p.blocks[b]? = some x) (hdense : x.dense = true) (hphase : denseInPhase g p x = true) (hi : i < x.reps.length)
  (hquiet : repQuiet g b i = true) (hwait : spanWaits d x = false)
include hr hx hdense hphase hi hquiet hwait

section
variable (ht : (runEntry g).tournament = false)
include ht

/-- A quiet replica's scan round: the next group, the next window, or nothing left (R81). -/
theorem scanRound_quiet :
    scanRound c b i d =
      match nextGroup p x (repAt x i).pos with
      | some (k, gr) =>
        if roomFor g p x gr 2 then setRunProblem c (scanGroup g p x b i k gr).1 (scanGroup g p x b i k gr).2 d else d
      | none =>
        match windowFrom p x (repAt x i).pos with
        | [] => setRunProblem c g (modRep b i (fun y => { y with pos := x.n }) p) d
        | w => if roomFor g p x w 1 then setRunProblem c (scanWindow g p x b i w).1 (scanWindow g p x b i w).2 d else d := by
  have hgo : (x.dense && denseInPhase g p x && !(runEntry g).tournament && decide (i < x.reps.length) && repQuiet g b i &&
      !spanWaits d x) = true := by
    rw [hdense, hphase, ht, decide_eq_true hi, hquiet, hwait]
    rfl
  unfold scanRound
  rw [hr]
  dsimp only
  rw [hx]
  exact if_pos hgo

theorem scanRound_group {k : Nat} {gr : List Nat} (hn : nextGroup p x (repAt x i).pos = some (k, gr))
    (hroom : roomFor g p x gr 2 = true) :
    scanRound c b i d = setRunProblem c (scanGroup g p x b i k gr).1 (scanGroup g p x b i k gr).2 d := by
  rw [scanRound_quiet hr hx hdense hphase hi hquiet hwait ht, hn]
  exact if_pos hroom

theorem scanRound_window (hn : nextGroup p x (repAt x i).pos = none) (hl : windowFrom p x (repAt x i).pos ≠ [])
    (hroom : roomFor g p x (windowFrom p x (repAt x i).pos) 1 = true) :
    scanRound c b i d = setRunProblem c (scanWindow g p x b i (windowFrom p x (repAt x i).pos)).1
      (scanWindow g p x b i (windowFrom p x (repAt x i).pos)).2 d := by
  rw [scanRound_quiet hr hx hdense hphase hi hquiet hwait ht, hn]
  dsimp only
  generalize windowFrom p x (repAt x i).pos = w at hl hroom ⊢
  cases w with
  | nil => exact absurd rfl hl
  | cons k l => exact if_pos hroom

theorem scanRound_over (hn : nextGroup p x (repAt x i).pos = none) (hl : windowFrom p x (repAt x i).pos = []) :
    scanRound c b i d = setRunProblem c g (modRep b i (fun y => { y with pos := x.n }) p) d := by
  rw [scanRound_quiet hr hx hdense hphase hi hquiet hwait ht, hn, hl]

end

section
variable (ht : (runEntry g).tournament = true) (hrounds : (repAt x i).rounds < x.n)
  (hroom : roomFor g p x (List.range x.n) 1 = true) {keys : List (Nat × Option Int)}
  (hkeys : keys = (List.range x.n).map (fun k => (k, tourKey g b i (repAt x i).rounds k
    (flipDelta ((repAt x i).spins.getD k false) (intAt (repAt x i).fields k)))))
include ht hrounds hroom hkeys

/-- The flip of the spin that wins a tournament's round, if one does. -/
def winnerFlips (g : Run) (p : Problem) (x : PBlock) (b i : Nat) (win : Option Nat) : List Flip :=
  match win with
  | some k => [newFlip g p x b i k (!(repAt x i).spins.getD k false) 0]
  | none => []

theorem tournamentRound_quiet :
    tournamentRound c b i d =
      setRunProblem c
        (takeMove (winnerFlips g p x b i ((bestKey keys).map (fun q => q.1))) g
          (modRep b i (fun y => { y with rounds := y.rounds + 1 })
            (countMoves b i 1 (winnerFlips g p x b i ((bestKey keys).map (fun q => q.1))).length 0 p))).1
        (takeMove (winnerFlips g p x b i ((bestKey keys).map (fun q => q.1))) g
          (modRep b i (fun y => { y with rounds := y.rounds + 1 })
            (countMoves b i 1 (winnerFlips g p x b i ((bestKey keys).map (fun q => q.1))).length 0 p))).2 d := by
  have hgo : (x.dense && denseInPhase g p x && (runEntry g).tournament && decide (i < x.reps.length) && repQuiet g b i &&
      decide ((repAt x i).rounds < x.n) && roomFor g p x (List.range x.n) 1 && !spanWaits d x) = true := by
    rw [hdense, hphase, ht, decide_eq_true hi, hquiet, decide_eq_true hrounds, hroom, hwait]
    rfl
  subst hkeys
  unfold tournamentRound
  rw [hr]
  dsimp only
  rw [hx]
  exact if_pos hgo

theorem tournamentRound_winner {k : Nat} {v : Int} {p1 : Problem} (hb : bestKey keys = some (k, v))
    (hp : p1 = modRep b i (fun y => { y with rounds := y.rounds + 1 })
      (countMoves b i 1 (if (bestKey keys).isSome then 1 else 0) 0 p)) :
    tournamentRound c b i d =
      setRunProblem c (takeMove [newFlip g p x b i k (!(repAt x i).spins.getD k false) 0] g p1).1
        (setSpin b i k (!(repAt x i).spins.getD k false) p1) d := by
  rw [tournamentRound_quiet hr hx hdense hphase hi hquiet hwait ht hrounds hroom hkeys, hp, hb]
  rfl

theorem tournamentRound_none {p1 : Problem} (hb : bestKey keys = none)
    (hp : p1 = modRep b i (fun y => { y with rounds := y.rounds + 1 })
      (countMoves b i 1 (if (bestKey keys).isSome then 1 else 0) 0 p)) :
    tournamentRound c b i d = setRunProblem c g p1 d := by
  rw [tournamentRound_quiet hr hx hdense hphase hi hquiet hwait ht hrounds hroom hkeys, hp, hb]
  simp only [Option.map_none, winnerFlips, takeMove_nil]
  rfl

end

end

/-- Settles O39: the three starts of a gallery, the three ends of a scan round, and a tournament with and without a
winner. -/
theorem phasesAndRoundsDecide : Obligations.PhasesAndRoundsDecide := by
  refine fun s c g p hr => ⟨fun h k hg hw => ⟨fun hs he => next_dev (phaseStart_sweep hr hg hw hs he),
      fun hs hn => next_dev (phaseStart_joins hr hg hw hs hn), fun hd hn => next_dev (phaseStart_next hr hg hw hd hn)⟩,
    fun b i x hx hdense hphase hi hquiet hwait => ⟨fun ht => ⟨fun k gr hn hroom => ?_, fun hn hl hroom => ?_, fun hn hl => ?_⟩,
      fun keys p1 ht hrounds hroom hkeys hp => ⟨fun k v hb => ?_, fun hb => ?_⟩⟩⟩
  · exact next_dev (scanRound_group hr hx hdense hphase hi hquiet hwait ht hn hroom)
  · exact next_dev (scanRound_window hr hx hdense hphase hi hquiet hwait ht hn hl hroom)
  · exact next_dev (scanRound_over hr hx hdense hphase hi hquiet hwait ht hn hl)
  · exact next_dev (tournamentRound_winner hr hx hdense hphase hi hquiet hwait ht hrounds hroom hkeys hb hp)
  · exact next_dev (tournamentRound_none hr hx hdense hphase hi hquiet hwait ht hrounds hroom hkeys hb hp)

end Sys2Proof.Proofs
end

section
/-! PROOFS. R86, R87, R93 to R95, R99, R116, R194, R197: clusters, the flip bus, the sweep's end, and what lets a run go on. -/

namespace Sys2Proof.Proofs

open Sys2Proof Sys2Proof.Machine Sys2Proof.Laws

/-- A fold in which no step changes the start ends there. -/
theorem foldl_eq_start {α β : Type} {f : β → α → β} {b : β} {l : List α} (h : ∀ a ∈ l, f b a = b) : l.foldl f b = b := by
  induction l with
  | nil => rfl
  | cons a t ih =>
    rw [List.foldl_cons, h a List.mem_cons_self]
    exact ih (fun y hy => h y (List.mem_cons_of_mem a hy))

/- Cluster records. -/

theorem clusterDecision_due {c b f : Nat} {g : Run} {p : Problem} {x : PBlock} {y : FStream} {r : Bytes} {d d' : Dev}
    (hr : runOf d c = some (g, p)) (hx : p.blocks[b]? = some x) (hy : clusterStream d c b = some (f, y))
    (hlast : g.phase + 1 = sweepPhases g p) (hdone : phaseDone g p = true)
    (hleft : (clustersDone g b).1 < clusterQuota d c g b) (hturn : clusterTurn d c g p b = true)
    (harr : epochOf g < y.arrived) (hwait : spanWaits d x = false)
    (hread : devRead (slotAddr y (epochOf g) + (clustersDone g b).2 * clusterStride y) (clusterStride y) d = .ok r d') :
    clusterDecision c b d = decideCluster c b (clustersDone g b).1 y.stamp r g p x d' := by
  have hgo : (decide (g.phase + 1 = sweepPhases g p) && phaseDone g p &&
      decide ((clustersDone g b).1 < clusterQuota d c g b) && clusterTurn d c g p b && decide (epochOf g < y.arrived) &&
      !spanWaits d x) = true := by
    rw [decide_eq_true hlast, hdone, decide_eq_true hleft, hturn, decide_eq_true harr, hwait]
    rfl
  unfold clusterDecision
  rw [hr]
  dsimp only
  rw [hx, hy]
  dsimp only
  rw [if_pos hgo, hread]

/- The flip bus. -/

theorem eraseDups_map_isEmpty {α : Type} {f : α → Nat} {l : List α} (h : l ≠ []) : (l.map f).eraseDups.isEmpty = false := by
  cases l with
  | nil => exact absurd rfl h
  | cons a t =>
    rw [List.map_cons, List.eraseDups_cons]
    rfl

theorem flipSlotGrant_cycle {h : Nat} {l : List BusFlip} {out : List (List BusFlip)} {order : List Nat} {s d t : Dev}
    (hl : l = busFlips s h) (hne : l ≠ []) (hs : busStands s h = false)
    (ho : order = portOrder (s.flipTurn.getD h 643) (l.map (fun b => b.port)).eraseDups)
    (hout : out = (order.take 16).map (fun p => sends (l.filter (fun b => b.port == p))))
    (hd : d = ((out.flatten.map (fun b => b.ctx)).eraseDups).foldl (fun d c => afterCycle c d)
      (out.flatten.foldl (fun d b => carryFlip h b d) s))
    (ht : t = modHallCounters h (fun k =>
      { k with flipSlots := satAdd 64 k.flipSlots (order.take 16).length
               flipWait := satAdd 64 k.flipWait (ofBool (decide (16 < order.length))) }) d) :
    flipSlotGrant h s = { t with
      flipTurn := setAt h ((order.take 16).getLast?.getD 643) t.flipTurn
      busSlots := setAt h (out.map slotOf) t.busSlots } := by
  have hgo : ¬ ((l.map (fun b => b.port)).eraseDups.isEmpty || busStands s h) = true := by
    rw [eraseDups_map_isEmpty hne, hs]
    decide
  unfold flipSlotGrant
  dsimp only
  rw [← hl, if_neg hgo, ← ho, ← hout, ← hd, ← ht]

/- The sweep's end. -/

/-- The sweep ended is an epoch's last, or the schedule's. -/
def endsEpoch (g : Run) : Bool := g.sweep % g.desc.epochSweeps == 0 || scheduleOver g

theorem endsEpoch_iff {g : Run} : endsEpoch g = true ↔ g.sweep % g.desc.epochSweeps = 0 ∨ scheduleOver g = true := by
  rw [endsEpoch, Bool.or_eq_true, beq_iff_eq]

/-- The run once the sweep is counted: an epoch's end leaves no proposals decided. -/
def epochClosed (g : Run) : Run :=
  if endsEpoch g then { g with clusters := g.clusters.map (fun z => (z.1, 0, 0)) } else g

/-- What follows a sweep's actions on the run `g`: a stop, an epoch's stages, or the staging alone (R99). -/
def sweepFollows (c : Nat) (g : Run) (epoch : Bool) (d : Dev) : Dev :=
  match ctxOf d c with
  | some x =>
    if (x.run.bind (fun g => g.stop)).isSome then resumeRun c d
    else if epoch then advance c (epochStages x g) (freeRecords c g d)
    else advance c [.staged] d
  | none => d

section
variable {c : Nat} {g g' k : Run} {p p' : Problem} {x : Ctx} {d d1 : Dev} (hr : runOf d c = some (g, p))
  (hdue : sweepDue d c g p = true) (hf : g.flips = []) (ha : sweepActions g p = (g', p'))
  (hk : k = if g'.sweep % g'.desc.epochSweeps = 0 ∨ scheduleOver g' = true then
    { g' with clusters := g'.clusters.map (fun z => (z.1, 0, 0)) } else g')
  (hd : d1 = readStorage c p' (opSteps k.q 1 (setRunProblem c k p' d))) (hx : ctxOf d1 c = some x)
include hr hdue hf ha hk hd hx

/-- A sweep whose flips are carried ends (R99). -/
theorem closeSweep_due :
    closeSweep c d =
      if (x.run.bind (fun g => g.stop)).isSome then resumeRun c d1
      else if endsEpoch g' then advance c (epochStages x k) (freeRecords c k d1)
      else advance c [.staged] d1 := by
  have hgo : (sweepDue d c g p && g.flips.isEmpty) = true := by
    rw [hdue, hf]
    rfl
  have hk' : k = epochClosed g' := by simp only [hk, epochClosed, endsEpoch_iff]
  have hclose : closeSweep c d = sweepFollows c (epochClosed g') (endsEpoch g')
      (readStorage c p' (opSteps (epochClosed g').q 1 (setRunProblem c (epochClosed g') p' d))) := by
    unfold closeSweep
    rw [hr]
    dsimp only
    rw [if_pos hgo, ha]
    rfl
  rw [hclose, ← hk', ← hd, sweepFollows, hx]

theorem closeSweep_within (hstop : x.run.bind (fun g => g.stop) = none)
    (he : ¬(g'.sweep % g'.desc.epochSweeps = 0 ∨ scheduleOver g' = true)) :
    closeSweep c d = advance c [.staged] d1 := by
  rw [closeSweep_due hr hdue hf ha hk hd hx, if_neg (by rw [hstop]; decide), if_neg (mt endsEpoch_iff.1 he)]

theorem closeSweep_epoch (hstop : x.run.bind (fun g => g.stop) = none)
    (he : g'.sweep % g'.desc.epochSweeps = 0 ∨ scheduleOver g' = true) :
    closeSweep c d = advance c (epochStages x k) (freeRecords c k d1) := by
  rw [closeSweep_due hr hdue hf ha hk hd hx, if_neg (by rw [hstop]; decide), if_pos (endsEpoch_iff.2 he)]

theorem closeSweep_stopped (hstop : x.run.bind (fun g => g.stop) ≠ none) : closeSweep c d = resumeRun c d1 := by
  rw [closeSweep_due hr hdue hf ha hk hd hx, if_pos (Option.isSome_iff_ne_none.2 hstop)]

end

theorem sweepEnd_due {c : Nat} {g : Run} {p : Problem} {d d' : Dev} (hr : runOf d c = some (g, p))
    (hdue : sweepDue d c g p = true) (hd : d' = carryLast c (cyclesDue d) d) : sweepEnd c d = closeSweep c d' := by
  subst hd
  unfold sweepEnd
  rw [hr]
  exact if_pos hdue

/- Staged trace entries. -/

theorem drainStaging_entry {c : Nat} {g : Run} {i : TraceItem} {l : List TraceItem} {d d' : Dev} (he : i.entry = true)
    (hw : wr i.addr i.data { d with actor := some c } = .ok () d') :
    drainStaging c g (i :: l) d = drainStaging c g l
      (modCtx c (fun x => { x with traceRings := countEntry g i.addr x.traceRings }) { d' with actor := none }) := by
  have hstaged : stagedWrite i = wr i.addr i.data := if_pos (by rw [he]; rfl)
  have htry : tryAct c (stagedWrite i) d = some ({ d' with actor := none }, none) := by
    rw [hstaged, tryAct, hw]
  rw [drainStaging, htry]
  simp only [he, if_true]

/- Space in a decision ring. -/

theorem writeLeft_single {ch c : Nat} {k k' : Decision} {s d : Dev} (hh : s.heldOut = [(c, k)]) (hk : k.channel = ch)
    (hw : writeHeld k { s with actor := some c } = .ok k' d) (hn : k'.held = none) (hd : d.heldOut = [(c, k)]) :
    writeLeft ch s = { d with actor := none, heldOut := [] } := by
  have hgone : d.heldOut.erase (c, k) = [] := by simp [hd]
  unfold writeLeft
  rw [hh, List.foldl_cons, List.foldl_nil]
  dsimp only
  rw [if_pos hk, hw]
  dsimp only
  rw [if_pos (by rw [hn]; rfl), hgone]

/-- With no run in progress, only the records that ended runs left are written. -/
theorem ringSpace_idle {ch : Nat} {s d : Dev} (hw : writeLeft ch s = d) (hr : ∀ y ∈ d.ctxs, y.2.run = none) :
    ringSpace ch s = d := by
  unfold ringSpace
  rw [hw]
  refine foldl_eq_start (fun y hy => ?_)
  rw [hr y hy]
  rfl

/-- Settles O40: each event that carries a run on. -/
theorem sweepsGoOn : Obligations.SweepsGoOn := by
  refine ⟨fun s c b g p x f y r d hr hx hy hlast hdone hleft hturn harr hwait hread => ?_,
    fun s h l out order d t hl hne hs ho hout hd ht => next_dev (flipSlotGrant_cycle hl hne hs ho hout hd ht),
    fun s c g0 g g' k p0 p p' d d1 x hr0 hdue0 hcarry hr hdue hf ha hk hd hx => ?_,
    fun s c x g i l d hx hg hst he hw => ?_, fun s ch c k k' d hh hk hw hn hd hr => ?_, fun s c => rfl⟩
  · exact next_dev (clusterDecision_due hr hx hy hlast hdone hleft hturn harr hwait hread)
  · have hend := sweepEnd_due hr0 hdue0 hcarry
    refine ⟨fun hstop he => ?_, fun hstop he => ?_, fun hstop => ?_⟩
    · exact next_mem (congrArg (resumeRun c.val) (hend.trans (closeSweep_within hr hdue hf ha hk hd hx hstop he)))
    · exact next_mem (congrArg (resumeRun c.val) (hend.trans (closeSweep_epoch hr hdue hf ha hk hd hx hstop he)))
    · exact next_mem (congrArg (resumeRun c.val) (hend.trans (closeSweep_stopped hr hdue hf ha hk hd hx hstop)))
  · have hrun : (ctxOf s.dev c.val).bind (fun x => x.run) = some g := by rw [hx, Option.bind_some, hg]
    refine next_mem ?_
    dsimp only
    rw [hrun]
    dsimp only
    rw [hst, drainStaging_entry he hw]
  · exact next_mem (ringSpace_idle (writeLeft_single hh hk hw hn hd) hr)

end Sys2Proof.Proofs
end

section
/-! PROOFS. R130, R140 to R145, R151 to R158, R164, R330: the tensor ops and the ops of the vector units. -/

namespace Sys2Proof.Proofs

open Sys2Proof Sys2Proof.Machine Sys2Proof.Laws

/-- No item of a list fails a test for something to be there. -/
theorem findIdx?_isNone_none {α β : Type} {f : α → Option β} {l : List α} (h : ∀ a ∈ l, (f a).isSome = true) :
    l.findIdx? (fun a => (f a).isNone) = none := by
  rw [List.findIdx?_eq_none_iff]
  exact fun a ha => Option.isNone_eq_false_iff.2 (h a ha)

/- MATMUL and BATCHED_MATMUL. -/

/-- Tiles that an op begins, or that are all there OPEN. -/
theorem openTiles_found {start : Bool} {x : Ctx} {g : Grid} {fmt : TileFmt}
    (h : start = true ∨ ∀ k ∈ gridPlaces g, (openTile x g fmt k).isSome = true) :
    (if start then none else (gridPlaces g).findIdx? (fun k => (openTile x g fmt k).isNone)) = none := by
  cases start with
  | true => rfl
  | false => exact findIdx?_isNone_none (h.resolve_left Bool.false_ne_true)

theorem matmulRun_ok {batched : Bool} {env : OpEnv} {u : TileUser} {h out : Bytes} {getOut : Act Bytes} {c : Ctx}
    {m : MatmulReq} {plan : TilePlan} {its : List (List Tile)} {d d1 d2 d3 : Dev}
    (hpre : matmulPre batched env h getOut d = .ok (c, m, out) d1) (hplan : plan = tilePlan d1 env.ctx c u)
    (htiles : m.start = true ∨ ∀ k ∈ gridPlaces m.grid, (openTile plan.ctx m.grid m.fmt k).isSome = true)
    (hgo : treadsGo m.grid.hall (((gridPlaces m.grid).map (fun k => k.tread)).eraseDups) d1 = .ok () d1)
    (hheld : granulesHeld d1 env.ctx plan c ((gridPlaces m.grid).map (fun k =>
      ⟨m.grid.hall, k.tread, k.pos * tileGranules m.grid.h m.grid.w m.fmt, tileGranules m.grid.h m.grid.w m.fmt⟩)) = false)
    (hits : (List.range m.grid.batch).mapM (itemTiles env c m u out) d1 = .ok its d2)
    (hstage : stageFetch m.grid.hall (u32 h 0x48) (farTreads m) d2 = .ok () d3) :
    matmulRun batched env u h getOut d =
      .ok (if m.ends then .running .tiles (gridTiles m.grid * ceilDiv m.k 1024)
        else .done { detail := 0, longRed := (its.flatMap id).any tileLong } (gridTiles m.grid * ceilDiv m.k 1024))
        (tilesSummed env.ctx m u (its.flatMap id) d3) := by
  subst hplan
  unfold matmulRun
  rw [bind_ok hpre]
  dsimp only
  rw [bind_ok get_ok, openTiles_found htiles]
  dsimp only
  rw [bind_ok hgo, if_neg (by rw [hheld]; decide), bind_ok hits, bind_ok hstage, bind_ok change_ok]
  cases m.ends <;> rfl

/- DRAIN. -/

theorem drainRun_ok {env : OpEnv} {u : TileUser} {h out : Bytes} {getOut : Act Bytes} {c : Ctx} {g : Grid} {plan : TilePlan}
    {ts : List (GridTile × Tile)} {d d1 : Dev} (hg : g = drainGrid h) (hpre : drainPre env h getOut d = .ok (c, out) d1)
    (hplan : plan = tilePlan d1 env.ctx c u) (htiles : ∀ k ∈ gridPlaces g, (drainTile plan.ctx g k).isSome = true)
    (hgo : treadsGo g.hall (((gridPlaces g).map (fun k => k.tread)).eraseDups) d1 = .ok () d1)
    (hheld : granulesHeld d1 env.ctx plan c ((gridPlaces g).filterMap (fun k => (drainTile plan.ctx g k).map granulesOf)) =
      false)
    (hts : ts = (gridPlaces g).filterMap (fun k => (drainTile c g k).map (fun t => (k, t)))) :
    drainRun env u h getOut d =
      if bit (u8 h 2) 0 then
        .ok (.done { detail := 0 } (gridTiles g))
          (modCtx env.ctx (fun y => { y with tiles := y.tiles.filter (fun t => !ts.any (fun z => z.2 == t)) }) d1)
      else .ok (.running .tiles 0) (takeTreads env.ctx g.hall ((gridPlaces g).map (fun k => k.tread))
        (modCtx env.ctx (drainAsk u g out (u64 h 0x20) ts) d1)) := by
  subst hg hplan hts
  unfold drainRun
  rw [bind_ok hpre]
  dsimp only
  rw [bind_ok get_ok, findIdx?_isNone_none htiles]
  dsimp only
  rw [bind_ok hgo, if_neg (by rw [hheld]; decide)]
  split <;> rfl

/-- Settles O41: MATMUL and BATCHED_MATMUL with and without END, then DRAIN with and without DISCARD. -/
theorem tilesAreSummedAndDrained : Obligations.TilesAreSummedAndDrained := by
  refine ⟨fun s q e o r x h out d d0 d1 d2 d3 c env m u plan its batched henv hu hop hd hpre hplan htiles hgo hheld hits
      hstage => ?_,
    fun s q e o r x h out d d0 d1 c env g u plan ts henv hu hop hd hg hpre hplan htiles hgo hheld hts => ?_⟩
  · subst henv hu
    have hrun := matmulRun_ok hpre hplan htiles hgo hheld hits hstage
    cases he : m.ends <;> rw [he] at hrun <;> cases batched
    · exact opRow_done hop ((bind_ok hd).trans hrun)
    · exact opRow_done hop ((bind_ok hd).trans hrun)
    · exact opRow_running hop ((bind_ok hd).trans hrun)
    · exact opRow_running hop ((bind_ok hd).trans hrun)
  · subst henv hu
    have hrun := drainRun_ok hg hpre hplan htiles hgo hheld hts
    split at hrun
    next hdiscard =>
      rw [if_pos hdiscard]
      exact opRow_done hop ((bind_ok hd).trans hrun)
    next hdiscard =>
      rw [if_neg hdiscard]
      exact opRow_running hop ((bind_ok hd).trans hrun)

/- REDUCE. -/

section
variable {env : OpEnv} {h : Bytes} {treads : List Nat} {d0 d1 d2 d3 d4 d5 : Dev}

theorem reduceRun_ok {l : List (List NumVal)} {res : List NumVal} (hpre : reducePre env h d0 = .ok () d1)
    (ht : treads = itemTreads (u16 h 6) (u16 h 8) (reduceOuts h)) (hgo : treadsGo (u8 h 5) treads d1 = .ok () d1)
    (hl : readRows env (reduceIn h) (u32 h 0x10) 0 (u32 h 0xC) d1 = .ok l d2)
    (hs : stageFetch (u8 h 5) (u32 h 0x28) (treads.filter (fun t => reduceFar h t)) d2 = .ok () d3)
    (hres : res = (if bit (u8 h 2) 3 then l else (List.range (u32 h 0x10)).map (column l)).map
      (reduceNum (bits (u8 h 2) 0 3)))
    (hw : writeCodes (u64 h 0x20) (bits (u8 h 4) 4 4) (res.map (encodeNum (bits (u8 h 4) 4 4) false)) d3 = .ok () d4) :
    reduceRun env h d0 = .ok (.done
      { detail := (countAll res).detail
        longRed := decide (bits (u8 h 2) 0 3 ≤ 1) && !fmtIsInt (bits (u8 h 4) 0 4) &&
          decide (65536 < (if bit (u8 h 2) 3 then u32 h 0x10 else u32 h 0xC)) }
      (transferSteps (packedBytes (bits (u8 h 4) 4 4) (reduceOuts h)))) d4 := by
  subst ht hres
  unfold reduceRun
  rw [bind_ok hpre, bind_ok hgo, bind_ok hl, bind_ok hs, bind_ok hw]
  rfl

/- ELEMENTWISE. -/

theorem elementwiseRun_ok {as bs : Bytes} {res : List NumVal} (hpre : elementwisePre env h d0 = .ok () d1)
    (ht : treads = itemTreads (u16 h 8) (u16 h 0xA) (u32 h 0xC)) (hgo : treadsGo (u8 h 6) treads d1 = .ok () d1)
    (ha : rd env (u64 h 0x10) (u32 h 0xC * elemSize (bits (u8 h 4) 0 4)) d1 = .ok as d2)
    (hb : (if eUsesB h then rd env (u64 h 0x18) ((if eScalar h then 1 else u32 h 0xC) * elemSize (bits (u8 h 4) 4 4))
      else pure []) d2 = .ok bs d3)
    (hs : stageFetch (u8 h 6) (u32 h 0x30) (treads.filter (elementFar h)) d3 = .ok () d4)
    (hres : res = (List.range (u32 h 0xC)).map (fun i =>
      let a := elemAt (bits (u8 h 4) 0 4) as i
      let b := if eUsesB h then elemAt (bits (u8 h 4) 4 4) bs (if eScalar h then 0 else i) else .i 0
      if eInteger h then intElem (eOp h) a b
      else .f (floatElem (eOp h) (u8 h 7) (f32Of (u32 h 0x28)) (f32Of (u32 h 0x2C)) (toF32 a) (toF32 b))))
    (hw : writeCodes (u64 h 0x20) (bits (u8 h 5) 0 4) (res.map (encodeNum (bits (u8 h 5) 0 4) false)) d4 = .ok () d5) :
    elementwiseRun env h d0 = .ok (.done { detail := (countAll res).detail }
      (transferSteps (packedBytes (bits (u8 h 5) 0 4) (u32 h 0xC)))) d5 := by
  subst ht hres
  unfold elementwiseRun
  rw [bind_ok hpre]
  dsimp only
  rw [bind_ok hgo, bind_ok ha, ite_then, bind_ok hb, bind_ok hs, bind_ok hw]
  rfl

/- CONVERT, GATHER and SCATTER. -/

/-- The host read of CONVERT, in the two forms that the model and the statement give it. -/
theorem readThenNone {a n : Nat} {b : Bytes} {u v : Dev}
    (hr : (if isHost a then
        (fun d => match hostRead env a n d with
          | .ok b d => .ok (b, none) d
          | .error e d => .error e d)
       else readPart a n) u = .ok (b, none) v) :
    (if isHost a then do
        let b ← hostRead env a n
        pure (b, none)
       else readPart a n) u = .ok (b, none) v := by
  by_cases ha : isHost a = true
  · have h1 := (congrFun (if_pos ha) u).symm.trans hr
    refine (congrFun (if_pos ha) u).trans ?_
    cases hd : hostRead env a n u with
    | ok b1 v1 =>
      rw [hd] at h1
      exact (bind_ok hd).trans h1
    | error er v1 =>
      rw [hd] at h1
      cases h1
  · exact (congrFun (if_neg ha) u).trans ((congrFun (if_neg ha) u).symm.trans hr)

theorem convertRun_ok {bs : Bytes} {l : List NumVal} (hpre : movePre .convert env h d0 = .ok () d1)
    (ht : treads = (List.range (u16 h 8)).map (fun j => u16 h 6 + j)) (hgo : treadsGo (u8 h 4) treads d1 = .ok () d1)
    (hr : (if isHost (u64 h 0x18) then
        (fun d => match hostRead env (u64 h 0x18) (packedBytes (bits (u8 h 2) 0 4) (u32 h 0xC)) d with
          | .ok b d => .ok (b, none) d
          | .error e d => .error e d)
       else readPart (u64 h 0x18) (packedBytes (bits (u8 h 2) 0 4) (u32 h 0xC))) d1 = .ok (bs, none) d2)
    (hs : moveStage .convert h d2 = .ok () d3)
    (hl : l = (List.range (u32 h 0xC)).map (elemAt (bits (u8 h 2) 0 4) bs))
    (hw : writeCodes (u64 h 0x20) (bits (u8 h 2) 4 4) (l.map (encodeNum (bits (u8 h 2) 4 4) (bit (u8 h 3) 0))) d3 =
      .ok () d4) :
    moveRun .convert env h d0 = .ok (.done { detail := (countAll l).detail }
      (transferSteps (packedBytes (bits (u8 h 2) 4 4) (u32 h 0xC)))) d4 := by
  subst ht hl
  unfold moveRun
  rw [bind_ok hpre, bind_ok hgo]
  dsimp only [moveRegions]
  rw [ite_then]
  refine (bind_ok (readThenNone hr)).trans ?_
  dsimp only
  rw [bind_ok hs]
  exact bind_ok hw

/-- The run of GATHER and SCATTER, once checked. -/
theorem moveRun_ok {op : MoveOp} {ib : Bytes} {idx : List Nat} {bad : Nat} (hop : op ≠ .convert)
    (hpre : movePre op env h d0 = .ok () d1) (ht : treads = (List.range (u16 h 8)).map (fun j => u16 h 6 + j))
    (hgo : treadsGo (u8 h 4) treads d1 = .ok () d1) (hr : rd env (u64 h 0x28) (4 * u32 h 0xC) d1 = .ok ib d2)
    (hidx : idx = (List.range (u32 h 0xC)).map (fun i => u32 ib (4 * i)))
    (hc : (moveList op h idx).forM (moveCheck (u32 h 0x10)) d2 = .ok () d3) (hs : moveStage op h d3 = .ok () d4)
    (hm : (moveList op h idx).forM (moveDo env (u32 h 0x10)) d4 = .ok () d5)
    (hbad : bad = (idx.filter (fun i => decide (u32 h 0x14 ≤ i))).length) :
    moveRun op env h d0 = .ok (.done (if bad = 0 then { detail := 0 } else { status := stPartial, detail := min bad 0xFFFFFFFF })
      (transferSteps (u32 h 0xC * u32 h 0x10))) d5 := by
  subst ht hidx hbad
  unfold moveRun
  rw [bind_ok hpre, bind_ok hgo]
  cases op with
  | convert => exact absurd rfl hop
  | gather | scatter =>
    dsimp only
    rw [bind_ok hr, bind_ok hc, bind_ok hs, bind_ok hm]
    split <;> rfl

end

/-- Settles O42: each op by its run. -/
theorem vectorOpsWriteTheirResults : Obligations.VectorOpsWriteTheirResults := by
  intro s q e o r x h d d0 d1 d2 d3 d4 env treads henv hd
  subst henv
  refine ⟨fun l res hop hpre ht hgo hl hs hres hw => ?_, fun as bs res d5 hop hpre ht hgo ha hb hs hres hw => ?_,
    fun bs l hop hpre ht hgo hr hs hl hw => ?_,
    fun scatter op ib idx bad d5 hsc hop hpre ht hgo hr hidx hc hs hm hbad => ?_⟩
  · exact opRow_done hop ((bind_ok hd).trans (reduceRun_ok hpre ht hgo hl hs hres hw))
  · exact opRow_done hop ((bind_ok hd).trans (elementwiseRun_ok hpre ht hgo ha hb hs hres hw))
  · exact opRow_done hop ((bind_ok hd).trans (convertRun_ok hpre ht hgo hr hs hl hw))
  · subst hsc
    cases scatter with
    | true => exact opRow_done hop ((bind_ok hd).trans (moveRun_ok (by decide) hpre ht hgo hr hidx hc hs hm hbad))
    | false => exact opRow_done hop ((bind_ok hd).trans (moveRun_ok (by decide) hpre ht hgo hr hidx hc hs hm hbad))

end Sys2Proof.Proofs
end

section
/-! PROOFS. Tiles on their way out and context switches (R154 to R157, R165 to R167). -/

namespace Sys2Proof.Proofs
open Sys2Proof.Machine

/-- Two changes that agree on a context change it alike. -/
theorem modCtx_congr {c : Nat} {x : Ctx} {f g : Ctx → Ctx} {d : Dev} (h : ctxOf d c = some x) (hfg : f x = g x) :
    modCtx c f d = modCtx c g d := by
  rw [modCtx_of_some h, modCtx_of_some h, hfg]

/- END_REQUEST and TILE_SWAP. -/

/-- What END_REQUEST makes of the tile `y`. -/
def tileAsked (h t k : Nat) (y : Tile) (z : Ctx) : Ctx :=
  if landingFree z h t k (tileSize y) then swapTile y z
  else { z with tiles := z.tiles.map (fun w => if w == y then { w with state := .swapPending } else w) }

section
variable {c h t k : Nat} {x : Ctx} {y : Tile} {d : Dev}

theorem endRequest_of_tile (hx : ctxOf d c = some x) (ht : onTread d c h t = true)
    (hy : tileAt x h t k .opened = some y) (he : y.endReq.isSome = true) :
    endRequest c h t k d = trySwitch h t (drainNext c h t (modCtx c (tileAsked h t k y) d)) := by
  have hn : y.endReq.isNone = false := by
    rw [← Option.not_isSome, he]; rfl
  unfold endRequest
  rw [if_neg (by simp [ht]), modCtx_congr hx (g := tileAsked h t k y)]
  simp only [hy, hn, Bool.false_eq_true, if_false, tileAsked]

theorem tileSwap_of_tile (hx : ctxOf d c = some x) (ht : onTread d c h t = true)
    (hy : tileAt x h t k .swapPending = some y) (hl : landingFree x h t k (tileSize y) = true) :
    tileSwap c h t k d = drainNext c h t (modCtx c (swapTile y) d) := by
  unfold tileSwap
  rw [if_neg (by simp [ht]), modCtx_congr hx (g := swapTile y)]
  simp only [hy, hl, if_true]

end

/- TILE_DRAIN_END. -/

theorem tileDrainEnd_ok {c h t : Nat} {x : Ctx} {y : Tile} {o : TileOut} {u : TileUser} {s d d1 : Dev} {env : OpEnv}
    (hx : ctxOf s c = some x)
    (hy : x.tiles.find? (fun k => k.state == .draining && k.hall == h && k.tread == t) = some y)
    (ht : onTread s c h t = true) (ho : y.endReq = some o) (hu : y.user = some u)
    (henv : env = { q := .kernel 0, idx := 0, off := 0, ctx := c, drawn := none, hostOk := true })
    (hd : drainTileOut env y o { s with actor := some c } = .ok () d)
    (h1 : d1 = trySwitch h t (drainNext c h t (modCtx c (fun z =>
        { addCount (some u) (tileCount y o) z with
          tiles := (addCount (some u) (tileCount y o) z).tiles.filter (fun w => w != y) }) (tileStep (some u) d)))) :
    tileDrainEnd c h t s = settleTiles c u { d1 with actor := none } := by
  subst henv h1
  unfold tileDrainEnd
  simp only [hx, hy]
  rw [if_neg (by simp [ht])]
  simp only [ho, hu, EStateM.run, hd]

/- CONTEXT_SWITCH. -/

/-- The tread waits for the switch to a context. -/
def switchAsked (c h t : Nat) (d : Dev) : Dev := { d with switches := tabSet (640 * h + t) c d.switches }

section
variable {c h t k : Nat} {x y : Ctx} {s : Dev}

theorem contextSwitch_asks (hx : ctxOf s c = some x) (hg : usesGallery x h (t / 32) = true)
    (ht : onTread s c h t = false) : contextSwitch h t c s = trySwitch h t (switchAsked c h t s) := by
  unfold contextSwitch
  simp only [hx]
  rw [if_neg (by simp [hg, ht])]
  rfl

/-- A switch to a context that exists, by what the tread holds now. -/
theorem trySwitch_asked (hx : ctxOf s c = some x) :
    trySwitch h t (switchAsked c h t s) =
      (match (tabGet? (640 * h + t) s.treadCtx).bind (fun o => ctxOf s o) with
      | none => arrive c h t (switchAsked c h t s)
      | some y =>
        if treadBusy y h t then switchAsked c h t s
        else if y.tiles.all (fun k => !(k.hall == h && k.tread == t)) || y.saveBytes == 0 then
          arrive c h t (switchAsked c h t s)
        else arrive c h t (freshMark (.span y.saveBase y.saveBytes) (switchAsked c h t s))) := by
  have hs : tabGet? (640 * h + t) (switchAsked c h t s).switches = some c := tabGet?_tabSet_same ..
  have hc : ctxOf (switchAsked c h t s) c = some x := hx
  unfold trySwitch
  simp only [hs, hc, Option.isNone_some, Bool.false_eq_true, if_false]
  rfl

theorem trySwitch_empty (hx : ctxOf s c = some x) (hn : tabGet? (640 * h + t) s.treadCtx = none) :
    trySwitch h t (switchAsked c h t s) = arrive c h t (switchAsked c h t s) := by
  rw [trySwitch_asked hx, hn]
  rfl

/-- A switch from the context `y`, which the tread holds. -/
theorem trySwitch_from (hx : ctxOf s c = some x) (hk : tabGet? (640 * h + t) s.treadCtx = some k)
    (hy : ctxOf s k = some y) :
    trySwitch h t (switchAsked c h t s) =
      if treadBusy y h t then switchAsked c h t s
      else if y.tiles.all (fun k => !(k.hall == h && k.tread == t)) || y.saveBytes == 0 then
        arrive c h t (switchAsked c h t s)
      else arrive c h t (freshMark (.span y.saveBase y.saveBytes) (switchAsked c h t s)) := by
  rw [trySwitch_asked hx, hk, Option.bind_some, hy]

end

/-- A tile on the tread that leaves has its place in the save area. -/
theorem tilesStay_false {y : Ctx} {h t : Nat} (hz : ∃ z ∈ y.tiles, z.hall = h ∧ z.tread = t) (hs : y.saveBytes ≠ 0) :
    ¬(y.tiles.all (fun k => !(k.hall == h && k.tread == t)) || y.saveBytes == 0) = true := by
  obtain ⟨z, hm, hh, ht⟩ := hz
  intro hstay
  have hall := (Bool.or_eq_true_iff.1 hstay).resolve_right (fun h => hs (beq_iff_eq.1 h))
  have hz := List.all_eq_true.1 hall z hm
  simp [hh, ht] at hz

/-- Settles O43: each request by what it makes of the tread. -/
theorem tilesSwapDrainAndSwitch : Obligations.TilesSwapDrainAndSwitch := by
  refine ⟨fun s c h t k x y hx ht => ⟨fun hy he => ?_, fun hy hl => ?_⟩,
    fun s c h t x y o u d d1 env hx hy ht ho hu henv hd h1 => ?_,
    fun s h t c x d hx hg ht hd => ?_⟩
  · exact next_dev (endRequest_of_tile hx ht hy he)
  · exact next_dev (tileSwap_of_tile hx ht hy hl)
  · exact next_mem (tileDrainEnd_ok hx hy ht ho hu henv hd h1)
  · have hd' : d = switchAsked c.val h.val t.val s.dev := hd
    rw [hd']
    have hgo := contextSwitch_asks hx hg ht
    refine ⟨fun hn => next_dev (hgo.trans (trySwitch_empty hx hn)), fun k y hk hy => ?_⟩
    have hfrom := hgo.trans (trySwitch_from hx hk hy)
    refine ⟨fun hb => next_dev (hfrom.trans (if_pos hb)), fun hb => ?_⟩
    have hquiet := hfrom.trans (if_neg (by simp [hb]))
    exact ⟨fun ha => next_dev (hquiet.trans (if_pos ha)),
      fun hz hs => next_dev (hquiet.trans (if_neg (tilesStay_false hz hs)))⟩

end Sys2Proof.Proofs
end

section
/-! PROOFS. R171 to R175, R190: flights are built and torn. -/

namespace Sys2Proof.Proofs

open Sys2Proof Sys2Proof.Machine Sys2Proof.Laws

section
variable {env : OpEnv} {x h : Bytes} {c : Ctx} {d d0 d1 d2 d3 d4 d5 d6 : Dev}

/-- No step's stream counts fail Table 7.1. -/
theorem stepCounts_found {steps : List FStep} {streams : List FStream}
    (h : ∀ y ∈ steps.zipIdx, stepCountsOk streams y.1 y.2 = true) :
    steps.zipIdx.find? (fun s => !stepCountsOk streams s.1 s.2) = none := by
  rw [List.find?_eq_none]
  intro y hy
  simp [h y hy]

/-- The flight store has room, and the flight is kept (R175). -/
theorem bodyFlightBuild_ok {raw traw : Bytes} {steps0 steps : List FStep} {streams : List FStream} {pages : Nat}
    (hd : descriptor env x 64 d = .ok h d0) (hc : needCtx env d0 = .ok c d0) (hh : flightHeaderBad h = none)
    (hraw : rd env (u64 h 0x10) (64 * u8 h 4) d0 = .ok raw d1)
    (hsteps : readSteps env c 0 (chunks 64 (u8 h 4) raw) [] d1 = .ok steps0 d2)
    (htraw : rd env (u64 h 0x18) (64 * u8 h 5) d2 = .ok traw d3)
    (hstreams : readStreams env c steps0 0 (chunks 64 (u8 h 5) traw) [] d3 = .ok streams d4)
    (hcounts : ∀ y ∈ steps0.zipIdx, stepCountsOk streams y.1 y.2 = true)
    (hbodies : readBodies env streams 0 (steps0.zip (chunks 64 (u8 h 4) raw)) d4 = .ok steps d5)
    (hproblem : checkProblem c (u32 h 8) steps streams d5 = .ok () d5)
    (hnew : flightOf c (bits (u16 h 2) 0 2) = none) (hexcl : checkExclusive env steps d5 = .ok () d5)
    (hbuf : checkBuffers c [] streams d5 = .ok () d6) (hp : pages = ceilDiv (flightBytes steps streams) 4096)
    (hroom : pages ≤ storePages - pagesUsed d6) :
    bodyFlightBuild env x d = .ok (.done { detail := anyDetail } 1) (modCtx env.ctx (fun y =>
      { y with
        flights := tabSet (bits (u16 h 2) 0 2)
          { problemId := u32 h 8, pages := pages, steps := steps, streams := streams } y.flights }) d6) := by
  subst hp
  unfold bodyFlightBuild
  rw [bind_ok hd, bind_ok hc, hh]
  dsimp only
  rw [bind_ok hraw, bind_ok hsteps, bind_ok htraw, bind_ok hstreams, stepCounts_found hcounts]
  dsimp only
  rw [bind_ok hbodies, bind_ok hproblem, bind_ok (require_true (by rw [hnew]; rfl)), bind_ok hexcl, bind_ok hbuf,
    bind_ok get_ok, bind_ok (require_true (decide_eq_true hroom)), bind_ok change_ok]
  rfl

theorem bodyFlightTear_ok {y : Flight} (hd : descriptor env x 64 d = .ok h d0) (hc : needCtx env d0 = .ok c d0)
    (hv : u16 h 0 = 3) (hy : flightOf c (bits (u16 h 2) 0 2) = some y) (hr : y.run = none) :
    bodyFlightTear env x d = .ok (.done { detail := anyDetail } 1) (modCtx env.ctx (fun z =>
      { z with flights := tabDel (bits (u16 h 2) 0 2) z.flights }) d0) := by
  unfold bodyFlightTear
  rw [bind_ok hd, bind_ok hc, bind_ok (requireFmt_true (by rw [hv]; rfl))]
  rw [hy]
  dsimp only
  rw [bind_ok (require_true (by rw [hr]; rfl)), bind_ok change_ok]
  rfl

end

/-- Settles O44: each op by its body. -/
theorem flightsAreBuiltAndTorn : Obligations.FlightsAreBuiltAndTorn := by
  refine ⟨fun s q e o pages r x h raw traw d d0 d1 d2 d3 d4 d5 d6 c env steps0 steps streams henv hop hd hc hh hraw hsteps
      htraw hstreams hcounts hbodies hproblem hnew hexcl hbuf hp hroom => ?_,
    fun s q e o r x h d d0 c y hop hd hc hv hy hr => ?_⟩
  · subst henv
    exact opRow_done hop (bodyFlightBuild_ok hd (needCtx_ok (env := opEnv q e o) hc) hh hraw hsteps htraw hstreams hcounts
      hbodies hproblem hnew hexcl hbuf hp hroom)
  · exact opRow_done hop (bodyFlightTear_ok hd (needCtx_ok (env := opEnv q e o) hc) hv hy hr)

end Sys2Proof.Proofs
end

section
/-! PROOFS. R25, R176 to R178: firings start, issue their body ops, and end. -/

namespace Sys2Proof.Proofs

open Sys2Proof Sys2Proof.Machine Sys2Proof.Laws

/-- A context's action that succeeds. -/
theorem tryAct_ok {c : Nat} {a : Act Unit} {d d' : Dev} (h : a { d with actor := some c } = .ok () d') :
    tryAct c a d = some ({ d' with actor := none }, none) := by
  rw [tryAct, h]

/-- The flight of a context that exists. -/
theorem flightOf_ctx {d : Dev} {c f : Nat} {x : Ctx} {y : Flight} (hx : ctxOf d c = some x) (hy : flightOf x f = some y) :
    (ctxOf d c).bind (fun x => flightOf x f) = some y := by
  rw [hx, Option.bind_some, hy]

section
variable {c f i : Nat} {s d : Dev} {x : Ctx} {y : Flight} {r : FlightRun} {z : FStep} {g : Firing}
  (hx : ctxOf s c = some x) (hy : flightOf x f = some y)
include hx hy

theorem computeFiring_fires (hz : y.steps[i]? = some z) (hm : mirrorGoes s c = true) (hk : z.kind = fkCompute)
    (hl : runLive y = true) (hf : z.firing = none) (hi : inputsHeld y i = true) (hc : creditsHeld y i = true)
    (hw : stepWaits s z = false) :
    computeFiring c f i s = modFlight c f (fun y =>
      { y with
        streams := y.streams.map (fun t => if t.producer = i then { t with credits := t.credits - 1 } else t)
        steps := modAt i (fun w =>
          { w with firing := some { next := 0, loops := [], ops := [] }, waited := false }) y.steps }) s := by
  unfold computeFiring
  rw [flightOf_ctx hx hy]
  dsimp only
  rw [hz]
  dsimp only
  rw [if_neg (by simp [hk, hl, hf, hi, hm, hw]), if_pos hc]

section
variable (hr : y.run = some r) (hz : y.steps[i]? = some z) (hg : z.firing = some g)
include hr hz hg

/-- The op of the body that may issue, run over its bound descriptor. -/
def bodyIssue (c f i k : Nat) (loops : List (Nat × Nat)) (y : Flight) (r : FlightRun) (z : FStep) (g : Firing)
    (b : BodyEntry) (s : Dev) : EStateM.Result Stop Dev OpRes :=
  bodyOpRun { q := r.q, idx := r.idx, off := 0, ctx := c, drawn := none, hostOk := true } (.body f i g.issued) b.opcode
    (bindEntry z.bindings k (innerIndex z.body loops k) (firingSlot y) b.desc b.out).1
    (bindEntry z.bindings k (innerIndex z.body loops k) (firingSlot y) b.desc b.out).2 { s with actor := some c }

theorem bodyOpIssue_of_run {k : Nat} {loops : List (Nat × Nat)} {b : BodyEntry} {st : Option (Nat × Nat)}
    (ha : firingAt z g = (k, loops)) (hb : z.body[k]? = some b) (hi : bodyMayIssue g b = true)
    (hm : mirrorGoes s c = true)
    (hrun : (∃ o n, bodyIssue c f i k loops y r z g b s = .ok (.done o n) d ∧ st = some (o.status, o.detail)) ∨
      (∃ w n, bodyIssue c f i k loops y r z g b s = .ok (.running w n) d ∧ st = none)) :
    bodyOpIssue c f i s = bodyIssued c f i k loops st { d with actor := none } := by
  unfold bodyOpIssue
  rw [flightOf_ctx hx hy]
  dsimp only
  rw [hr, hz]
  dsimp only
  rw [hg]
  dsimp only
  rw [ha]
  dsimp only
  rw [hb]
  dsimp only
  rw [if_pos (by rw [hi, hm]; rfl)]
  obtain ⟨o, n, hrun, hst⟩ | ⟨w, n, hrun, hst⟩ := hrun <;>
  · unfold bodyIssue at hrun
    rw [hrun, hst]

theorem firingEnd_ok (hm : mirrorGoes s c = true) (hend : z.body.length ≤ (firingAt z g).1)
    (hops : ∀ w ∈ g.ops, w.status.isSome = true)
    (hw : writeDeltaHeaders y i { s with actor := some c } = .ok () d) :
    firingEnd c f i s = flightProgress c f (opSteps r.q 1 (modFlight c f (fun y =>
      { y with streams := firingStreams i y.streams
               steps := modAt i (fun w => { w with firing := none, firings := w.firings + 1 }) y.steps })
      { d with actor := none })) := by
  have ho : g.ops.all (fun o => o.status.isSome) = true := List.all_eq_true.2 hops
  unfold firingEnd
  rw [flightOf_ctx hx hy]
  dsimp only
  rw [hr, hz]
  dsimp only
  rw [hg]
  dsimp only
  rw [if_pos (by rw [hm, ho, decide_eq_true hend]; rfl), tryAct_ok hw]

end

end

/-- Settles O45: each command by what it does to the flight. -/
theorem stepsFireAndEnd : Obligations.StepsFireAndEnd := by
  intro s c f i x y r z hx hy hr hz hm
  refine ⟨fun hk hl hf hi hc hw => ?_, fun g k loops b env p d hg ha hb hi henv hp => ?_, fun g d hg hend hops hw => ?_⟩
  · exact next_dev (computeFiring_fires hx hy hz hm hk hl hf hi hc hw)
  · subst henv hp
    exact ⟨fun out n hrun => next_mem (bodyOpIssue_of_run hx hy hr hz hg ha hb hi hm (.inl ⟨out, n, hrun, rfl⟩)),
      fun w n hrun => next_mem (bodyOpIssue_of_run hx hy hr hz hg ha hb hi hm (.inr ⟨w, n, hrun, rfl⟩))⟩
  · exact next_mem (firingEnd_ok hx hy hr hz hg hm hend hops hw)

end Sys2Proof.Proofs
end

section
/-! PROOFS. R179, R186, R187, R194: notices, credits, DELTA records and measurement records. -/

namespace Sys2Proof.Proofs

open Sys2Proof Sys2Proof.Machine Sys2Proof.Laws

/-- A stream of a flight that runs. -/
theorem streamOfRun_eq {d : Dev} {c f k : Nat} {x : Ctx} {y : Flight} {r : FlightRun} {t : FStream}
    (hx : ctxOf d c = some x) (hy : flightOf x f = some y) (hr : y.run = some r) (ht : y.streams[k]? = some t) :
    streamOfRun d c f k = some t := by
  rw [streamOfRun, hx, Option.bind_some, hy, Option.bind_some, hr, Option.isSome_some, if_pos rfl, ht]

/-- A stream whose DELTA record with the mark `m` has arrived. -/
def markRaised (m : Nat) (t : FStream) : FStream :=
  { t with flying := t.flying - 1, arrived := t.arrived + 1
           watermark := some (match t.watermark with
             | some w => max w m
             | none => m) }

section
variable {c f k : Nat} {s : Dev} {t : FStream} (ht : streamOfRun s c f k = some t)
include ht

theorem slotNotice_takes (hk : t.kind ≠ skDelta) (hf : t.flying ≠ 0) :
    slotNotice c f k s = flightProgress c f (modStream c f k
      (fun t => { t with flying := t.flying - 1, arrived := t.arrived + 1 }) s) := by
  simp only [slotNotice, ht]
  rw [if_neg (not_or.2 ⟨hk, hf⟩)]

theorem streamCredit_returns (hr : t.returning ≠ 0) :
    streamCredit c f k s = resumeRun c (modStream c f k
      (fun t => { t with returning := t.returning - 1, credits := t.credits + 1 }) s) := by
  simp only [streamCredit, ht]
  rw [if_neg hr]

theorem deltaArrive_marks {h : Bytes} {d : Dev} (hk : t.kind = skDelta) (hf : t.flying ≠ 0) (hm : mirrorGoes s c = true)
    (hread : devRead (slotAddr t t.arrived) 64 { s with actor := some c } = .ok h d) :
    deltaArrive c f k s =
      resumeRun c { modStream c f k (markRaised (deltaMark d c (deltaHead h))) d with actor := none } := by
  simp only [deltaArrive, ht]
  rw [if_neg (by simp [hk, hf, hm]), tryAct_ok ((bind_ok hread).trans rfl)]
  rfl

end

/- INGEST_RECORD. -/

section
variable {c f i k : Nat} {s d u v v' : Dev} {x : Ctx} {y : Flight} {r : FlightRun} {z w : FStep} {src : FSource}
  {t : FStream} {b : FrameBuild} {m : Bytes}

/-- The number of frames that a step has closed since `z`. -/
def framesClosed (d : Dev) (c f i : Nat) (z : FStep) : Nat :=
  match (ctxOf d c).bind (fun x => (flightOf x f).bind (fun y => y.steps[i]?)) with
  | some w => w.frames - z.frames
  | none => 0

theorem framesClosed_eq {x1 : Ctx} {y1 : Flight} (hx : ctxOf d c = some x1) (hy : flightOf x1 f = some y1)
    (hw : y1.steps[i]? = some w) : framesClosed { d with actor := none } c f i z = w.frames - z.frames := by
  have hd : ctxOf { d with actor := none } c = some x1 := hx
  rw [framesClosed, hd, Option.bind_some, hy, Option.bind_some, hw]

/-- A change of a step that keeps its frames keeps their number. -/
theorem framesClosed_modStep {x1 : Ctx} {y1 : Flight} {g : FStep → FStep} (hx : ctxOf d c = some x1)
    (hy : flightOf x1 f = some y1) (hw : y1.steps[i]? = some w) (hf : (g w).frames = z.frames) :
    framesClosed { modStep c f i g d with actor := none } c f i z = 0 := by
  have hm : modStep c f i g d =
      setCtx c { x1 with flights := tabSet f { y1 with steps := modAt i g y1.steps } x1.flights } d := by
    unfold modStep modFlight
    rw [modCtx_of_some hx, hy]
  have hy' : flightOf { x1 with flights := tabSet f { y1 with steps := modAt i g y1.steps } x1.flights } f =
      some { y1 with steps := modAt i g y1.steps } := tabGet?_tabSet_same ..
  have hw' : (modAt i g y1.steps)[i]? = some (g w) := by simp [modAt, hw]
  rw [hm, framesClosed_eq (ctxOf_setCtx_same ..) hy' hw', hf, Nat.sub_self]

theorem ingestRecord_of_act (hx : ctxOf s c = some x) (hy : flightOf x f = some y) (hr : y.run = some r)
    (hz : y.steps[i]? = some z) (hs : z.source = some src) (ho : (outputsOf y i).head? = some (t, k))
    (hl : runLive y = true) (hm : mirrorGoes s c = true)
    (hlim : ¬(r.kind = 0 ∧ r.frameLimit ≠ 0 ∧ r.frameLimit ≤ z.frames)) (hc : z.frame = none → t.credits ≠ 0)
    (ha : ingestAct c f i k t z src r.kind { s with actor := some c } = .ok () d) :
    ingestRecord c f i s = flightProgress c f
      (opSteps r.q (framesClosed { d with actor := none } c f i z) { d with actor := none }) := by
  have hlim' : (r.kind == 0 && r.frameLimit != 0 && decide (r.frameLimit ≤ z.frames)) = false := by
    rw [Bool.eq_false_iff]
    simpa [and_assoc] using hlim
  have hcr : (z.frame.isNone && t.credits == 0) = false := by
    rw [Bool.eq_false_iff]
    simpa using hc
  unfold ingestRecord
  rw [flightOf_ctx hx hy]
  dsimp only
  rw [hr, hz]
  dsimp only
  rw [hs, ho]
  dsimp only
  rw [if_neg (by rw [hl, hm, hlim', hcr]; simp), tryAct_ok ha]
  rfl

/-- A change that is made only sometimes, before what follows. -/
theorem changeIf_then {β : Type} {b : Bool} {g : Dev → Dev} {a : Act β} :
    (if b then change g >>= fun _ => a else a) d = a (if b then g d else d) := by
  cases b <;> rfl

section
variable (htake : takeNext c f i z src { s with actor := some c } = .ok m d)
  (hb : b = z.frame.getD { epoch := recEpoch m, explicit := recExplicit m, kept := [], records := 0, invalid := 0,
                           overflow := 0 })
  (hu : u = (if z.frame.isNone then modStream c f k (fun t => { t with credits := t.credits - 1 }) d else d))
include htake hb hu

/-- A record that does not end its frame is kept with it. -/
theorem ingestAct_keeps {n : Nat} (he : recEndFrame m = false) :
    ingestAct c f i k t z src n { s with actor := some c } = .ok ()
      (modStep c f i (fun w => { w with frame := some (takeRecord src.slotBytes t.slotBytes m b) }) u) := by
  subst hb hu
  unfold ingestAct
  rw [bind_ok htake]
  dsimp only
  refine changeIf_then.trans ?_
  rw [he]
  rfl

/-- A record that ends its frame closes it. -/
theorem ingestAct_closes {n : Nat} (he : recEndFrame m = true)
    (hclose : closeFrame c f i k t z (takeRecord src.slotBytes t.slotBytes m b) (recHorizon m) u = .ok () v)
    (hcount : if n = 0 then writeCounters c f v = .ok () v' else v' = v) :
    ingestAct c f i k t z src n { s with actor := some c } = .ok () v' := by
  unfold ingestAct
  rw [bind_ok htake]
  dsimp only
  refine changeIf_then.trans ?_
  rw [← hb, ← hu, if_pos he]
  rw [bind_ok hclose]
  split
  next hn => rwa [if_pos hn] at hcount
  next hn =>
    rw [if_neg hn] at hcount
    rw [hcount]
    rfl

end

/- TAIL_POLL. -/

theorem tailPoll_reads {n : Nat} (hx : ctxOf s c = some x) (hy : flightOf x f = some y) (hz : y.steps[i]? = some z)
    (hs : z.source = some src) (hc : src.chain = false) (hl : runLive y = true) (ht : z.tailSeen ≤ z.consumed)
    (hq : hushed s c = false ∨ isSecondary s = false)
    (hread : rd64 ringEnv src.tail { s with actor := some c } = .ok n d) :
    tailPoll c f i s = { modStep c f i (fun w => { w with tailSeen := n }) d with actor := none } := by
  have hq' : (hushed s c && isSecondary s) = false := by
    rw [Bool.and_eq_false_iff]
    exact hq
  unfold tailPoll
  rw [flightOf_ctx hx hy]
  dsimp only
  rw [hz]
  dsimp only
  rw [hs]
  dsimp only
  rw [if_neg (by rw [hc, hl, hq', decide_eq_false (Nat.not_lt.2 ht)]; simp), tryAct_ok ((bind_ok hread).trans change_ok)]

end

/-- Settles O46: the stream's commands by the stream they find, INGEST_RECORD by the act on its record. -/
theorem streamsCarryRecords : Obligations.StreamsCarryRecords := by
  intro s c f x y r hx hy hr
  refine ⟨fun k t ht => ?_, fun i z src hz hs => ⟨fun t k b m d u x1 y1 w ho hl hm hlim htake hb hc hu => ⟨?_, ?_⟩,
    fun v d hc hl ht hq hread => ?_⟩⟩
  · have hrun := streamOfRun_eq hx hy hr ht
    exact ⟨fun hk hf => next_mem (slotNotice_takes hrun hk hf), fun hret => next_mem (streamCredit_returns hrun hret),
      fun h d hk hf hm hread => next_mem (deltaArrive_marks hrun hk hf hm hread)⟩
  · intro he hx1 hy1 hw hf
    have hact := ingestRecord_of_act hx hy hr hz hs ho hl hm hlim hc (ingestAct_keeps htake hb hu he)
    rw [framesClosed_modStep hx1 hy1 hw hf] at hact
    exact next_mem hact
  · intro v v' he hclose hcount hx1 hy1 hw
    have hact := ingestRecord_of_act hx hy hr hz hs ho hl hm hlim hc (ingestAct_closes htake hb hu he hclose hcount)
    rw [framesClosed_eq hx1 hy1 hw] at hact
    exact next_mem hact
  · exact next_mem (tailPoll_reads hx hy hz hs hc hl ht hq hread)

end Sys2Proof.Proofs
end

section
/-! PROOFS. R186, R208, R209, R213, R215, R216, R218: the messages of boundary exchange. -/

namespace Sys2Proof.Proofs

open Sys2Proof Sys2Proof.Machine Sys2Proof.Laws

/-- Only a device with a chain identifier has an active map. -/
theorem chainHears_of_activeMap {d : Dev} {c : Nat} {p : Run × Boundary} (h : activeMap d c = some p) :
    chainHears d = true := by
  unfold activeMap at h
  split at h
  · split at h
    next hc => exact hc
    · cases h
  · cases h

/- Frames and newels. -/

section
variable {c part k : Nat} {d : Dev} {g : Run} {b : Boundary} {p : Peer} (ha : activeMap d c = some (g, b))
include ha

theorem slotArrives_places {f : FrameSlot → FrameSlot} (hp : peerPart b part = some p) (hb : p.boundary = true)
    (hh : frameHeld b part k = none) (hs : slotFree b part k = true) :
    slotArrives c part k f d = resumeRun c (checkProgress c (judgeSlot c part k (workWritten b
      (modBRun c (fun r => { r with frames := putSlot part k f r.frames }) d)))) := by
  simp only [slotArrives, ha, hp]
  rw [if_neg (by simp [hb, hh, hs])]

theorem resendArrives_answers {y : SentFrame} (hp : peerPart b part = some p)
    (hy : b.run.sent.find? (fun z => z.part == part && z.epoch == k) = some y) :
    resendArrives c part k d = sendFrame b p k y.bits d := by
  simp only [resendArrives, ha, hy, hp]

section
variable {y : FrameSlot} {bits : List Bool} {n crc : Nat} (hp : peerPart b part = some p)
  (hy : b.run.frames.find? (fun z => z.part == part && z.epoch == k) = some y) (hbits : y.bits = some bits)
  (hnewel : y.newel = some (n, crc))

omit ha in
include hbits hnewel in
/-- A slot with both halves is whole where they agree. -/
theorem slotWhole_iff :
    slotWhole y = true ↔ bits.length = n ∧ crc32c (packBits (ceilDiv bits.length 8) bits) = crc := by
  simp [slotWhole, hbits, hnewel, frameCrc]

include hp hy hbits hnewel

/-- What is made of a slot with both halves. -/
theorem judgeSlot_full :
    judgeSlot c part k d =
      if slotWhole y then d
      else if y.resends < 3 then
        sendTo p.chain (.resend b.part k) (modBRun c (fun r => { r with frames := putSlot part k (fun z =>
          { z with bits := none, newel := none, resends := z.resends + 1 }) r.frames }) d)
      else stopRun c (.status stLinkLost (lostDetail ((routeOf d p.chain).getD 0) p)) d := by
  simp only [judgeSlot, ha, hy, hp]
  simp only [hbits, hnewel, Option.isNone_some, Bool.false_or]

theorem judgeSlot_keeps (hn : bits.length = n) (hc : crc32c (packBits (ceilDiv bits.length 8) bits) = crc) :
    judgeSlot c part k d = d :=
  (judgeSlot_full ha hp hy hbits hnewel).trans (if_pos ((slotWhole_iff hbits hnewel).2 ⟨hn, hc⟩))

/-- What is made of a slot whose halves disagree. -/
theorem judgeSlot_disagrees (hd : bits.length ≠ n ∨ crc32c (packBits (ceilDiv bits.length 8) bits) ≠ crc) :
    judgeSlot c part k d =
      if y.resends < 3 then
        sendTo p.chain (.resend b.part k) (modBRun c (fun r => { r with frames := putSlot part k (fun z =>
          { z with bits := none, newel := none, resends := z.resends + 1 }) r.frames }) d)
      else stopRun c (.status stLinkLost (lostDetail ((routeOf d p.chain).getD 0) p)) d :=
  (judgeSlot_full ha hp hy hbits hnewel).trans
    (if_neg (fun hw => not_and_of_not_or_not hd ((slotWhole_iff hbits hnewel).1 hw)))

end

/- The other messages of an active run. -/

theorem helloArrives_active {m : HelloMsg} :
    helloArrives c m d =
      if g.begun then modCtx c (fun x => { x with hellos := putHello m x.hellos }) d
      else resumeRun c (modBRun c (fun r => { r with hellos := putHello m r.hellos }) d) := by
  simp only [helloArrives, chainHears_of_activeMap ha, ha, Bool.not_true, Bool.false_eq_true, if_false]

theorem checkArrives_child {j : CheckPart} (hp : peerPart b j.part = some p) (hc : p.child = true) :
    checkArrives c j d = resumeRun c (checkProgress c (modBRun c (fun r =>
      { r with checks := r.checks.filter (fun i => !(i.part == j.part && i.epoch == j.epoch)) ++ [j] }) d)) := by
  simp only [checkArrives, ha, hp]
  rw [if_neg (by simp [hc])]

theorem verdictArrives_settles {v : VerdictMsg} {pt : CheckPoint} (hp : b.run.point = some pt) (he : pt.epoch = v.epoch)
    (hb : b.part ≠ 0) :
    verdictArrives c v d = resumeRun c (settleVerdict c (modBRun c (fun r => { r with due := some v }) d)) := by
  simp only [verdictArrives, ha, hp]
  rw [if_neg (by simp [he, hb])]

theorem noticeArrives_ends {e : EndKind} (hs : g.stop = none) (he : g.ending = none) (hn : b.run.notice = none) :
    noticeArrives c part e d = resumeRun c
      (stopRun c (if e = .stopFence then .stopFence else .status stAborted anyDetail)
        (sendNotices b part e (modBRun c (fun r => { r with notice := some (part, e) }) d))) := by
  simp only [noticeArrives, ha]
  rw [if_neg (by simp [hs, he, hn])]

end

/-- A hello without an active run is kept for a later one. -/
theorem helloArrives_waits {c : Nat} {d : Dev} {m : HelloMsg} (hc : chainHears d = true) (ha : activeMap d c = none) :
    helloArrives c m d = modCtx c (fun x => { x with hellos := putHello m x.hellos }) d := by
  simp only [helloArrives, hc, ha, Bool.not_true, Bool.false_eq_true, if_false]

/-- Settles O47: each message by what arrives. -/
theorem boundaryMessagesAreTaken : Obligations.BoundaryMessagesAreTaken := by
  refine ⟨⟨fun s c part k g b p ha hp => ⟨fun hb hh hs => ⟨fun v => ?_, fun n crc => ?_⟩, fun y hy => ?_⟩,
    fun d c part k g b p y bits n crc ha hp hy hbits hnewel => ⟨fun hn hc => ?_, fun hd hr => ?_, fun hd hr => ?_⟩⟩,
    fun s c => ⟨fun m hc ha => ?_, fun tag n data hc => ?_, fun g b ha =>
      ⟨fun m => ?_, fun part k x y n p hp hc => ?_, fun v pt hp he hb => ?_, fun part e hs he hn => ?_⟩⟩⟩
  · exact next_mem (slotArrives_places ha hp hb hh hs)
  · exact next_mem (slotArrives_places ha hp hb hh hs)
  · exact next_mem (resendArrives_answers ha hp hy)
  · exact judgeSlot_keeps ha hp hy hbits hnewel hn hc
  · exact (judgeSlot_disagrees ha hp hy hbits hnewel hd).trans (if_pos hr)
  · exact (judgeSlot_disagrees ha hp hy hbits hnewel hd).trans (if_neg (Nat.not_lt.2 hr))
  · exact next_mem (helloArrives_waits hc ha)
  · exact next_dev (if_pos (show chainHears s.dev = true from hc))
  · exact next_mem (helloArrives_active ha)
  · exact next_mem (checkArrives_child (j := { part := part.val, epoch := k, sumA := x, sumB := y, parts := n }) ha hp hc)
  · exact next_mem (verdictArrives_settles ha hp he hb)
  · exact next_mem (noticeArrives_ends ha hs he hn)

end Sys2Proof.Proofs
end
